-- ==== Sys2Proof/Word.lean ====
section
/-! DEFINITION. The word types of the machine: 64-bit scalars, 32-bit lanes and instruction words, bytes, and the
128-byte vector value of 32 lanes (R18, R134). -/

namespace Sys2Proof

/-- A scalar register, an address or a system register (R18). -/
abbrev Word := BitVec 64

/-- One 32-bit lane, one raw tile word, or one instruction word (R18, R51). -/
abbrev Lane := BitVec 32

/-- The smallest addressable unit; all data is little-endian (R7). -/
abbrev Byte := BitVec 8

/-- The value of a vector register: lane `i` holds bytes `4i` to `4i + 3` (R134). -/
abbrev Lanes := Vector Lane 32

/-- Every lane zero. -/
def Lanes.zero : Lanes := Vector.replicate 32 0

end Sys2Proof
end

