-- ==== Sys2Proof/Config.lean ====
section
/-! DEFINITION. The values the spec leaves open, as constants without a body: nothing in Lean can evaluate one, so every
statement holds whatever they are. -/

namespace Sys2Proof.Config

/-- What a scratch byte reads as before it is written, at each step anew (R238). [DESIGN CHOICE, log 2] -/
opaque freeByte (step addr : Nat) : Byte
/-- A byte that an ended or cut engine operation left unspecified (R347, R371). [DESIGN CHOICE, log 2] -/
opaque cutByte (step addr : Nat) : Byte
/-- Nanoseconds of Welt time that pass in a step (R5, R24 TIME). [DESIGN CHOICE, log 3] -/
opaque elapsed (step : Nat) : Nat
/-- Microjoules charged to the task for an issued instruction (R24 ECOUNT, R197). [DESIGN CHOICE, log 3] -/
opaque energy (step : Nat) : Nat
/-- The instructions that a vector of the Laster retires when it serves a trap (R369, R419). [DESIGN CHOICE, log 19] -/
opaque vectorLength (step : Nat) : Nat
/-- The candidate that the distributor takes among the placements a card's constraints allow (R198). [DESIGN CHOICE, log 4] -/
opaque placement (step : Nat) : Nat
/-- The key that `mcap` mints, before it is made non-zero and unused (R332). [DESIGN CHOICE, log 5] -/
opaque capKey (step : Nat) : Nat
/-- The address space that the Laster gives the cards of a host queue (R361, R409, R412). [DESIGN CHOICE, log 6] -/
opaque queueSpace (queue : Nat) : BitVec 16
/-- The overflow area the Laster allots to a task's thread, or 0 (R31, R104). [DESIGN CHOICE, log 6] -/
opaque spillArea (task thread : Nat) : Word
/-- Where the Laster puts a context's save area, as a physical page number (R350). [DESIGN CHOICE, log 6] -/
opaque saveAreaPage (task thread : Nat) : Nat
/-- Where the Laster puts an evicted partition's image, as a physical page number (R356). [DESIGN CHOICE, log 6] -/
opaque imagePage (task thread : Nat) : Nat
/-- What the Laster writes to a Welt register of a die, or of the device with die 8, when it starts: 0 TVEC, 1 FRBASE, 2 FRSLOTS,
3 SUPER, 4 LWBASE, 5 SCOPEBASE, 6 HOTBASE, 7 POOLBASE, 8 POOLPAGES (R413 step 8). [DESIGN CHOICE, log 6] -/
opaque lasterValue (register die : Nat) : Word
/-- Steps of 25 MHz by which a power cap lowers the arithmetic clock, before they are cut to 14 (R421). [DESIGN CHOICE, log 3] -/
opaque clockSteps (watts : Nat) : Nat
/-- Where the Laster puts the debug save area of a thread slot, as a physical page number (R422). [DESIGN CHOICE, log 6] -/
opaque debugPage (thread : Nat) : Nat
/-- What the boundary scan register samples from the module's pins (R421). [DESIGN CHOICE, log 7] -/
opaque pins (step : Nat) : Word
/-- The address space of the Laster, the only one that maps the Welt register space (R411). [DESIGN CHOICE, log 99] -/
opaque lasterSpace : Nat
/-- The namespace handles that the Laster grants, under 2³² times the address space plus the handle, with their controllers (R308,
R421). [DESIGN CHOICE, log 6] -/
opaque namespaceGrants : List (Nat × Nat)
/-- The address spaces that the Laster grants to the drains of other devices (R308). [DESIGN CHOICE, log 6] -/
opaque drainSpaces : List Nat
/-- The address space that a drain names on each device that takes drains (R308). [DESIGN CHOICE, log 6] -/
opaque drainTargets : List (Nat × Nat)

/-! ### Identity and cryptography (R411, R413 to R418) -/

/-- The mask boot ROM, of 64 KiB (R411). [DESIGN CHOICE, log 7] -/
opaque rom : Vector Byte 65536
/-- The start-up pattern of the SRAM at power-on (R413, R417). [DESIGN CHOICE, log 7] -/
opaque startPattern : List Byte
/-- The device seed that a start-up pattern gives with the helper data, where they give one (R417). [DESIGN CHOICE, log 7] -/
opaque rebuildSeed (pattern helper : List Byte) : Option (BitVec 256)
/-- HKDF-SHA-384 from the device seed: 0 the private RSA-3072 key, 1 the private SLH-DSA key, 2 the key of FLOOR (R415, R417).
[DESIGN CHOICE, log 7] -/
opaque hkdf (seed : BitVec 256) (purpose : Nat) : List Byte
/-- HMAC-SHA-384 (R415). [DESIGN CHOICE, log 7] -/
opaque hmacSha384 (key message : List Byte) : List Byte
/-- SHA-384 (R414, R418). [DESIGN CHOICE, log 7] -/
opaque sha384 (message : List Byte) : List Byte
/-- The Thavon public keys in the ROM: 0 RSA-3072 with exponent 65,537, 1 SLH-DSA-SHA2-192s (R414). [DESIGN CHOICE, log 7] -/
opaque thavonKey (scheme : Nat) : List Byte
/-- Whether a public key verifies a signature of a message: 0 RSASSA-PSS, 1 SLH-DSA (R414). [DESIGN CHOICE, log 7] -/
opaque verifies (scheme : Nat) (key message signature : List Byte) : Bool
/-- The signature of a message under a private key: 0 RSASSA-PSS, 1 SLH-DSA (R418). [DESIGN CHOICE, log 7] -/
opaque signature (scheme : Nat) (key message : List Byte) : List Byte
/-- The device's identity certificates, kept in flash (R417). [DESIGN CHOICE, log 7] -/
opaque certificates : List Byte

end Sys2Proof.Config
end

