-- ==== Sys2Proof/Syntax.lean ====
section
/-! DEFINITION. The instructions of the machine: operand names and codes (R18, R58 to R63) and the one inductive
`Instr`, a constructor for every row of the opcode table. -/

namespace Sys2Proof

/-- A scalar register number, d0 to d31 (R18). -/
abbrev DReg := BitVec 5
/-- A vector register number, v0 to v31. -/
abbrev VReg := BitVec 5
/-- A predicate register number, p0 to p7. -/
abbrev PReg := BitVec 3
/-- A region register number, q0 to q15. -/
abbrev QReg := BitVec 4
/-- A tile register number, z0 to z7. -/
abbrev ZReg := BitVec 3
/-- An engine-context name, e0 to e15. -/
abbrev EReg := BitVec 4
/-- A set or scope name, m0 to m15. -/
abbrev MReg := BitVec 4
/-- A handle number, h0 to h63. -/
abbrev HReg := BitVec 6
/-- A tensor identifier, t0 to t63. -/
abbrev TReg := BitVec 6

/-- The destination class of the W field (R58). -/
inductive WClass where
  | none | wrs | wgs | wrd
  deriving DecidableEq, Repr

/-- The full-empty modifier of a scratch load (R96). -/
inductive FE where
  | plain | full | fullClear
  deriving DecidableEq, Repr

/-- The integer types 0 to 7 of R60. -/
inductive IntTy where
  | s8 | s16 | s32 | s64 | n8 | n16 | n32 | n64
  deriving DecidableEq, Repr

/-- The type codes 0 to 12 of R60. -/
inductive Ty where
  | s8 | s16 | s32 | s64 | n8 | n16 | n32 | n64 | f32 | f16 | bf16 | t8 | t6
  deriving DecidableEq, Repr

/-- The IEEE types a vector floating instruction computes in (R145). -/
inductive FTy where
  | f32 | f16 | bf16
  deriving DecidableEq, Repr

/-- The scope codes of R61. -/
inductive Scope where
  | thread | core | tile | cluster | die | device | domain | system
  deriving DecidableEq, Repr

/-- The cache-policy codes of R61: normal, `.na`, `.ev`. -/
inductive CachePolicy where
  | normal | noAlloc | evictFirst
  deriving DecidableEq, Repr

/-- The scope operand of `acq`, `rel` and `fence` (R61): a level or a named scope. -/
inductive FenceScope where
  | level (s : Scope)
  | named (m : MReg)
  deriving DecidableEq, Repr

/-- The integer comparisons of `pcmp` and `vcmp` (R89, R142). -/
inductive CmpOp where
  | eq | ne | lt | ge | ltn | gen
  deriving DecidableEq, Repr

/-- The floating comparisons of `vfcmp` (R148). -/
inductive FCmpOp where
  | eq | ne | lt | ge
  deriving DecidableEq, Repr

/-- The governing predicate of a vector instruction (R62): `none` executes every lane. -/
abbrev Gov := Option PReg

/-- The handle and need of an access that waits through a handle (R59); `none` when HV = 0. -/
abbrev HNeed := Option (HReg × BitVec 4)

/-- Why a fetched word is no instruction: the ILL subcodes that decoding alone decides (R69, R35). -/
inductive Reject where
  | opcode | mbz | length | literal | zero | value
  deriving DecidableEq, Repr

/-- Why an instruction could not be fetched (R35, R341). -/
inductive FetchFail where
  | absent | noexec | straddle | align
  deriving DecidableEq, Repr

/-- One packet of the Driac fabric transport as received (R399); its operation is the constructor that carries it,
and a packet whose CRC fails is never received. -/
structure FabPacket where
  /-- Transport version. -/
  ver : Nat
  /-- Bits 2:0 SIZE, 3 TOPINF, 7:4 AOP, 9:8 ATYPE, 10 POSTED. -/
  flags : BitVec 16
  /-- Sending device number. -/
  src : Nat
  /-- Receiving device number. -/
  dst : Nat
  /-- Sequence number on the connection. -/
  seq : BitVec 32
  /-- Highest sequence of the peer received in order. -/
  ack : BitVec 32
  /-- Request tag. -/
  tag : BitVec 32
  /-- Operation-specific. -/
  aux : BitVec 32
  /-- Local physical address, or operation-specific. -/
  addr : Word
  /-- BEATS × 128 bytes. -/
  payload : List Byte
  deriving DecidableEq, Repr


/-- The instructions and events of the machine, one constructor per row of the opcode table, in the table's order.
Rows with words are instructions of a thread (R64 to R67); the rows after `preempt` are the machine's own steps. -/
inductive Instr where
  /-- `ADD` (R84). -/
  | add (a b c : DReg)
  /-- `SUB` (R84). -/
  | sub (a b c : DReg)
  /-- `MUL` (R84). -/
  | mul (a b c : DReg)
  /-- `MULH` (R84). -/
  | mulh (a b c : DReg)
  /-- `MULHN` (R84). -/
  | mulhn (a b c : DReg)
  /-- `DIV` (R85). -/
  | div (a b c : DReg)
  /-- `DIVN` (R85). -/
  | divn (a b c : DReg)
  /-- `REM` (R85). -/
  | rem (a b c : DReg)
  /-- `REMN` (R85). -/
  | remn (a b c : DReg)
  /-- `MIN` (R84). -/
  | min (a b c : DReg)
  /-- `MAX` (R84). -/
  | max (a b c : DReg)
  /-- `MINN` (R84). -/
  | minn (a b c : DReg)
  /-- `MAXN` (R84). -/
  | maxn (a b c : DReg)
  /-- `ADD_LIT` (R83). -/
  | addLit (a b : DReg) (k : Word)
  /-- `SUB_LIT` (R83). -/
  | subLit (a b : DReg) (k : Word)
  /-- `MUL_LIT` (R83). -/
  | mulLit (a b : DReg) (k : Word)
  /-- `MULH_LIT` (R83). -/
  | mulhLit (a b : DReg) (k : Word)
  /-- `MULHN_LIT` (R83). -/
  | mulhnLit (a b : DReg) (k : Word)
  /-- `DIV_LIT` (R83). -/
  | divLit (a b : DReg) (k : Word)
  /-- `DIVN_LIT` (R83). -/
  | divnLit (a b : DReg) (k : Word)
  /-- `REM_LIT` (R83). -/
  | remLit (a b : DReg) (k : Word)
  /-- `REMN_LIT` (R83). -/
  | remnLit (a b : DReg) (k : Word)
  /-- `MIN_LIT` (R83). -/
  | minLit (a b : DReg) (k : Word)
  /-- `MAX_LIT` (R83). -/
  | maxLit (a b : DReg) (k : Word)
  /-- `MINN_LIT` (R83). -/
  | minnLit (a b : DReg) (k : Word)
  /-- `MAXN_LIT` (R83). -/
  | maxnLit (a b : DReg) (k : Word)
  /-- `ADD_IMM` (R84). -/
  | addImm (a b : DReg) (i : BitVec 14)
  /-- `AND` (R86). -/
  | and (a b c : DReg)
  /-- `OR` (R86). -/
  | or (a b c : DReg)
  /-- `XOR` (R86). -/
  | xor (a b c : DReg)
  /-- `ANDN` (R86). -/
  | andn (a b c : DReg)
  /-- `ORN` (R86). -/
  | orn (a b c : DReg)
  /-- `SLL` (R86). -/
  | sll (a b c : DReg)
  /-- `SRL` (R86). -/
  | srl (a b c : DReg)
  /-- `SRA` (R86). -/
  | sra (a b c : DReg)
  /-- `ROL` (R86). -/
  | rol (a b c : DReg)
  /-- `ROR` (R86). -/
  | ror (a b c : DReg)
  /-- `BEXT` (R87). -/
  | bext (a b c : DReg)
  /-- `BINS` (R87). -/
  | bins (a b c : DReg)
  /-- `CLZ` (R86). -/
  | clz (a b : DReg)
  /-- `CTZ` (R86). -/
  | ctz (a b : DReg)
  /-- `POPC` (R86). -/
  | popc (a b : DReg)
  /-- `BREV` (R86). -/
  | brev (a b : DReg)
  /-- `SLL_AMOUNT` (R86). -/
  | sllAmount (a b : DReg) (n : BitVec 6)
  /-- `SRL_AMOUNT` (R86). -/
  | srlAmount (a b : DReg) (n : BitVec 6)
  /-- `SRA_AMOUNT` (R86). -/
  | sraAmount (a b : DReg) (n : BitVec 6)
  /-- `ROL_AMOUNT` (R86). -/
  | rolAmount (a b : DReg) (n : BitVec 6)
  /-- `ROR_AMOUNT` (R86). -/
  | rorAmount (a b : DReg) (n : BitVec 6)
  /-- `AND_LIT` (R86). -/
  | andLit (a b : DReg) (k : Word)
  /-- `OR_LIT` (R86). -/
  | orLit (a b : DReg) (k : Word)
  /-- `XOR_LIT` (R86). -/
  | xorLit (a b : DReg) (k : Word)
  /-- `ANDN_LIT` (R86). -/
  | andnLit (a b : DReg) (k : Word)
  /-- `ORN_LIT` (R86). -/
  | ornLit (a b : DReg) (k : Word)
  /-- `BEXT_LIT` (R87). -/
  | bextLit (a b : DReg) (k : Word)
  /-- `BINS_LIT` (R87). -/
  | binsLit (a b : DReg) (k : Word)
  /-- `AND_IMM` (R86). -/
  | andImm (a b : DReg) (i : BitVec 14)
  /-- `OR_IMM` (R86). -/
  | orImm (a b : DReg) (i : BitVec 14)
  /-- `XOR_IMM` (R86). -/
  | xorImm (a b : DReg) (i : BitVec 14)
  /-- `SLT` (R88). -/
  | slt (a b c : DReg)
  /-- `SLTN` (R88). -/
  | sltn (a b c : DReg)
  /-- `SEQ` (R88). -/
  | seq (a b c : DReg)
  /-- `MOV` (R88). -/
  | mov (a b : DReg)
  /-- `CSEL` (R88). -/
  | csel (a b c : DReg) (p : PReg)
  /-- `SLT_LIT` (R88). -/
  | sltLit (a b : DReg) (k : Word)
  /-- `SLTN_LIT` (R88). -/
  | sltnLit (a b : DReg) (k : Word)
  /-- `SEQ_LIT` (R88). -/
  | seqLit (a b : DReg) (k : Word)
  /-- `LI_LIT` (R88). -/
  | liLit (a : DReg) (k : Word)
  /-- `SLT_IMM` (R88). -/
  | sltImm (a b : DReg) (i : BitVec 14)
  /-- `SLTN_IMM` (R88). -/
  | sltnImm (a b : DReg) (i : BitVec 14)
  /-- `SEQ_IMM` (R88). -/
  | seqImm (a b : DReg) (i : BitVec 14)
  /-- `LI_IMM` (R88). -/
  | liImm (a : DReg) (i : BitVec 14)
  /-- `PCMP_EQ` (R89). -/
  | pcmpEq (a : PReg) (b c : DReg)
  /-- `PCMP_NE` (R89). -/
  | pcmpNe (a : PReg) (b c : DReg)
  /-- `PCMP_LT` (R89). -/
  | pcmpLt (a : PReg) (b c : DReg)
  /-- `PCMP_GE` (R89). -/
  | pcmpGe (a : PReg) (b c : DReg)
  /-- `PCMP_LTN` (R89). -/
  | pcmpLtn (a : PReg) (b c : DReg)
  /-- `PCMP_GEN` (R89). -/
  | pcmpGen (a : PReg) (b c : DReg)
  /-- `PAND` (R89). -/
  | pand (a b c : PReg)
  /-- `POR` (R89). -/
  | por (a b c : PReg)
  /-- `PXOR` (R89). -/
  | pxor (a b c : PReg)
  /-- `PNOT` (R89). -/
  | pnot (a b : PReg)
  /-- `PCNT` (R89). -/
  | pcnt (a : DReg) (b : PReg)
  /-- `PFIRST` (R89). -/
  | pfirst (a : DReg) (b : PReg)
  /-- `BEQ` (R90). -/
  | beq (a b : DReg) (o : BitVec 14)
  /-- `BNE` (R90). -/
  | bne (a b : DReg) (o : BitVec 14)
  /-- `CALL` (R91). -/
  | call (o : BitVec 24)
  /-- `BLT` (R90). -/
  | blt (a b : DReg) (i : BitVec 32)
  /-- `BGE` (R90). -/
  | bge (a b : DReg) (i : BitVec 32)
  /-- `BLTN` (R90). -/
  | bltn (a b : DReg) (i : BitVec 32)
  /-- `BGEN` (R90). -/
  | bgen (a b : DReg) (i : BitVec 32)
  /-- `BEQ_X` (R90). -/
  | beqX (a b : DReg) (i : BitVec 32)
  /-- `BNE_X` (R90). -/
  | bneX (a b : DReg) (i : BitVec 32)
  /-- `BPT` (R90). -/
  | bpt (a : PReg) (i : BitVec 32)
  /-- `BPF` (R90). -/
  | bpf (a : PReg) (i : BitVec 32)
  /-- `CALL_X` (R91). -/
  | callX (i : BitVec 32)
  /-- `JR` (R91). -/
  | jr (a : DReg)
  /-- `CALLR` (R91). -/
  | callr (a : DReg)
  /-- `RET` (R91). -/
  | ret
  /-- `LOOP` (R93). -/
  | loop (a : DReg) (o : BitVec 10)
  /-- `LOOP_X` (R93). -/
  | loopX (a : DReg) (i : BitVec 32)
  /-- `LEND` (R94). -/
  | lend
  /-- `LBRK` (R94). -/
  | lbrk
  /-- `LIDX` (R94). -/
  | lidx (a : DReg)
  /-- `NOP` (R91). -/
  | nop
  /-- `LDS` (R96). -/
  | lds (w : WClass) (q : FE) (t : IntTy) (a b : DReg) (off : BitVec 5)
  /-- `LDS_X` (R96). -/
  | ldsX (w : WClass) (q : FE) (t : IntTy) (a b : DReg) (i : BitVec 32) (h : HNeed)
  /-- `STS` (R96). -/
  | sts (w : WClass) (s : Bool) (t : IntTy) (a b : DReg) (off : BitVec 5)
  /-- `STS_X` (R96). -/
  | stsX (w : WClass) (s : Bool) (t : IntTy) (a b : DReg) (i : BitVec 32) (h : HNeed)
  /-- `LDP` (R100). -/
  | ldp (w : WClass) (q : FE) (t : IntTy) (a b c : DReg)
  /-- `LDP_X` (R100). -/
  | ldpX (w : WClass) (q : FE) (t : IntTy) (a b c : DReg) (i : BitVec 32)
  /-- `STP` (R101). -/
  | stp (w : WClass) (s : Bool) (t : IntTy) (a b c : DReg)
  /-- `STP_X` (R101). -/
  | stpX (w : WClass) (s : Bool) (t : IntTy) (a b c : DReg) (i : BitVec 32)
  /-- `FES` (R99). -/
  | fes (a b : DReg)
  /-- `FEC` (R99). -/
  | fec (a b : DReg)
  /-- `PUSH` (R104). -/
  | push (a : DReg)
  /-- `PUSH_X` (R104). -/
  | pushX (mask : BitVec 32)
  /-- `POP` (R104). -/
  | pop (a : DReg)
  /-- `POP_X` (R104). -/
  | popX (mask : BitVec 32)
  /-- `PUSH_V` (R103). -/
  | pushV (mask : BitVec 32)
  /-- `POP_V` (R103). -/
  | popV (mask : BitVec 32)
  /-- `VADD` (R138). -/
  | vadd (a b c : VReg)
  /-- `VSUB` (R138). -/
  | vsub (a b c : VReg)
  /-- `VMUL` (R138). -/
  | vmul (a b c : VReg)
  /-- `VMULH` (R138). -/
  | vmulh (a b c : VReg)
  /-- `VMAD` (R138). -/
  | vmad (a b c : VReg)
  /-- `VMIN` (R138). -/
  | vmin (a b c : VReg)
  /-- `VMAX` (R138). -/
  | vmax (a b c : VReg)
  /-- `VMINN` (R138). -/
  | vminn (a b c : VReg)
  /-- `VMAXN` (R138). -/
  | vmaxn (a b c : VReg)
  /-- `VABS` (R138). -/
  | vabs (a b : VReg)
  /-- `VNEG` (R138). -/
  | vneg (a b : VReg)
  /-- `VADD_X` (R135). -/
  | vaddX (a b c : VReg) (n : Bool) (g : Gov)
  /-- `VSUB_X` (R135). -/
  | vsubX (a b c : VReg) (n : Bool) (g : Gov)
  /-- `VMUL_X` (R135). -/
  | vmulX (a b c : VReg) (n : Bool) (g : Gov)
  /-- `VMULH_X` (R135). -/
  | vmulhX (a b c : VReg) (n : Bool) (g : Gov)
  /-- `VMAD_X` (R135). -/
  | vmadX (a b c : VReg) (n : Bool) (g : Gov)
  /-- `VMIN_X` (R135). -/
  | vminX (a b c : VReg) (n : Bool) (g : Gov)
  /-- `VMAX_X` (R135). -/
  | vmaxX (a b c : VReg) (n : Bool) (g : Gov)
  /-- `VMINN_X` (R135). -/
  | vminnX (a b c : VReg) (n : Bool) (g : Gov)
  /-- `VMAXN_X` (R135). -/
  | vmaxnX (a b c : VReg) (n : Bool) (g : Gov)
  /-- `VABS_X` (R135). -/
  | vabsX (a b : VReg) (g : Gov)
  /-- `VNEG_X` (R135). -/
  | vnegX (a b : VReg) (n : Bool) (g : Gov)
  /-- `VAND` (R139). -/
  | vand (a b c : VReg)
  /-- `VOR` (R139). -/
  | vor (a b c : VReg)
  /-- `VXOR` (R139). -/
  | vxor (a b c : VReg)
  /-- `VANDN` (R139). -/
  | vandn (a b c : VReg)
  /-- `VLOP3` (R140). -/
  | vlop3 (a b c d : VReg) (table : BitVec 8) (n : Bool) (g : Gov)
  /-- `VSLL` (R139). -/
  | vsll (a b c : VReg)
  /-- `VSRL` (R139). -/
  | vsrl (a b c : VReg)
  /-- `VSRA` (R139). -/
  | vsra (a b c : VReg)
  /-- `VROT` (R139). -/
  | vrot (a b c : VReg)
  /-- `VFSL` (R141). -/
  | vfsl (a b c : VReg) (d : DReg) (n : Bool) (g : Gov)
  /-- `VFSR` (R141). -/
  | vfsr (a b c : VReg) (d : DReg) (n : Bool) (g : Gov)
  /-- `VCLZ` (R139). -/
  | vclz (a b : VReg)
  /-- `VPOPC` (R139). -/
  | vpopc (a b : VReg)
  /-- `VAND_X` (R135). -/
  | vandX (a b c : VReg) (n : Bool) (g : Gov)
  /-- `VOR_X` (R135). -/
  | vorX (a b c : VReg) (n : Bool) (g : Gov)
  /-- `VXOR_X` (R135). -/
  | vxorX (a b c : VReg) (n : Bool) (g : Gov)
  /-- `VANDN_X` (R135). -/
  | vandnX (a b c : VReg) (n : Bool) (g : Gov)
  /-- `VSLL_X` (R135). -/
  | vsllX (a b c : VReg) (n : Bool) (g : Gov)
  /-- `VSRL_X` (R135). -/
  | vsrlX (a b c : VReg) (n : Bool) (g : Gov)
  /-- `VSRA_X` (R135). -/
  | vsraX (a b c : VReg) (n : Bool) (g : Gov)
  /-- `VROT_X` (R135). -/
  | vrotX (a b c : VReg) (n : Bool) (g : Gov)
  /-- `VCLZ_X` (R135). -/
  | vclzX (a b : VReg) (n : Bool) (g : Gov)
  /-- `VPOPC_X` (R135). -/
  | vpopcX (a b : VReg) (n : Bool) (g : Gov)
  /-- `VSLL_AMOUNT` (R139). -/
  | vsllAmount (a b : VReg) (k : BitVec 5) (n : Bool) (g : Gov)
  /-- `VSRL_AMOUNT` (R139). -/
  | vsrlAmount (a b : VReg) (k : BitVec 5) (n : Bool) (g : Gov)
  /-- `VSRA_AMOUNT` (R139). -/
  | vsraAmount (a b : VReg) (k : BitVec 5) (n : Bool) (g : Gov)
  /-- `VROT_AMOUNT` (R139). -/
  | vrotAmount (a b : VReg) (k : BitVec 5) (n : Bool) (g : Gov)
  /-- `VFSL_AMOUNT` (R141). -/
  | vfslAmount (a b c : VReg) (k : BitVec 5) (n : Bool) (g : Gov)
  /-- `VFSR_AMOUNT` (R141). -/
  | vfsrAmount (a b c : VReg) (k : BitVec 5) (n : Bool) (g : Gov)
  /-- `VCMP_EQ` (R142). -/
  | vcmpEq (a : PReg) (b c : VReg)
  /-- `VCMP_NE` (R142). -/
  | vcmpNe (a : PReg) (b c : VReg)
  /-- `VCMP_LT` (R142). -/
  | vcmpLt (a : PReg) (b c : VReg)
  /-- `VCMP_GE` (R142). -/
  | vcmpGe (a : PReg) (b c : VReg)
  /-- `VCMP_LTN` (R142). -/
  | vcmpLtn (a : PReg) (b c : VReg)
  /-- `VCMP_GEN` (R142). -/
  | vcmpGen (a : PReg) (b c : VReg)
  /-- `VSEL` (R142). -/
  | vsel (a b c : VReg) (p : PReg)
  /-- `VMOV` (R142). -/
  | vmov (a b : VReg)
  /-- `VBCAST` (R142). -/
  | vbcast (a : VReg) (b : DReg)
  /-- `VLANE` (R142). -/
  | vlane (a : DReg) (b : VReg) (l : BitVec 5)
  /-- `VPUT` (R142). -/
  | vput (a : VReg) (b : DReg) (l : BitVec 5)
  /-- `VCMP_X` (R135). -/
  | vcmpX (op : CmpOp) (a : PReg) (b c : VReg) (g : Gov)
  /-- `VSEL_X` (R142). -/
  | vselX (a b c : VReg) (p : PReg) (g : Gov)
  /-- `VMOV_X` (R135). -/
  | vmovX (a b : VReg) (g : Gov)
  /-- `VBCAST_X` (R135). -/
  | vbcastX (a : VReg) (b : DReg) (g : Gov)
  /-- `VLANE_X` (R142). -/
  | vlaneX (a : DReg) (b : VReg) (l : BitVec 5)
  /-- `VPUT_X` (R142). -/
  | vputX (a : VReg) (b : DReg) (l : BitVec 5) (g : Gov)
  /-- `VPERM` (R143). -/
  | vperm (a b c : VReg)
  /-- `VSHUF` (R143). -/
  | vshuf (a b c : VReg)
  /-- `VSLIDE` (R143). -/
  | vslide (a b : VReg) (c : DReg)
  /-- `VREDADD` (R143). -/
  | vredadd (a : DReg) (b : VReg)
  /-- `VREDMIN` (R143). -/
  | vredmin (a : DReg) (b : VReg)
  /-- `VREDMAX` (R143). -/
  | vredmax (a : DReg) (b : VReg)
  /-- `VREDAND` (R143). -/
  | vredand (a : DReg) (b : VReg)
  /-- `VREDOR` (R143). -/
  | vredor (a : DReg) (b : VReg)
  /-- `VREDXOR` (R143). -/
  | vredxor (a : DReg) (b : VReg)
  /-- `VPERM_X` (R135). -/
  | vpermX (a b c : VReg) (n : Bool) (g : Gov)
  /-- `VSHUF_X` (R135). -/
  | vshufX (a b c : VReg) (n : Bool) (g : Gov)
  /-- `VSLIDE_X` (R135). -/
  | vslideX (a b : VReg) (c : DReg) (n : Bool) (g : Gov)
  /-- `VREDADD_X` (R143). -/
  | vredaddX (a : DReg) (b : VReg) (n : Bool) (g : Gov)
  /-- `VREDMIN_X` (R143). -/
  | vredminX (a : DReg) (b : VReg) (n : Bool) (g : Gov)
  /-- `VREDMAX_X` (R143). -/
  | vredmaxX (a : DReg) (b : VReg) (n : Bool) (g : Gov)
  /-- `VREDAND_X` (R143). -/
  | vredandX (a : DReg) (b : VReg) (n : Bool) (g : Gov)
  /-- `VREDOR_X` (R143). -/
  | vredorX (a : DReg) (b : VReg) (n : Bool) (g : Gov)
  /-- `VREDXOR_X` (R143). -/
  | vredxorX (a : DReg) (b : VReg) (n : Bool) (g : Gov)
  /-- `VFADD` (R145). -/
  | vfadd (a b c : VReg)
  /-- `VFSUB` (R145). -/
  | vfsub (a b c : VReg)
  /-- `VFMUL` (R145). -/
  | vfmul (a b c : VReg)
  /-- `VFMA` (R145). -/
  | vfma (a b c : VReg)
  /-- `VFMIN` (R146). -/
  | vfmin (a b c : VReg)
  /-- `VFMAX` (R146). -/
  | vfmax (a b c : VReg)
  /-- `VFABS` (R146). -/
  | vfabs (a b : VReg)
  /-- `VFNEG` (R146). -/
  | vfneg (a b : VReg)
  /-- `VFRCP` (R147). -/
  | vfrcp (a b : VReg)
  /-- `VFRSQ` (R147). -/
  | vfrsq (a b : VReg)
  /-- `VFCMP_EQ` (R148). -/
  | vfcmpEq (a : PReg) (b c : VReg)
  /-- `VFCMP_NE` (R148). -/
  | vfcmpNe (a : PReg) (b c : VReg)
  /-- `VFCMP_LT` (R148). -/
  | vfcmpLt (a : PReg) (b c : VReg)
  /-- `VFCMP_GE` (R148). -/
  | vfcmpGe (a : PReg) (b c : VReg)
  /-- `VCVT` (R149). -/
  | vcvt (a b : VReg)
  /-- `VCVT_X` (R149). -/
  | vcvtX (a b : VReg) (dt st : Ty) (g : Gov)
  /-- `VCVT_SAT` (R149). -/
  | vcvtSat (a b : VReg) (dt st : Ty) (g : Gov)
  /-- `VFADD_X` (R145). -/
  | vfaddX (a b c : VReg) (t : FTy) (g : Gov)
  /-- `VFSUB_X` (R145). -/
  | vfsubX (a b c : VReg) (t : FTy) (g : Gov)
  /-- `VFMUL_X` (R145). -/
  | vfmulX (a b c : VReg) (t : FTy) (g : Gov)
  /-- `VFMA_X` (R145). -/
  | vfmaX (a b c : VReg) (t : FTy) (g : Gov)
  /-- `VFMIN_X` (R146). -/
  | vfminX (a b c : VReg) (t : FTy) (g : Gov)
  /-- `VFMAX_X` (R146). -/
  | vfmaxX (a b c : VReg) (t : FTy) (g : Gov)
  /-- `VFABS_X` (R146). -/
  | vfabsX (a b : VReg) (t : FTy) (g : Gov)
  /-- `VFNEG_X` (R146). -/
  | vfnegX (a b : VReg) (t : FTy) (g : Gov)
  /-- `VFRCP_X` (R147). -/
  | vfrcpX (a b : VReg) (t : FTy) (g : Gov)
  /-- `VFRSQ_X` (R147). -/
  | vfrsqX (a b : VReg) (t : FTy) (g : Gov)
  /-- `VFCMP_X` (R148). -/
  | vfcmpX (op : FCmpOp) (a : PReg) (b c : VReg) (t : FTy) (g : Gov)
  /-- `VLD` (R151). -/
  | vld (w : WClass) (a : VReg) (b : DReg) (off : BitVec 5)
  /-- `VST` (R151). -/
  | vst (w : WClass) (a : VReg) (b : DReg) (off : BitVec 5)
  /-- `VLDS` (R152). -/
  | vlds (w : WClass) (a : VReg) (b c : DReg)
  /-- `VSTS` (R152). -/
  | vsts (w : WClass) (a : VReg) (b c : DReg)
  /-- `VLDX` (R153). -/
  | vldx (w : WClass) (a : VReg) (b : DReg) (c : VReg)
  /-- `VLDX_ZERO` (R153). -/
  | vldxZero (w : WClass) (a : VReg) (b : DReg) (c : VReg)
  /-- `VLD_X` (R151). -/
  | vldX (w : WClass) (a : VReg) (b : DReg) (i : BitVec 32) (g : Gov) (h : HNeed)
  /-- `VST_X` (R151). -/
  | vstX (w : WClass) (a : VReg) (b : DReg) (i : BitVec 32) (g : Gov) (h : HNeed)
  /-- `VLDS_X` (R152). -/
  | vldsX (w : WClass) (a : VReg) (b c : DReg) (g : Gov) (h : HNeed)
  /-- `VSTS_X` (R152). -/
  | vstsX (w : WClass) (a : VReg) (b c : DReg) (g : Gov) (h : HNeed)
  /-- `VLDX_X` (R153). -/
  | vldxX (w : WClass) (a : VReg) (b : DReg) (c : VReg) (nb ns : BitVec 16) (g : Gov) (h : HNeed)
  /-- `VLDX_ZERO_X` (R153). -/
  | vldxZeroX (w : WClass) (a : VReg) (b : DReg) (c : VReg) (nb ns : BitVec 16) (g : Gov) (h : HNeed)
  /-- `VBIND` (R155). -/
  | vbind (a : VReg) (b c : DReg)
  /-- `VUNBIND` (R157). -/
  | vunbind (a : VReg)
  /-- `RUNI` (R175). -/
  | runi (o : Bool) (a b c : QReg)
  /-- `RINT` (R175). -/
  | rint (o : Bool) (a b c : QReg)
  /-- `RSUB` (R175). -/
  | rsub (o : Bool) (a b c : QReg)
  /-- `RHULL` (R175). -/
  | rhull (o : Bool) (a b c : QReg)
  /-- `RMOVE` (R176). -/
  | rmove (a b : QReg)
  /-- `RCLIP` (R177). -/
  | rclip (o : Bool) (a b : QReg)
  /-- `RDIL` (R179). -/
  | rdil (o : Bool) (a b : QReg) (c : DReg)
  /-- `RPROJ` (R180). -/
  | rproj (o : Bool) (a b : QReg) (mask : BitVec 4)
  /-- `RSPLIT` (R181). -/
  | rsplit (o : Bool) (a b : QReg) (c : DReg)
  /-- `RDIL_X` (R423). -/
  | rdilX (o : Bool) (a b : QReg) (c : DReg)
  /-- `RPROJ_X` (R180). -/
  | rprojX (o : Bool) (a b : QReg) (mask : BitVec 4) (t : TReg)
  /-- `RSPLIT_X` (R423). -/
  | rsplitX (o : Bool) (a b : QReg) (c : DReg)
  /-- `RBOX` (R182). -/
  | rbox (a : QReg) (t : TReg) (b c : DReg) (j : BitVec 2) (s0 s1 : BitVec 3)
  /-- `RSTR` (R178). -/
  | rstr (a b : QReg) (c : DReg)
  /-- `RRAG` (R183). -/
  | rrag (a b : QReg)
  /-- `RTID` (R184). -/
  | rtid (a : QReg) (t : TReg)
  /-- `RNBOX` (R185). -/
  | rnbox (a : DReg) (b : QReg)
  /-- `RGETB` (R185). -/
  | rgetb (a : DReg) (b : QReg) (c : DReg)
  /-- `RCELLS` (R186). -/
  | rcells (a : DReg) (b : QReg)
  /-- `RTEST` (R187). -/
  | rtest (a : PReg) (b : QReg) (c : DReg)
  /-- `RSTR_X` (R178). -/
  | rstrX (a b : QReg) (c : DReg)
  /-- `RRAG_X` (R423). -/
  | rragX (a b : QReg)
  /-- `RNBOX_X` (R185). -/
  | rnboxX (a : DReg) (b : QReg)
  /-- `RGETB_X` (R185). -/
  | rgetbX (a : DReg) (b : QReg) (c : DReg)
  /-- `RCELLS_X` (R423). -/
  | rcellsX (a : DReg) (b : QReg)
  /-- `RTEST_X` (R423). -/
  | rtestX (a : PReg) (b : QReg) (c : DReg)
  /-- `RLD` (R188). -/
  | rld (w : WClass) (a : QReg) (b : DReg) (off : BitVec 5)
  /-- `RST` (R189). -/
  | rst (w : WClass) (a : QReg) (b : DReg) (off : BitVec 5)
  /-- `RLD_X` (R188). -/
  | rldX (w : WClass) (a : QReg) (b : DReg) (i : BitVec 32)
  /-- `RST_X` (R189). -/
  | rstX (w : WClass) (a : QReg) (b : DReg) (i : BitVec 32)
  /-- `TW_IN` (R293). -/
  | twIn (e : EReg) (b : QReg) (c : DReg)
  /-- `TW_OUT` (R293). -/
  | twOut (e : EReg) (b : QReg) (c : DReg)
  /-- `TW_IN_X` (R292). -/
  | twInX (e : EReg) (b : QReg) (c : DReg) (i : BitVec 32)
  /-- `TW_OUT_X` (R292). -/
  | twOutX (e : EReg) (b : QReg) (c : DReg) (i : BitVec 32)
  /-- `TW_MC` (R294). -/
  | twMc (e : EReg) (b : QReg) (c d : DReg) (i : BitVec 32)
  /-- `TW_WALK` (R301). -/
  | twWalk (e : EReg) (b : DReg) (h : HReg) (n : BitVec 4)
  /-- `WCMD` (R310). -/
  | wcmd (a b c : DReg)
  /-- `HDEF` (R297). -/
  | hdef (h : HReg) (a : DReg)
  /-- `HFREE` (R300). -/
  | hfree (h : HReg)
  /-- `HWAIT` (R300). -/
  | hwait (h : HReg) (n : BitVec 4)
  /-- `HSTAT` (R299). -/
  | hstat (a : DReg) (h : HReg)
  /-- `ADV_C` (R300). -/
  | advC (h : HReg) (n : BitVec 4)
  /-- `ADV_P` (R300). -/
  | advP (h : HReg) (n : BitVec 4)
  /-- `TLW` (R288). -/
  | tlw (e : EReg) (b : DReg)
  /-- `TLW_X` (R288). -/
  | tlwX (e : EReg) (b d : DReg)
  /-- `TLRD` (R288). -/
  | tlrd (a : DReg) (e : EReg)
  /-- `COLL_RED` (R307). -/
  | collRed (e : EReg) (b c : DReg)
  /-- `COLL_AR` (R307). -/
  | collAr (e : EReg) (b c : DReg)
  /-- `COLL_RED_X` (R307). -/
  | collRedX (e : EReg) (b c : DReg) (t : Ty)
  /-- `COLL_AR_X` (R307). -/
  | collArX (e : EReg) (b c : DReg) (t : Ty)
  /-- `COLL_BC` (R307). -/
  | collBc (e : EReg) (b c : DReg) (t : Ty)
  /-- `CKPT` (R308). -/
  | ckpt (e : EReg) (b : QReg) (c : DReg)
  /-- `RWAIT` (R303). -/
  | rwait (a : QReg)
  /-- `RPROT` (R304). -/
  | rprot (a : QReg) (mode : BitVec 5)
  /-- `MMA` (R324). -/
  | mma (z : ZReg) (va vb : Bool) (b c d2 d3 : BitVec 5) (t : Ty) (s : BitVec 2)
  /-- `MMI` (R324). -/
  | mmi (z : ZReg) (va vb : Bool) (b c d2 d3 : BitVec 5) (s : BitVec 2)
  /-- `MMA_SP` (R324). -/
  | mmaSp (z : ZReg) (va vb : Bool) (b c d2 d3 : BitVec 5) (t : Ty) (md : BitVec 32) (s : BitVec 2)
  /-- `MMI_SP` (R324). -/
  | mmiSp (z : ZReg) (va vb : Bool) (b c d2 d3 : BitVec 5) (md : BitVec 32) (s : BitVec 2)
  /-- `ZCFG` (R315). -/
  | zcfg (z : ZReg) (b : DReg)
  /-- `ZCFG_KEEP` (R315). -/
  | zcfgKeep (z : ZReg) (b : DReg)
  /-- `ZZERO` (R329). -/
  | zzero (z : ZReg) (s : BitVec 5)
  /-- `ZLD` (R329). -/
  | zld (w : WClass) (z : ZReg) (b : DReg) (s : BitVec 5)
  /-- `ZST` (R329). -/
  | zst (w : WClass) (z : ZReg) (b : DReg) (s : BitVec 5)
  /-- `ZMOV` (R316). -/
  | zmov (z y : ZReg)
  /-- `MSTAT` (R330). -/
  | mstat (a : DReg) (s : BitVec 5)
  /-- `ZCFG_X` (R315). -/
  | zcfgX (z : ZReg) (b : DReg)
  /-- `ZCFG_KEEP_X` (R315). -/
  | zcfgKeepX (z : ZReg) (b : DReg)
  /-- `ZZERO_X` (R329). -/
  | zzeroX (z : ZReg) (s : BitVec 5)
  /-- `ZLD_X` (R329). -/
  | zldX (w : WClass) (z : ZReg) (b : DReg) (i : BitVec 32) (s : BitVec 5)
  /-- `ZST_X` (R329). -/
  | zstX (w : WClass) (z : ZReg) (b : DReg) (i : BitVec 32) (s : BitVec 5)
  /-- `ZMOV_X` (R423). -/
  | zmovX (z y : ZReg)
  /-- `MSTAT_X` (R423). -/
  | mstatX (a : DReg) (s : BitVec 5)
  /-- `MCMD` (R334). -/
  | mcmd (a b c : DReg)
  /-- `MCAP` (R332). -/
  | mcap (a b : DReg)
  /-- `MREV` (R333). -/
  | mrev (a : DReg)
  /-- `CVT` (R305). -/
  | cvt (e : EReg) (b c : QReg)
  /-- `CVT_SAT` (R305). -/
  | cvtSat (e : EReg) (b c : QReg)
  /-- `CCMD` (R310). -/
  | ccmd (a b : DReg)
  /-- `TSET` (R291). -/
  | tset (t : TReg) (b : DReg) (i : BitVec 32)
  /-- `TGET` (R291). -/
  | tget (t : TReg) (b : DReg) (i : BitVec 32)
  /-- `LDG` (R256). -/
  | ldg (w : WClass) (t : IntTy) (a b c : DReg)
  /-- `STG` (R256). -/
  | stg (w : WClass) (t : IntTy) (a b c : DReg)
  /-- `RSV` (R257). -/
  | rsv (w : WClass) (t : IntTy) (a b c : DReg)
  /-- `CMT` (R257). -/
  | cmt (w : WClass) (t : IntTy) (a b c : DReg)
  /-- `PREF` (R259). -/
  | pref (b c : DReg)
  /-- `WCNT` (R260). -/
  | wcnt (w : WClass)
  /-- `ACQ` (R261). -/
  | acq (s : FenceScope)
  /-- `REL` (R261). -/
  | rel (s : FenceScope)
  /-- `FENCE` (R261). -/
  | fence (s : FenceScope)
  /-- `OBJD` (R262). -/
  | objd (a b : DReg)
  /-- `OBJF` (R263). -/
  | objf (a : DReg)
  /-- `LDG_X` (R255). -/
  | ldgX (w : WClass) (t : IntTy) (a b c : DReg) (sc : Scope) (cp : CachePolicy) (h : HNeed)
  /-- `STG_X` (R255). -/
  | stgX (w : WClass) (t : IntTy) (a b c : DReg) (sc : Scope) (cp : CachePolicy) (h : HNeed)
  /-- `RSV_X` (R257). -/
  | rsvX (w : WClass) (t : IntTy) (a b c : DReg) (sc : Scope) (cp : CachePolicy) (h : HNeed)
  /-- `CMT_X` (R257). -/
  | cmtX (w : WClass) (t : IntTy) (a b c : DReg) (sc : Scope) (cp : CachePolicy) (h : HNeed)
  /-- `PREF_X` (R259). -/
  | prefX (b c : DReg) (sc : Scope) (cp : CachePolicy)
  /-- `WCNT_X` (R255). -/
  | wcntX (w : WClass)
  /-- `ACQ_X` (R255). -/
  | acqX (s : FenceScope)
  /-- `REL_X` (R255). -/
  | relX (s : FenceScope)
  /-- `FENCE_X` (R255). -/
  | fenceX (s : FenceScope)
  /-- `OBJD_X` (R255). -/
  | objdX (a b : DReg)
  /-- `OBJF_X` (R255). -/
  | objfX (a : DReg)
  /-- `AMO_ADD` (R258). -/
  | amoAdd (w : WClass) (t : Ty) (sc : Scope) (a b c d : DReg)
  /-- `AMO_MIN` (R258). -/
  | amoMin (w : WClass) (t : Ty) (sc : Scope) (a b c d : DReg)
  /-- `AMO_MAX` (R258). -/
  | amoMax (w : WClass) (t : Ty) (sc : Scope) (a b c d : DReg)
  /-- `AMO_MINN` (R258). -/
  | amoMinn (w : WClass) (t : Ty) (sc : Scope) (a b c d : DReg)
  /-- `AMO_MAXN` (R258). -/
  | amoMaxn (w : WClass) (t : Ty) (sc : Scope) (a b c d : DReg)
  /-- `AMO_AND` (R258). -/
  | amoAnd (w : WClass) (t : Ty) (sc : Scope) (a b c d : DReg)
  /-- `AMO_OR` (R258). -/
  | amoOr (w : WClass) (t : Ty) (sc : Scope) (a b c d : DReg)
  /-- `AMO_XOR` (R258). -/
  | amoXor (w : WClass) (t : Ty) (sc : Scope) (a b c d : DReg)
  /-- `AMO_SWAP` (R258). -/
  | amoSwap (w : WClass) (t : Ty) (sc : Scope) (a b c d : DReg)
  /-- `AMO_CAS` (R258). -/
  | amoCas (w : WClass) (t : Ty) (sc : Scope) (a b c d : DReg)
  /-- `JSUB` (R201). -/
  | jsub (a b : DReg)
  /-- `SPAWN` (R201). -/
  | spawn (a b : DReg) (m : MReg)
  /-- `JNEXT` (R202). -/
  | jnext
  /-- `DONE` (R203). -/
  | done
  /-- `YIELD` (R204). -/
  | yield
  /-- `MSET` (R207). -/
  | mset (m : MReg) (b : DReg)
  /-- `JOIN` (R209). -/
  | join (m : MReg)
  /-- `LEAVE` (R209). -/
  | leave (m : MReg)
  /-- `BAR` (R209). -/
  | bar (m : MReg)
  /-- `BAR_A` (R209). -/
  | barA (m : MReg)
  /-- `BAR_W` (R209). -/
  | barW (m : MReg)
  /-- `WATCH` (R232). -/
  | watch (a b c d : DReg) (k : Word)
  /-- `UNWATCH` (R233). -/
  | unwatch (a : DReg)
  /-- `PHR_LEAD` (R216). -/
  | phrLead (a : DReg)
  /-- `PHR_JOIN` (R216). -/
  | phrJoin (a : DReg)
  /-- `PHR_END` (R219). -/
  | phrEnd
  /-- `SCOPE` (R378). -/
  | scope (m : MReg)
  /-- `SCOPE_CLOSE` (R379). -/
  | scopeClose (m : MReg)
  /-- `CANCEL` (R380). -/
  | cancel (m : MReg)
  /-- `CANCEL_W` (R381). -/
  | cancelW (m : MReg)
  /-- `ONC` (R367). -/
  | onc (a : DReg)
  /-- `CANCEL_BY_ID` (R380). -/
  | cancelById (a : DReg)
  /-- `CANCEL_W_BY_ID` (R381). -/
  | cancelWById (a : DReg)
  /-- `SND` (R220). -/
  | snd (a : DReg) (b : VReg)
  /-- `RCV` (R223). -/
  | rcv (a : VReg) (b : DReg)
  /-- `RCVQ` (R224). -/
  | rcvq (a : DReg)
  /-- `STEP` (R229). -/
  | step
  /-- `XTT` (R226). -/
  | xtt (a : DReg)
  /-- `XSEND` (R227). -/
  | xsend (slot : BitVec 5) (b : DReg) (off : BitVec 5)
  /-- `XREQ` (R228). -/
  | xreq (a b c : DReg)
  /-- `XADD` (R228). -/
  | xadd (a b c : DReg)
  /-- `XCNT` (R230). -/
  | xcnt (a : DReg)
  /-- `STEP_X` (R423). -/
  | stepX
  /-- `XTT_X` (R423). -/
  | xttX (a : DReg)
  /-- `XSEND_X` (R227). -/
  | xsendX (slot : BitVec 8) (b : DReg) (off16 : BitVec 24)
  /-- `XREQ_X` (R423). -/
  | xreqX (a b c : DReg)
  /-- `XADD_X` (R423). -/
  | xaddX (a b c : DReg)
  /-- `XCNT_X` (R423). -/
  | xcntX (a : DReg)
  /-- `SRD` (R106). -/
  | srd (a : DReg) (n : BitVec 10)
  /-- `SWR` (R106). -/
  | swr (n : BitVec 10) (a : DReg)
  /-- `SVC` (R107). -/
  | svc (i : BitVec 10)
  /-- `TRAP` (R107). -/
  | trap (i : BitVec 10)
  /-- `BRK` (R107). -/
  | brk (i : BitVec 10)
  /-- `TRET` (R37). -/
  | tret
  /-- `WFE` (R108). -/
  | wfe
  /-- `SEV` (R108). -/
  | sev (a : DReg)
  /-- `SNAP` (R109). -/
  | snap
  /-- `IDLE` (R110). -/
  | idle
  /-- `RSM` (R346). -/
  | rsm (a : DReg)
  /-- `FLTR` (R345). -/
  | fltr (a : DReg) (e : EReg)
  /-- `CTXSAVE` (R360). -/
  | ctxsave (a : DReg)
  /-- `CTXLOAD` (R360). -/
  | ctxload (a : DReg)
  /-- `PREEMPT` (R360). -/
  | preempt (a : DReg)
  /-- `FACTORY_TEST` (R72). -/
  | factoryTest (word : BitVec 32)
  /-- `ILLEGAL_WORD` (R69). -/
  | illegalWord (why : Reject)
  /-- `IFETCH_FAULT` (R341). -/
  | ifetchFault (why : FetchFail) (addr : Word)
  /-- `INTR_ENTRY` (R338). -/
  | intrEntry
  /-- `DISPATCH` (R196). -/
  | evDispatch (unit : List Nat)
  /-- `PLACEMENT_REQUEST` (R385). -/
  | evPlacementRequest (i : Nat)
  /-- `LAUNCH` (R199). -/
  | evLaunch (i : Nat)
  /-- `TASK_START` (R199). -/
  | evTaskStart (i : Nat)
  /-- `PACKET_ARRIVAL` (R222). -/
  | evPacketArrival (i : Nat)
  /-- `TIMETABLE_FLIT_SEND` (R229). -/
  | evTimetableFlitSend (thread slot : Nat)
  /-- `EXCHANGE_PACKET_ARRIVAL` (R229). -/
  | evExchangePacketArrival (i : Nat)
  /-- `EXCHANGE_END` (R229). -/
  | evExchangeEnd (task : Nat)
  /-- `REMOTE_SCRATCH_WRITE` (R101). -/
  | evRemoteScratchWrite (i : Nat)
  /-- `GLOBAL_STORE_REGISTER` (R266). -/
  | evGlobalStoreRegister (i : Nat)
  /-- `LLC_EVICT` (R243). -/
  | evLlcEvict (line : Nat)
  /-- `PUBLISH_APPLY` (R392). -/
  | evPublishApply (i : Nat)
  /-- `SUMMARY_EXCHANGE` (R392). -/
  | evSummaryExchange
  /-- `PUBLISH_RESEND` (R392). -/
  | evPublishResend (i : Nat)
  /-- `ENGINE_OP_COMPLETE` (R285). -/
  | evEngineOpComplete (tile ctx : Nat)
  /-- `WALK_SLOT_CLAIM` (R302). -/
  | evWalkSlotClaim (tile ctx num : Nat)
  /-- `ENGINE_FAULT` (R343). -/
  | evEngineFault (tile ctx num : Nat)
  /-- `RESUME_PACKET` (R346). -/
  | evResumePacket (i : Nat)
  /-- `SHOOTDOWN` (R348). -/
  | evShootdown (asid va : Nat)
  /-- `COMMAND_ARRIVAL` (R310). -/
  | evCommandArrival (i : Nat)
  /-- `MATRIX_COMMAND_ARRIVAL` (R334). -/
  | evMatrixCommandArrival (i : Nat)
  /-- `PREEMPTION` (R349). -/
  | evPreemption (slot : Nat)
  /-- `RESUMPTION` (R355). -/
  | evResumption (i : Nat)
  /-- `PARTITION_EVICT` (R356). -/
  | evPartitionEvict (i : Nat)
  /-- `RESERVATION_EXPIRY` (R257). -/
  | reservationExpiry
  /-- `CANCEL_MARK_ARRIVAL` (R366). -/
  | evCancelMarkArrival (slot : Nat)
  /-- `KILL_COUNT_BOUNDARY` (R365). -/
  | killCountBoundary
  /-- `CANCEL_HANDLER_LIMIT` (R369). -/
  | cancelHandlerLimit
  /-- `END_KILLED` (R370). -/
  | evEndKilled (task : Nat)
  /-- `SCOPE_CANCELLED` (R375). -/
  | evScopeCancelled (id : Nat)
  /-- `SCOPE_FREED` (R362). -/
  | evScopeFreed (id : Nat)
  /-- `DIE_FENCE` (R386). -/
  | evDieFence (die : Nat)
  /-- `WATCHDOG_EXPIRY` (R386). -/
  | evWatchdogExpiry (die : Nat)
  /-- `THERMAL_THROTTLE` (R421). -/
  | evThermalThrottle (die : Nat)
  /-- `THERMAL_TRIP` (R421). -/
  | evThermalTrip (die : Nat)
  /-- `SNAPTRIG_EDGE` (R405). -/
  | evSnaptrigEdge
  /-- `SNAPSHOT_LATCH` (R405). -/
  | evSnapshotLatch
  /-- `POWER_GOOD` (R413). -/
  | evPowerGood
  /-- `HOST_LINK_UP` (R410). -/
  | evHostLinkUp
  /-- `CTAIL` (R408). -/
  | hostCtail (q : Nat) (value : Word)
  /-- `HOST_CARD_READ` (R409). -/
  | evHostCardRead (q : Nat)
  /-- `PHEAD` (R408). -/
  | hostPhead (q : Nat) (value : Word)
  /-- `QENABLE` (R408). -/
  | hostQenable (value : Word)
  /-- `QERROR` (R408). -/
  | hostQerror (value : Word)
  /-- `HOSTVER_NEG` (R408). -/
  | hostVerNeg (value : Word)
  /-- `BAR0_REGISTER_WRITE` (R408). -/
  | hostBar0Write (off : Nat) (value : Word)
  /-- `BAR2_READ` (R407). -/
  | hostBar2Read (off len : Nat)
  /-- `BAR2_WRITE` (R407). -/
  | hostBar2Write (off : Nat) (bytes : List Byte)
  /-- `DISTCTL` (R412). -/
  | weltDistctl (value : Word)
  /-- `SNAPCMD` (R412). -/
  | weltSnapcmd (value : Word)
  /-- `DIECTL_FENCE` (R386). -/
  | weltDiectlFence (die : Nat) (value : Word)
  /-- `DIECTL_RESET` (R390). -/
  | weltDiectlReset (die : Nat) (value : Word) (bringUp : Bool)
  /-- `DISCARD` (R412). -/
  | weltDiscard (die : Nat) (value : Word)
  /-- `NODE_BIND` (R420). -/
  | weltNodeBind (die k : Nat) (value : Word)
  /-- `WELT_REGISTER_WRITE` (R412). -/
  | weltRegisterWrite (off : Nat) (value : Word)
  /-- `ACK` (R399). -/
  | pktAck (p : FabPacket)
  /-- `NAK` (R399). -/
  | pktNak (p : FabPacket)
  /-- `LOAD` (R399). -/
  | pktLoad (p : FabPacket)
  /-- `LOADR` (R399). -/
  | pktLoadr (p : FabPacket)
  /-- `STORE` (R399). -/
  | pktStore (p : FabPacket)
  /-- `STOREA` (R399). -/
  | pktStorea (p : FabPacket)
  /-- `ATOMIC` (R399). -/
  | pktAtomic (p : FabPacket)
  /-- `ATOMICR` (R399). -/
  | pktAtomicr (p : FabPacket)
  /-- `RSV_PACKET` (R399). -/
  | pktRsv (p : FabPacket)
  /-- `CMT_PACKET` (R399). -/
  | pktCmt (p : FabPacket)
  /-- `CMTR` (R399). -/
  | pktCmtr (p : FabPacket)
  /-- `COLL` (R401). -/
  | pktColl (p : FabPacket)
  /-- `DRAIN` (R399). -/
  | pktDrain (p : FabPacket)
  /-- `DRAINA` (R399). -/
  | pktDraina (p : FabPacket)
  /-- `HELLO` (R399). -/
  | pktHello (p : FabPacket)
  /-- `HELLOR` (R410). -/
  | pktHellor (p : FabPacket)
  /-- `ACK_TIMER` (R399). -/
  | evAckTimer (peer : Nat)
  /-- `NAK_TIMER` (R399). -/
  | evNakTimer (peer : Nat)
  /-- `RETRANSMIT_TIMER` (R398). -/
  | evRetransmitTimer (peer seq : Nat)
  /-- `PORT_LINK_DOWN` (R404). -/
  | evPortLinkDown (port : Nat)
  /-- `GET_VERSION` (R418). -/
  | spdmGetVersion
  /-- `GET_CAPABILITIES` (R418). -/
  | spdmGetCapabilities
  /-- `NEGOTIATE_ALGORITHMS` (R418). -/
  | spdmNegotiateAlgorithms
  /-- `GET_DIGESTS` (R418). -/
  | spdmGetDigests
  /-- `GET_CERTIFICATE` (R418). -/
  | spdmGetCertificate
  /-- `CHALLENGE` (R418). -/
  | spdmChallenge (nonce : List Byte)
  /-- `GET_MEASUREMENTS` (R418). -/
  | spdmGetMeasurements (index : Nat) (nonce : List Byte)
  /-- `BYPASS` (R421). -/
  | tapBypass
  /-- `SAMPLE_PRELOAD` (R421). -/
  | tapSamplePreload
  /-- `EXTEST` (R421). -/
  | tapExtest
  /-- `IDCODE` (R421). -/
  | tapIdcode
  /-- `FTEST` (R72). -/
  | tapFtest (die : Nat)
  /-- `OPEN` (R422). -/
  | dbgOpen
  /-- `CLOSE` (R422). -/
  | dbgClose
  /-- `READCTX` (R422). -/
  | dbgReadctx (thread off len : Nat)
  /-- `WRITECTX` (R422). -/
  | dbgWritectx (thread off : Nat) (bytes : List Byte)
  /-- `RESUME` (R422). -/
  | dbgResume (thread : Nat)
  /-- `DEBUG_STEP` (R422). -/
  | dbgStep (thread : Nat)
  /-- `READMEM` (R422). -/
  | dbgReadmem (asid va len : Nat)
  /-- `WRITEMEM` (R422). -/
  | dbgWritemem (asid va : Nat) (bytes : List Byte)
  /-- `DEBUG_SESSION_TIMEOUT` (R422). -/
  | evDebugSessionTimeout
  /-- `POWER_CAP_COMMAND` (R421). -/
  | mgmtPowerCap (watts : Nat)
  /-- `TILECTL` (R402). -/
  | weltTilectl (tile : Nat) (value : Word)
  /-- `PORT_LINK_TRAINING` (R403). -/
  | evPortLinkTraining (port : Nat) (trained : Bool)
  /-- `NVME_CONTROLLER_FAILURE` (R421). -/
  | evNvmeFailure (ctrl : Nat)
  deriving DecidableEq, Repr

end Sys2Proof
end

