-- ==== Sys2Proof/Machine/Arith.lean ====
section
/-! DEFINITION. Integer results of the scalar and vector units (R84 to R88, R138 to R144): functions of the operand
bits alone. -/

namespace Sys2Proof.Machine

/-- Number of one bits (R86 `popc`). -/
def popCount {w : Nat} (x : BitVec w) : Nat := (List.range w).foldl (fun n i => if x.getLsbD i then n + 1 else n) 0

/-- Number of leading zero bits; the width when the value is 0 (R86). -/
def leadingZeros {w : Nat} (x : BitVec w) : Nat := if x.toNat = 0 then w else w - 1 - Nat.log2 x.toNat

/-- The lowest set bit's index, or `w` (R86 `ctz`, R89 `pfirst`). -/
def trailingZeros {w : Nat} (x : BitVec w) : Nat := ((List.range w).find? fun i => x.getLsbD i).getD w

/-- Bit i moved to bit w − 1 − i (R86 `brev`). -/
def bitReverse (x : Word) : Word :=
  BitVec.ofNat 64 ((List.range 64).foldl (fun n i => 2 * n + (if x.getLsbD i then 1 else 0)) 0)

/-- High half of the signed product (R84 `mulh`). -/
def mulHighS {w : Nat} (b c : BitVec w) : BitVec w := BitVec.ofInt w ((b.toInt * c.toInt) / (2 ^ w : Nat))

/-- High half of the unsigned product (R84 `mulhn`). -/
def mulHighU {w : Nat} (b c : BitVec w) : BitVec w := BitVec.ofNat w (b.toNat * c.toNat / 2 ^ w)

/-- A quotient or remainder and whether DZ becomes set (R85). -/
structure DivResult where
  value : Word
  dz : Bool
  deriving DecidableEq, Repr

/-- `div`: the quotient truncated towards zero; the most negative number by −1 wraps to itself (R84, R85). -/
def divS (b c : Word) : DivResult :=
  if c = 0 then ⟨BitVec.allOnes 64, true⟩ else ⟨BitVec.ofInt 64 (b.toInt.tdiv c.toInt), false⟩
/-- `divn` (R84, R85). -/
def divU (b c : Word) : DivResult :=
  if c = 0 then ⟨BitVec.allOnes 64, true⟩ else ⟨BitVec.ofNat 64 (b.toNat / c.toNat), false⟩
/-- `rem`: b − c·quotient, with the sign of b (R84, R85). -/
def remS (b c : Word) : DivResult :=
  if c = 0 then ⟨b, true⟩ else ⟨BitVec.ofInt 64 (b.toInt.tmod c.toInt), false⟩
/-- `remn` (R84, R85). -/
def remU (b c : Word) : DivResult :=
  if c = 0 then ⟨b, true⟩ else ⟨BitVec.ofNat 64 (b.toNat % c.toNat), false⟩

/-- Smaller or larger as signed or unsigned values (R84, R138). -/
def minS {w : Nat} (b c : BitVec w) : BitVec w := if c.toInt < b.toInt then c else b
@[inherit_doc minS] def maxS {w : Nat} (b c : BitVec w) : BitVec w := if b.toInt < c.toInt then c else b
@[inherit_doc minS] def minU {w : Nat} (b c : BitVec w) : BitVec w := if c.toNat < b.toNat then c else b
@[inherit_doc minS] def maxU {w : Nat} (b c : BitVec w) : BitVec w := if b.toNat < c.toNat then c else b

/-- Shifts and rotates by an amount already reduced below the width (R86, R139). -/
def rotL {w : Nat} (b : BitVec w) (n : Nat) : BitVec w := (b <<< n) ||| (b >>> (w - n))
@[inherit_doc rotL] def rotR {w : Nat} (b : BitVec w) (n : Nat) : BitVec w := (b >>> n) ||| (b <<< (w - n))

/-- 1 when the comparison holds, else 0 (R88). -/
def boolWord (p : Bool) : Word := if p then 1 else 0

/-- The control value of `bext` and `bins`: bits above 14, bit 7 and bit 6 are zero, and the width is at most 64
(R87). -/
def fieldCtlOk (c : Word) : Bool :=
  c.toNat / 32768 = 0 && c.toNat / 64 % 4 = 0 && decide (c.toNat / 256 % 128 ≤ 64)

/-- Position p of a control value (R87). -/
def fieldPos (c : Word) : Nat := c.toNat % 64
/-- n = min(w, 64 − p) (R87). -/
def fieldLen (c : Word) : Nat := min (c.toNat / 256 % 128) (64 - fieldPos c)

/-- `bext` (R87). -/
def bitExtract (b c : Word) : Word := BitVec.ofNat 64 (b.toNat / 2 ^ fieldPos c % 2 ^ fieldLen c)

/-- `bins` into the old value (R87). -/
def bitInsert (old b c : Word) : Word :=
  let m : Word := BitVec.ofNat 64 ((2 ^ fieldLen c - 1) * 2 ^ fieldPos c)
  (old &&& ~~~ m) ||| ((b <<< fieldPos c) &&& m)

/-- An integer comparison (R89, R142). -/
def compareInt {w : Nat} (op : CmpOp) (b c : BitVec w) : Bool :=
  match op with
  | .eq => b == c
  | .ne => b != c
  | .lt => decide (b.toInt < c.toInt)
  | .ge => decide (c.toInt ≤ b.toInt)
  | .ltn => decide (b.toNat < c.toNat)
  | .gen => decide (c.toNat ≤ b.toNat)

/-- The bit of a three-input table (R140). -/
def lop3 (table : BitVec 8) (a b c : Lane) : Lane :=
  BitVec.ofNat 32 ((List.range 32).foldl (fun n i =>
    let k := (if a.getLsbD i then 4 else 0) + (if b.getLsbD i then 2 else 0) + (if c.getLsbD i then 1 else 0)
    if table.getLsbD k then n + 2 ^ i else n) 0)

/-- `vfsl`: bits 63:32 of (b·2³² + c) << n (R141). -/
def funnelL (b c : Lane) (n : Nat) : Lane := BitVec.ofNat 32 ((b.toNat * 4294967296 + c.toNat) * 2 ^ n / 4294967296)
/-- `vfsr`: bits 31:0 of (b·2³² + c) >> n (R141). -/
def funnelR (b c : Lane) (n : Nat) : Lane := BitVec.ofNat 32 ((b.toNat * 4294967296 + c.toNat) / 2 ^ n)

/-- |b| as a signed value; the most negative number stays (R138). -/
def laneAbs (b : Lane) : Lane := if b.toInt < 0 then 0 - b else b

end Sys2Proof.Machine
end

