-- ==== Sys2Proof/Machine/Flags.lean ====
section
/-! DEFINITION. The flags and modes of FMODE (R28): what an operation raises, how flags combine, and the rounding mode
and TOPINF it reads. -/

namespace Sys2Proof.Machine

/-- The FMODE flags an operation raises (R28, R117). -/
structure Flags where
  shadow : Bool := false
  ov : Bool := false
  nv : Bool := false
  dz : Bool := false
  of : Bool := false
  uf : Bool := false
  nx : Bool := false
  deriving DecidableEq, Repr

/-- Flags are ORed together (R128). -/
def Flags.or (a b : Flags) : Flags :=
  ⟨a.shadow || b.shadow, a.ov || b.ov, a.nv || b.nv, a.dz || b.dz, a.of || b.of, a.uf || b.uf, a.nx || b.nx⟩

/-- The sticky bits 14:8 of FMODE (R28). -/
def Flags.bits (f : Flags) : Word :=
  BitVec.ofNat 64 ((if f.nx then 256 else 0) + (if f.uf then 512 else 0) + (if f.of then 1024 else 0)
    + (if f.dz then 2048 else 0) + (if f.nv then 4096 else 0) + (if f.ov then 8192 else 0)
    + (if f.shadow then 16384 else 0))

/-- The rounding modes of FMODE.RM (R28). -/
inductive Round where
  | rne | rtz | rdn | rup
  deriving DecidableEq, Repr

/-- RM of an FMODE value (R28). -/
def roundOf (fmode : Word) : Round :=
  match fmode.toNat % 4 with
  | 0 => .rne
  | 1 => .rtz
  | 2 => .rdn
  | _ => .rup

/-- TOPINF of an FMODE value (R28). -/
def topinfOf (fmode : Word) : Bool := fmode.getLsbD 2

end Sys2Proof.Machine
end

