-- ==== Sys2Proof/Machine/Float.lean ====
section
/-! DEFINITION. Number formats (R112 to R133): exact values, one rounding, tapered codes and every conversion. A finite
value is a sign, a natural significand and a power of two, so sums and products are exact until the one rounding. -/

namespace Sys2Proof.Machine

/-- The exact value of an encoding: not a number, an infinity, a signed zero, or ±m·2^e with m > 0. -/
inductive Num where
  | nan (signalling : Bool)
  | inf (neg : Bool)
  | zero (neg : Bool)
  | fin (neg : Bool) (m : Nat) (e : Int)
  deriving DecidableEq, Repr

/-- An IEEE format: exponent bits, fraction bits and bias (R114). -/
structure Ieee where
  ebits : Nat
  fbits : Nat
  bias : Nat
  deriving DecidableEq, Repr

/-- The formats of R114. -/
def Ieee.f32 : Ieee := ⟨8, 23, 127⟩
@[inherit_doc Ieee.f32] def Ieee.f16 : Ieee := ⟨5, 10, 15⟩
@[inherit_doc Ieee.f32] def Ieee.bf16 : Ieee := ⟨8, 7, 127⟩

/-- The bits of +∞. -/
def Ieee.infBits (f : Ieee) : Nat := (2 ^ f.ebits - 1) * 2 ^ f.fbits
/-- The sign bit's weight. -/
def Ieee.signBit (f : Ieee) : Nat := 2 ^ (f.ebits + f.fbits)
/-- The default NaN of R114. -/
def Ieee.nanBits (f : Ieee) : Nat := f.infBits + 2 ^ (f.fbits - 1)
/-- Bits with a sign. -/
def Ieee.signed (f : Ieee) (neg : Bool) (mag : Nat) : Nat := if neg then f.signBit + mag else mag

/-- The value of an IEEE encoding (R114). -/
def Ieee.decode (f : Ieee) (x : Nat) : Num :=
  let neg := decide (x / f.signBit % 2 = 1)
  let ex := x / 2 ^ f.fbits % 2 ^ f.ebits
  let fr := x % 2 ^ f.fbits
  if ex = 2 ^ f.ebits - 1 then
    if fr = 0 then .inf neg else .nan (decide (fr / 2 ^ (f.fbits - 1) = 0))
  else if ex = 0 then
    if fr = 0 then .zero neg else .fin neg fr (1 - (f.bias : Int) - f.fbits)
  else .fin neg (2 ^ f.fbits + fr) ((ex : Int) - f.bias - f.fbits)

/-- Whether a discarded part (`rem` of `2^d`) rounds the magnitude up. -/
def roundsUp (rm : Round) (neg : Bool) (odd : Bool) (rem d : Nat) : Bool :=
  match rm with
  | .rne => decide (2 ^ d < 2 * rem) || (decide (2 * rem = 2 ^ d) && odd)
  | .rtz => false
  | .rdn => neg && decide (rem ≠ 0)
  | .rup => !neg && decide (rem ≠ 0)

/-- Whether an overflow under RM gives infinity (R116). -/
def overflowsToInf (rm : Round) (neg : Bool) : Bool :=
  match rm with
  | .rne => true
  | .rtz => false
  | .rdn => neg
  | .rup => !neg

/-- An encoding and the flags its rounding raises. -/
structure Rounded where
  bits : Nat
  flags : Flags
  deriving DecidableEq, Repr

/-- A finite non-zero value rounded once into an IEEE format, subnormals kept and tininess judged before rounding
(R115 to R117). Under `sat` an overflow gives the largest finite value (R125). -/
def Ieee.round (f : Ieee) (rm : Round) (sat : Bool) (neg : Bool) (m : Nat) (e : Int) : Rounded :=
  let emin : Int := 1 - (f.bias : Int)
  let ex : Int := e + Nat.log2 m
  let tiny := decide (ex < emin)
  let q : Int := (if ex < emin then emin else ex) - f.fbits
  let d := (q - e).toNat
  let kept := if q ≤ e then m * 2 ^ (e - q).toNat else m / 2 ^ d
  let rem := if q ≤ e then 0 else m % 2 ^ d
  let mant := if roundsUp rm neg (kept % 2 = 1) rem d then kept + 1 else kept
  let mag : Nat := ((q + f.fbits - emin) * (2 ^ f.fbits : Nat) + mant).toNat
  if f.infBits ≤ mag then
    ⟨f.signed neg (if sat || !overflowsToInf rm neg then f.infBits - 1 else f.infBits), { of := true, nx := true }⟩
  else ⟨f.signed neg mag, { uf := tiny && rem ≠ 0, nx := rem ≠ 0 }⟩

/-- Any value into an IEEE format; an infinite source under `sat` gives the largest finite value (R125). -/
def Ieee.ofNum (f : Ieee) (rm : Round) (sat : Bool) : Num → Rounded
  | .nan s => ⟨f.nanBits, { nv := s }⟩
  | .inf neg => if sat then ⟨f.signed neg (f.infBits - 1), { of := true, nx := true }⟩ else ⟨f.signed neg f.infBits, {}⟩
  | .zero neg => ⟨f.signed neg 0, {}⟩
  | .fin neg m e => f.round rm sat neg m e

/-! ### Exact arithmetic -/

/-- ±m as an integer. -/
def signedInt (neg : Bool) (m : Nat) : Int := if neg then -(m : Int) else m

/-- An integer times 2^e; an exact zero takes the sign given (R115). -/
def numOfInt (zeroNeg : Bool) (v e : Int) : Num :=
  if v = 0 then .zero zeroNeg else .fin (decide (v < 0)) v.natAbs e

/-- An exact value and whether the operation was invalid. -/
structure Exact where
  num : Num
  nv : Bool := false
  deriving DecidableEq, Repr

/-- Whether an operand is a signalling NaN. -/
def Num.isSNaN : Num → Bool | .nan s => s | _ => false
/-- Whether an operand is a NaN. -/
def Num.isNaN : Num → Bool | .nan _ => true | _ => false

/-- −x. -/
def Num.negate : Num → Num
  | .nan s => .nan s
  | .inf n => .inf (!n)
  | .zero n => .zero (!n)
  | .fin n m e => .fin (!n) m e

/-- x · 2^k, exactly (R127). -/
def Num.scale (k : Int) : Num → Num
  | .fin n m e => .fin n m (e + k)
  | x => x

/-- b × c, exactly; 0 × ∞ is invalid (R115, R117). -/
def Num.mul (b c : Num) : Exact :=
  match b, c with
  | .nan s, y => ⟨.nan false, s || y.isSNaN⟩
  | x, .nan s => ⟨.nan false, s || x.isSNaN⟩
  | .inf _, .zero _ => ⟨.nan false, true⟩
  | .zero _, .inf _ => ⟨.nan false, true⟩
  | .inf n, .inf k => ⟨.inf (n != k), false⟩
  | .inf n, .fin k _ _ => ⟨.inf (n != k), false⟩
  | .fin n _ _, .inf k => ⟨.inf (n != k), false⟩
  | .zero n, .zero k => ⟨.zero (n != k), false⟩
  | .zero n, .fin k _ _ => ⟨.zero (n != k), false⟩
  | .fin n _ _, .zero k => ⟨.zero (n != k), false⟩
  | .fin n m e, .fin k p g => ⟨.fin (n != k) (m * p) (e + g), false⟩

/-- b + c, exactly; an exact zero of opposite signs is +0, under RDN −0, and ∞ − ∞ is invalid (R115, R117). -/
def Num.add (rm : Round) (b c : Num) : Exact :=
  let down := decide (rm = .rdn)
  match b, c with
  | .nan s, y => ⟨.nan false, s || y.isSNaN⟩
  | x, .nan s => ⟨.nan false, s || x.isSNaN⟩
  | .inf n, .inf k => if n = k then ⟨.inf n, false⟩ else ⟨.nan false, true⟩
  | .inf n, _ => ⟨.inf n, false⟩
  | _, .inf k => ⟨.inf k, false⟩
  | .zero n, .zero k => ⟨.zero (if n = k then n else down), false⟩
  | .zero _, y => ⟨y, false⟩
  | x, .zero _ => ⟨x, false⟩
  | .fin n m e, .fin k p g =>
    let lo := if e ≤ g then e else g
    ⟨numOfInt down (signedInt n (m * 2 ^ (e - lo).toNat) + signedInt k (p * 2 ^ (g - lo).toNat)) lo, false⟩

/-- b × c + a, exactly. A quiet NaN operand gives NaN without a flag (R115), also as the addend of an invalid product
[DEDUCED, log 30]. -/
def Num.fma (rm : Round) (b c a : Num) : Exact :=
  if b.isNaN || c.isNaN || a.isNaN then ⟨.nan false, b.isSNaN || c.isSNaN || a.isSNaN⟩
  else
    let p := b.mul c
    if p.nv then ⟨.nan false, true⟩ else p.num.add rm a

/-- ⌊√n⌋ by bits from the top. -/
def isqrtGo : Nat → Nat → Nat → Nat
  | 0, _, r => r
  | k + 1, n, r => let t := r + 2 ^ k; isqrtGo k n (if t * t ≤ n then t else r)
/-- ⌊√n⌋. -/
def isqrt (n : Nat) : Nat := isqrtGo (Nat.log2 n / 2 + 1) n 0

/-- A value strictly between m and m + 1 units rounds as m + 1/2: one more bit below holds "inexact". -/
def withSticky (neg : Bool) (m : Nat) (inexact : Bool) (e : Int) : Num :=
  .fin neg (2 * m + (if inexact then 1 else 0)) (e - 1)

/-- 1/b to enough bits for one correct rounding into any format of R114 (R147). -/
def Num.recip : Num → Num
  | .nan s => .nan s
  | .inf n => .zero n
  | .zero n => .inf n
  | .fin n m e =>
    let k := Nat.log2 m + 64
    withSticky n (2 ^ k / m) (decide (2 ^ k % m ≠ 0)) (-(k : Int) - e)

/-- 1/√b for b > 0, to enough bits for one correct rounding (R147). -/
def rsqrtPos (m : Nat) (e : Int) : Num :=
  let m' := if e % 2 = 0 then m else 2 * m
  let e' := if e % 2 = 0 then e else e - 1
  let k := Nat.log2 m' + 64
  let r := isqrt (2 ^ (2 * k) / m')
  withSticky false r (decide (r * r * m' ≠ 2 ^ (2 * k))) (-(k : Int) - e' / 2)

/-! ### Comparison -/

/-- A key that orders finite values: the integer multiple of 2^lo. -/
def Num.key (lo : Int) : Num → Int
  | .fin n m e => signedInt n (m * 2 ^ (e - lo).toNat)
  | _ => 0
/-- The exponent of a value. -/
def Num.expo : Num → Int
  | .fin _ _ e => e
  | _ => 0

/-- b < c for values that are not NaN; +0 equals −0 (R148). -/
def Num.lt (b c : Num) : Bool :=
  match b, c with
  | .inf n, .inf k => n && !k
  | .inf n, _ => n
  | _, .inf k => !k
  | x, y => let lo := if x.expo ≤ y.expo then x.expo else y.expo; decide (x.key lo < y.key lo)

/-- b = c for values that are not NaN. -/
def Num.eq (b c : Num) : Bool := !b.lt c && !c.lt b

/-- `vfcmp` (R148): the bit and whether NV becomes set. -/
def compareFloat (op : FCmpOp) (b c : Num) : Bool × Bool :=
  let n := b.isNaN || c.isNaN
  let s := b.isSNaN || c.isSNaN
  match op with
  | .eq => (!n && b.eq c, s)
  | .ne => (n || !b.eq c, s)
  | .lt => (!n && b.lt c, n)
  | .ge => (!n && !b.lt c, n)

/-- Whether a value counts as less for `vfmin`: −0 is less than +0 (R146). -/
def Num.ltZero (b c : Num) : Bool :=
  match b, c with
  | .zero n, .zero k => n && !k
  | x, y => x.lt y

/-! ### Tapered codes (R118 to R121) -/

/-- The length of the run of bits equal to `q` in `m`, from bit `i − 1` down. -/
def taperRun (m : Nat) (q : Nat) : Nat → Nat
  | 0 => 0
  | i + 1 => if m / 2 ^ i % 2 = q then taperRun m q i + 1 else 0

/-- `TaperedDecode` (R118); `b` is 7 for t8 and 5 for t6. [DEDUCED, log 64] -/
def taperedDecode (b : Nat) (topinf : Bool) (code : Nat) : Num :=
  let neg := decide (code / 2 ^ b % 2 = 1)
  let m := code % 2 ^ b
  if m = 0 then (if neg then .nan false else .zero false)
  else if m = 2 ^ b - 1 ∧ topinf = true then .inf neg
  else
    let q := m / 2 ^ (b - 1) % 2
    let n := taperRun m q b
    let k : Int := if q = 1 then (n : Int) - 1 else -(n : Int)
    let left := b - n - 1
    let e := if left = 0 then 0 else m / 2 ^ (left - 1) % 2
    let w := left - 1
    .fin neg (2 ^ w + m % 2 ^ w) (2 * k + e - w)

/-- The largest finite magnitude code (R121). -/
def taperedMax (b : Nat) (topinf : Bool) : Nat := if topinf then 2 ^ b - 2 else 2 ^ b - 1

/-- The largest magnitude code, built from the top bit down, whose value does not exceed |x|: the magnitude is
strictly increasing in the code (R119). -/
def taperedFloor (b : Nat) (x : Num) : Nat → Nat → Nat
  | 0, c => c
  | i + 1, c =>
    let t := c + 2 ^ i
    taperedFloor b x i (if x.lt (taperedDecode b false t) then c else t)

/-- |x|. -/
def Num.abs : Num → Num
  | .fin _ m e => .fin false m e
  | x => x

/-- An overflow into a tapered format (R126). -/
def taperedOverflow (b : Nat) (topinf sat neg : Bool) : Rounded :=
  let mag := if sat then taperedMax b topinf else if topinf then 2 ^ b - 1 else 0
  let nan := !sat && !topinf
  ⟨if neg || nan then 2 ^ b + mag else mag, { of := true, nx := true }⟩

/-- A value into a tapered format (R123, R124, R126). -/
def taperedOfNum (b : Nat) (rm : Round) (topinf sat : Bool) : Num → Rounded
  | .nan s => ⟨2 ^ b, { nv := s }⟩
  | .zero _ => ⟨0, {}⟩
  | .inf neg => if topinf && !sat then ⟨if neg then 2 ^ (b + 1) - 1 else 2 ^ b - 1, {}⟩ else taperedOverflow b topinf sat neg
  | .fin neg m e =>
    let x := Num.fin false m e
    let top := taperedMax b topinf
    if (taperedDecode b false top).lt x then taperedOverflow b topinf sat neg
    else
      let c := taperedFloor b x b 0
      let lo := taperedDecode b false c
      if x.eq lo then ⟨if neg then 2 ^ b + c else c, {}⟩
      else
        let twice := (lo.add .rne (taperedDecode b false (c + 1))).num
        let x2 := Num.fin false (2 * m) e
        let up := match rm with
          | .rne => twice.lt x2 || (twice.eq x2 && c % 2 = 1)
          | .rtz => false
          | .rdn => neg
          | .rup => !neg
        let r := if up then c + 1 else c
        ⟨if r = 0 then 0 else if neg then 2 ^ b + r else r, { uf := c = 0, nx := true }⟩

/-! ### Conversions (R123 to R127) -/

/-- Width and signedness of an integer type (R112). -/
def intShape : Ty → Option (Nat × Bool)
  | .s8 => some (8, true) | .s16 => some (16, true) | .s32 => some (32, true) | .s64 => some (64, true)
  | .n8 => some (8, false) | .n16 => some (16, false) | .n32 => some (32, false) | .n64 => some (64, false)
  | _ => none

/-- The IEEE format of a type. -/
def tyIeee : Ty → Option Ieee
  | .f32 => some .f32 | .f16 => some .f16 | .bf16 => some .bf16 | _ => none

/-- The magnitude bits of a tapered type. -/
def taperBits : Ty → Option Nat
  | .t8 => some 7 | .t6 => some 5 | _ => none

/-- Bytes of one element in memory (R112, R114, R118). -/
def tySize : Ty → Nat
  | .s8 | .n8 | .t8 | .t6 => 1
  | .s16 | .n16 | .f16 | .bf16 => 2
  | .s32 | .n32 | .f32 => 4
  | .s64 | .n64 => 8

/-- Bytes of a scalar access (R96). -/
def intSize : IntTy → Nat
  | .s8 | .n8 => 1 | .s16 | .n16 => 2 | .s32 | .n32 => 4 | .s64 | .n64 => 8

/-- Whether a type is signed. -/
def intSigned : IntTy → Bool
  | .s8 | .s16 | .s32 | .s64 => true
  | _ => false

/-- The value of `x`'s low `w` bits as an integer. -/
def intOfBits (w : Nat) (signed : Bool) (x : Nat) : Int :=
  let v := x % 2 ^ w
  if signed && 2 ^ (w - 1) ≤ v then (v : Int) - (2 ^ w : Nat) else v

/-- The exact value that a source encoding stands for (R123). -/
def sourceNum (t : Ty) (topinf : Bool) (x : Nat) : Num :=
  match intShape t, tyIeee t, taperBits t with
  | some (w, s), _, _ => numOfInt false (intOfBits w s x) 0
  | _, some f, _ => f.decode x
  | _, _, some b => taperedDecode b topinf x
  | _, _, _ => .zero false

/-- A finite value to an integer under RM; whether it was inexact. -/
def roundToInt (rm : Round) (neg : Bool) (m : Nat) (e : Int) : Int × Bool :=
  if 0 ≤ e then (signedInt neg (m * 2 ^ e.toNat), false)
  else
    let d := (-e).toNat
    let kept := m / 2 ^ d
    let rem := m % 2 ^ d
    (signedInt neg (if roundsUp rm neg (kept % 2 = 1) rem d then kept + 1 else kept), rem ≠ 0)

/-- Smallest and largest value of an integer format (R112). -/
def intMin (w : Nat) (signed : Bool) : Int := if signed then -(2 ^ (w - 1) : Nat) else 0
@[inherit_doc intMin] def intMax (w : Nat) (signed : Bool) : Int :=
  if signed then (2 ^ (w - 1) : Nat) - 1 else (2 ^ w : Nat) - 1

/-- The low `w` bits of an integer. -/
def wrapBits (w : Nat) (v : Int) : Nat := (v % (2 ^ w : Nat)).toNat

/-- A floating or tapered value to an integer format (R125). -/
def intOfNum (w : Nat) (signed : Bool) (rm : Round) (sat : Bool) (x : Num) : Rounded :=
  let bad := if signed then 2 ^ (w - 1) else 2 ^ w - 1
  let clampTo (neg : Bool) : Rounded :=
    ⟨if sat then wrapBits w (if neg then intMin w signed else intMax w signed) else bad, { nv := true }⟩
  match x with
  | .nan _ => ⟨if sat then 0 else bad, { nv := true }⟩
  | .inf neg => clampTo neg
  | .zero _ => ⟨0, {}⟩
  | .fin neg m e =>
    let (v, inexact) := roundToInt rm neg m e
    if v < intMin w signed ∨ intMax w signed < v then clampTo neg else ⟨wrapBits w v, { nx := inexact }⟩

/-- An integer to an integer format: low bits, or clamped under `sat` (R125). -/
def intOfInt (w : Nat) (signed sat : Bool) (v : Int) : Nat :=
  wrapBits w (if sat then (if v < intMin w signed then intMin w signed else if intMax w signed < v then intMax w signed else v)
    else v)

/-- The value `n` of a source already decoded (and scaled, R127) delivered in type `dt` (R123 to R126). -/
def deliver (dt : Ty) (rm : Round) (topinf sat : Bool) (n : Num) : Rounded :=
  match intShape dt, tyIeee dt, taperBits dt with
  | some (w, s), _, _ => intOfNum w s rm sat n
  | _, some f, _ => f.ofNum rm sat n
  | _, _, some b => taperedOfNum b rm topinf sat n
  | _, _, _ => ⟨0, {}⟩

/-- An exact value rounded to an integer under RM; what is no finite value has none. -/
def Num.toInteger (rm : Round) : Num → Int
  | .fin neg m e => (roundToInt rm neg m e).1
  | _ => 0

/-- Whether a value is an infinity. -/
def Num.isInf : Num → Bool | .inf _ => true | _ => false

/-- A conversion with a power of two between the exact source and the destination (R125, R127). An integer delivered as an
integer raises no flag: it keeps its low bits, or is clamped under `sat`; where a scale makes it no integer it is rounded under RM
first [DESIGN CHOICE, log 77]. An infinity of a tapered source becomes the destination's, also under `sat`. -/
def convert (dt st : Ty) (rm : Round) (topinf sat : Bool) (scale : Int) (x : Nat) : Rounded :=
  let n := (sourceNum st topinf x).scale scale
  match intShape dt, intShape st with
  | some (w, s), some _ => ⟨intOfInt w s sat (n.toInteger rm), {}⟩
  | _, _ => deliver dt rm topinf (sat && !((taperBits st).isSome && (tyIeee dt).isSome && n.isInf)) n

/-! ### Lane operations of the vector unit (R145 to R149) -/

/-- The format of a vector floating type. -/
def fmtOf : FTy → Ieee
  | .f32 => .f32 | .f16 => .f16 | .bf16 => .bf16

/-- A lane and the flags it raised. -/
structure LaneResult where
  lane : Lane
  flags : Flags
  deriving DecidableEq, Repr

/-- An exact result rounded into the lane (R128). -/
def laneOf (f : Ieee) (rm : Round) (x : Exact) : LaneResult :=
  let r := f.ofNum rm false x.num
  ⟨BitVec.ofNat 32 r.bits, r.flags.or { nv := x.nv }⟩

/-- The value a lane holds in a format; bits above the format are ignored (R134). -/
def Ieee.lane (f : Ieee) (x : Lane) : Num := f.decode (x.toNat % (2 * f.signBit))

/-- b + c (R145). -/
def laneFadd (t : FTy) (rm : Round) (b c : Lane) : LaneResult :=
  laneOf (fmtOf t) rm (((fmtOf t).lane b).add rm ((fmtOf t).lane c))
/-- b − c (R145). -/
def laneFsub (t : FTy) (rm : Round) (b c : Lane) : LaneResult :=
  laneOf (fmtOf t) rm (((fmtOf t).lane b).add rm ((fmtOf t).lane c).negate)
/-- b × c (R145). -/
def laneFmul (t : FTy) (rm : Round) (b c : Lane) : LaneResult :=
  laneOf (fmtOf t) rm (((fmtOf t).lane b).mul ((fmtOf t).lane c))
/-- b × c + a, rounded once (R145). -/
def laneFma (t : FTy) (rm : Round) (a b c : Lane) : LaneResult :=
  laneOf (fmtOf t) rm (((fmtOf t).lane b).fma rm ((fmtOf t).lane c) ((fmtOf t).lane a))

/-- `vfmin` and `vfmax` return an operand unchanged, or the default NaN (R146). -/
def laneFminmax (wantMax : Bool) (t : FTy) (b c : Lane) : LaneResult :=
  let f := (fmtOf t)
  let x := f.lane b
  let y := f.lane c
  let keep (l : Lane) : Lane := BitVec.ofNat 32 (l.toNat % (2 * f.signBit))
  if x.isNaN || y.isNaN then ⟨BitVec.ofNat 32 f.nanBits, { nv := x.isSNaN || y.isSNaN }⟩
  else if wantMax then ⟨keep (if x.ltZero y then c else b), {}⟩ else ⟨keep (if y.ltZero x then c else b), {}⟩

/-- `vfabs` clears the sign bit (R146). -/
def laneFabs (t : FTy) (b : Lane) : Lane := BitVec.ofNat 32 (b.toNat % (fmtOf t).signBit)
/-- `vfneg` inverts the sign bit (R146). -/
def laneFneg (t : FTy) (b : Lane) : Lane :=
  let f := (fmtOf t)
  let x := b.toNat % (2 * f.signBit)
  BitVec.ofNat 32 (if x < f.signBit then x + f.signBit else x - f.signBit)

/-- `vfrcp` (R147). -/
def laneFrcp (t : FTy) (rm : Round) (b : Lane) : LaneResult :=
  let x := (fmtOf t).lane b
  let r := (fmtOf t).ofNum rm false x.recip
  ⟨BitVec.ofNat 32 r.bits, r.flags.or { dz := match x with | .zero _ => true | _ => false }⟩

/-- `vfrsq` (R147). -/
def laneFrsq (t : FTy) (rm : Round) (b : Lane) : LaneResult :=
  let f := (fmtOf t)
  match f.lane b with
  | .nan s => ⟨BitVec.ofNat 32 f.nanBits, { nv := s }⟩
  | .zero n => ⟨BitVec.ofNat 32 (f.signed n f.infBits), { dz := true }⟩
  | .inf false => ⟨0, {}⟩
  | .inf true => ⟨BitVec.ofNat 32 f.nanBits, { nv := true }⟩
  | .fin true _ _ => ⟨BitVec.ofNat 32 f.nanBits, { nv := true }⟩
  | .fin false m e =>
    let r := f.ofNum rm false (rsqrtPos m e)
    ⟨BitVec.ofNat 32 r.bits, r.flags⟩

/-- One lane of `vcvt` (R149). -/
def laneConvert (dt st : Ty) (rm : Round) (topinf sat : Bool) (x : Lane) : LaneResult :=
  let r := convert dt st rm topinf sat 0 x.toNat
  ⟨BitVec.ofNat 32 r.bits, r.flags⟩

/-! ### Block sums of the matrix unit (R129 to R133) -/

/-- The exact sum of the products of a tapered block, with NaN and infinity handled under R132. -/
def blockProduct (acc : Exact) (p : Num × Num) : Exact :=
  let x := p.1.mul p.2
  let s := acc.num.add .rne x.num
  ⟨s.num, acc.nv || x.nv || (s.nv && !acc.num.isNaN && !x.num.isNaN)⟩

/-- Whether a block holds infinite products of both signs (R132). -/
def hasBothInf (ps : List (Num × Num)) : Bool :=
  ps.any (fun p => (p.1.mul p.2).num = .inf false) && ps.any (fun p => (p.1.mul p.2).num = .inf true)

/-- The block sum (R130, R132): exact over the products, NaN operands raising no flag of their own. -/
def blockSum (ps : List (Num × Num)) : Exact :=
  let r := ps.foldl blockProduct ⟨.zero false, false⟩
  ⟨r.num, ps.any (fun p => (p.1.mul p.2).nv) || hasBothInf ps⟩

/-- C := RNE(C + block sum) (R130, R132). -/
def accumulateBlock (c : Lane) (ps : List (Num × Num)) : LaneResult :=
  let b := blockSum ps
  let r := laneOf .f32 .rne ((Ieee.f32.lane c).add .rne b.num)
  ⟨r.lane, r.flags.or { nv := b.nv }⟩

/-- C := RNE(C + a·b), one rounding per product (R133). -/
def accumulateFma (c : Lane) (a b : Num) : LaneResult := laneOf .f32 .rne (a.fma .rne b (Ieee.f32.lane c))

/-- The s32 accumulator plus an exact block sum, wrapped, with OV when it left the range (R131). -/
def accumulateInt (c : Lane) (sum : Int) : LaneResult :=
  let v := c.toInt + sum
  ⟨BitVec.ofInt 32 v, { ov := v < -2147483648 || 2147483647 < v }⟩

end Sys2Proof.Machine
end

