-- ==== Sys2Proof/Machine/Region.lean ====
section
/-! DEFINITION. Regions and their algebra (R159 to R188): boxes, canonical form, merging, and the cell sets that the
region instructions compute. A cell set is held as a list of products of value lists, so no instruction enumerates the
cells of a tensor. -/

namespace Sys2Proof.Machine

/-- One dimension of a box: lo inclusive, hi exclusive, stride 2^sc (R159). -/
structure Dim where
  lo : Int
  hi : Int
  sc : Nat
  deriving DecidableEq, Repr

/-- A box: its dimensions, dimension 0 first (R159). -/
abbrev Box := List Dim

/-- A region register: the header fields of R160 and the boxes in use. NBOX is the length of `boxes`. -/
structure Region where
  tid : Nat := 0
  rank : Nat := 0
  tv : Bool := false
  rag : Bool := false
  apx : Bool := false
  ovf : Bool := false
  boxes : List Box := []
  deriving DecidableEq, Repr

/-- The blank region, the value of every region register at dispatch (R39, R161). -/
def Region.blank : Region := {}

/-- An empty region with RANK = 0 and TV = 0 (R161). -/
def Region.isBlank (q : Region) : Bool := q.boxes.isEmpty && !q.ovf && q.rank = 0 && !q.tv

/-- A cell set over some dimensions: a union of products of value lists, one list per dimension. -/
abbrev Prods := List (List (List Int))

/-- The members of one dimension: lo, lo + 2^sc, … below hi (R159). -/
def Dim.values (d : Dim) : List Int :=
  if d.hi ≤ d.lo then []
  else (List.range (((d.hi - d.lo - 1) / (2 ^ d.sc : Nat)).toNat + 1)).map fun (m : Nat) => d.lo + (m : Int) * (2 ^ d.sc : Nat)

/-- The cells of boxes. -/
def cellsOf (bs : List Box) : Prods := bs.map fun b => b.map Dim.values

/-- Insertion of a value into an ascending list without repeats. -/
def insertInt (v : Int) : List Int → List Int
  | [] => [v]
  | x :: xs => if v < x then v :: x :: xs else if v = x then x :: xs else x :: insertInt v xs

/-- Ascending order without repeats. -/
def sortInts (xs : List Int) : List Int := xs.foldr insertInt []

/-- The tails of the products whose first list holds `v` (`Fib` of R163). -/
def fibre (ps : Prods) (v : Int) : Prods :=
  ps.filterMap fun p => match p with
    | [] => none
    | d :: rest => if d.contains v then some rest else none

/-- The distinct values of the first dimension, ascending (P of R163). -/
def heads (ps : Prods) : List Int :=
  sortInts (ps.flatMap fun p => match p with | [] => [] | d :: _ => d)

/-- How two cell sets combine. -/
inductive SetOp where
  | union | inter | diff
  deriving DecidableEq, Repr

/-- Whether a cell with the given memberships belongs to the result. -/
def SetOp.holds : SetOp → Bool → Bool → Bool
  | .union, a, b => a || b
  | .inter, a, b => a && b
  | .diff, a, b => a && !b

/-- How many values follow `u` at spacing `s` without a gap. -/
def runLen (c : List Int) (u s : Int) : Nat → Nat
  | 0 => 1
  | f + 1 => if c.contains (u + s) then runLen c (u + s) s f + 1 else 1

/-- `Runs` (R163): (u, s, n) from the smallest value, greedily. The first argument bounds the recursion. -/
def runs : Nat → List Int → List (Int × Nat × Nat)
  | 0, _ => []
  | _ + 1, [] => []
  | f + 1, u :: rest =>
    let gap : Int := match rest with | [] => 0 | w :: _ => w - u
    let s : Nat := if [1, 2, 4, 8, 16, 32, 64, 128].contains gap then gap.toNat else 1
    let n := runLen rest u s rest.length
    let taken := (List.range n).map fun (m : Nat) => u + (m : Int) * s
    (u, s, n) :: runs f (rest.filter fun v => !taken.contains v)

/-- The stored dimension of a run: sc = 0 for one member, else log2 of the spacing (R163). -/
def dimOfRun (r : Int × Nat × Nat) : Dim :=
  ⟨r.1, r.1 + ((r.2.2 : Int) - 1) * r.2.1 + 1, if r.2.2 = 1 then 0 else Nat.log2 r.2.1⟩

/-- The values grouped by equal fibres, classes in the order of their smallest value (R163). Fibres are compared by
their canonical lists, which are equal exactly when the fibres are. -/
def classes : List (Int × List Box) → List (List Int × List Box)
  | [] => []
  | (v, f) :: rest =>
    let cs := classes rest
    match cs.find? fun c => c.2 = f with
    | some c => (v :: c.1, f) :: cs.filter fun d => d.2 ≠ f
    | none => ([v], f) :: cs

/-- `Canon` of R163 on the combination of two cell sets, over the given number of dimensions. -/
def canonRaw (op : SetOp) : Nat → Prods → Prods → List Box
  | 0, a, b => if op.holds (!a.isEmpty) (!b.isEmpty) then [[]] else []
  | n + 1, a, b =>
    let vs := sortInts (heads a ++ (if op = .diff then [] else heads b))
    let fs := (vs.map fun v => (v, canonRaw op n (fibre a v) (fibre b v))).filter fun x => !x.2.isEmpty
    (classes fs).flatMap fun c =>
      (runs c.1.length c.1).flatMap fun r => c.2.map fun t => dimOfRun r :: t

/-- Ascending order of boxes by (lo0, lo1, lo2, lo3). -/
def boxLe : Box → Box → Bool
  | [], _ => true
  | _, [] => false
  | x :: xs, y :: ys => if x.lo < y.lo then true else if y.lo < x.lo then false else boxLe xs ys

/-- Insertion of a box into a sorted list. -/
def insertBox (b : Box) : List Box → List Box
  | [] => [b]
  | x :: xs => if boxLe b x then b :: x :: xs else x :: insertBox b xs

/-- The canonical list of a combined cell set, sorted (R163). -/
def canon (op : SetOp) (rank : Nat) (a b : Prods) : List Box := (canonRaw op rank a b).foldr insertBox []

/-- The number of cells of a union of products (R186). -/
def countCells : Nat → Prods → Nat
  | 0, ps => if ps.isEmpty then 0 else 1
  | n + 1, ps => ((heads ps).map fun v => countCells n (fibre ps v)).foldl (· + ·) 0

/-- The cells whose lexicographic ordinals lie in [lo, hi) (R181). -/
def sliceCells : Nat → Nat → Nat → Prods → Prods
  | 0, lo, hi, ps => if ps.isEmpty ∨ ¬(lo = 0 ∧ 0 < hi) then [] else [[]]
  | n + 1, lo, hi, ps =>
    ((heads ps).foldl (fun (acc : Nat × Prods) v =>
      let f := fibre ps v
      let k := countCells n f
      (acc.1 + k, acc.2 ++ (sliceCells n (lo - acc.1) (min k (hi - acc.1)) f).map fun t => [v] :: t)) (0, [])).2

/-! ### Merging (R166) -/

/-- The bounding box of two boxes (R166). -/
def boundingBox : Box → Box → Box
  | x :: xs, y :: ys =>
    let keep := x.sc = y.sc && (x.lo - y.lo) % (2 ^ x.sc : Nat) = 0
    ⟨if x.lo ≤ y.lo then x.lo else y.lo, if x.hi ≤ y.hi then y.hi else x.hi, if keep then x.sc else 0⟩ :: boundingBox xs ys
  | _, _ => []

/-- The cells a bounding box adds: its own that lie in neither box (R166). -/
def cellsAdded (rank : Nat) (x y : Box) : Nat :=
  countCells rank (cellsOf [boundingBox x y]) - countCells rank (cellsOf [x, y])

/-- The position of the adjacent pair whose bounding box adds the fewest cells, the first of equals (R166). -/
def bestPair (rank : Nat) : List Box → Nat × Nat
  | x :: y :: rest =>
    let here := cellsAdded rank x y
    match rest with
    | [] => (0, here)
    | _ :: _ =>
      let (i, best) := bestPair rank (y :: rest)
      if here ≤ best then (0, here) else (i + 1, best)
  | _ => (0, 0)

/-- The pair at position `i` replaced by its bounding box. -/
def mergeAt : Nat → List Box → List Box
  | 0, x :: y :: rest => boundingBox x y :: rest
  | i + 1, x :: rest => x :: mergeAt i rest
  | _, bs => bs

/-- Merging until at most 8 boxes remain; the first argument bounds the recursion. -/
def mergeTo8 (rank : Nat) : Nat → List Box → List Box
  | 0, bs => bs
  | f + 1, bs => if bs.length ≤ 8 then bs else mergeTo8 rank f (mergeAt (bestPair rank bs).1 bs)

/-- Whether a bound lies in the signed 32-bit range (R167). -/
def inS32 (v : Int) : Bool := -2147483648 ≤ v && v ≤ 2147483647

/-- Whether every bound of a box lies in the signed 32-bit range (R167). -/
def boxInS32 (b : Box) : Bool := b.all fun d => inS32 d.lo && inS32 d.hi

/-- `Finish` on a canonical list (R165, R166, R168). Bounds outside the signed 32-bit range overflow under both modifiers
(R167): an extent, up to 2³² − 1, can bring one about too. [DEDUCED, log 78] -/
def finishList (h : Region) (approx : Bool) (list : List Box) : Region :=
  if !list.all boxInS32 then { h with boxes := [], ovf := true, apx := false }
  else if list.length ≤ 8 then { h with boxes := list, ovf := false, apx := h.apx && !list.isEmpty }
  else if approx then { h with boxes := mergeTo8 h.rank list.length list, ovf := false, apx := true }
  else { h with boxes := [], ovf := true, apx := false }

/-- `Finish` of a combination of cell sets under the header `h` (R163 to R168). -/
def finish (h : Region) (approx : Bool) (op : SetOp) (a b : Prods) : Region :=
  finishList h approx (canon op h.rank a b)

/-! ### Compatibility and headers (R172) -/

/-- The cells of a region's stored boxes. -/
def Region.cells (q : Region) : Prods := cellsOf q.boxes

/-- Whether two sources are compatible (R172). -/
def compatible (b c : Region) : Bool :=
  b.isBlank || c.isBlank || (b.rank = c.rank && b.tv = c.tv && (!b.tv || b.tid = c.tid))

/-- The header two compatible sources give: that of the one that is not blank (R172). Two sources with TV = 0 may hold
different TIDs (R188): the result keeps the first one's. [DESIGN CHOICE, log 79] -/
def sharedHeader (b c : Region) : Region :=
  let h := if b.isBlank then c else b
  { h with boxes := [], rag := false, apx := false, ovf := false }

/-- A plain box (R171). -/
def Region.isPlainBox (q : Region) : Bool :=
  !q.rag && !q.apx && match q.boxes with
    | [b] => b.all fun d => d.sc = 0
    | _ => false

/-! ### Set operations (R175, R171) -/

/-- `runi` (R175). -/
def regionUnion (approx : Bool) (b c : Region) : Region :=
  finish { sharedHeader b c with apx := b.apx || c.apx } approx .union b.cells c.cells

/-- `rint` (R175); ragged where a source is (R171). -/
def regionInter (approx : Bool) (b c : Region) : Region :=
  finish { sharedHeader b c with apx := b.apx || c.apx, rag := b.rag || c.rag } approx .inter b.cells c.cells

/-- `rsub` (R175). -/
def regionDiff (approx : Bool) (b c : Region) : Region :=
  finish { sharedHeader b c with apx := b.apx } approx .diff b.cells c.cells

/-- The per-dimension hull of boxes (R175): least lo, and one past the greatest member. -/
def hullOf : Nat → Prods → Box
  | 0, _ => []
  | n + 1, ps =>
    let vs := heads ps
    ⟨vs.headD 0, vs.getLastD 0 + 1, 0⟩ :: hullOf n (ps.map List.tail)

/-- `rhull` (R175). -/
def regionHull (approx : Bool) (b c : Region) : Region :=
  let h := { sharedHeader b c with apx := b.apx || c.apx }
  let ps := (b.cells ++ c.cells).filter fun p => p.all fun d => !d.isEmpty
  if ps.isEmpty then finish h approx .union [] [] else finish h approx .union (cellsOf [hullOf h.rank ps]) []

/-- The values of one dimension inside [0, extent). -/
def clipValues (extent : Int) (vs : List Int) : List Int := vs.filter fun v => 0 ≤ v && v < extent

/-- `rclip` (R177). -/
def regionClip (approx : Bool) (extents : List Int) (b : Region) : Region :=
  finish b approx .union (b.cells.map fun p => (p.zip extents).map fun x => clipValues x.2 x.1) []

/-- The values within `a` of some member, inside [0, extent) (R179). -/
def dilateValues (extent : Int) (a : Nat) (vs : List Int) : List Int :=
  sortInts (vs.flatMap fun v =>
    clipValues extent ((List.range (2 * a + 1)).map fun (k : Nat) => v - a + k))

/-- `rdil` (R179). -/
def regionDilate (approx : Bool) (extents : List Int) (amounts : List Nat) (b : Region) : Region :=
  finish b approx .union
    (b.cells.map fun p => ((p.zip extents).zip amounts).map fun x => dilateValues x.1.2 x.2 x.1.1) []

/-- The elements whose positions are not in the mask. -/
def dropMasked {α : Type} (mask : Nat) (xs : List α) : List α :=
  (xs.zip (List.range xs.length)).filterMap fun x => if mask / 2 ^ x.2 % 2 = 1 then none else some x.1

/-- `rproj`: the masked dimensions dropped (R180). Empty products give no cell. -/
def regionProject (approx : Bool) (mask : Nat) (tid : Option Nat) (b : Region) : Region :=
  let h : Region :=
    { b with boxes := [], rank := b.rank - popCount (BitVec.ofNat 4 mask), tv := tid.isSome, tid := tid.getD 0 }
  finish h approx .union ((b.cells.filter fun p => p.all fun d => !d.isEmpty).map (dropMasked mask)) []

/-- `rsplit`: part `i` of `k` (R181). -/
def regionSplit (approx : Bool) (i k : Nat) (b : Region) : Region :=
  let n := countCells b.rank b.cells
  finish b approx .union (sliceCells b.rank (i * n / k) ((i + 1) * n / k) b.cells) []

/-- `rstr`: every bound moved by its dimension's offset (R178, R167). -/
def regionTranslate (offs : List Int) (b : Region) : Region :=
  let bs := b.boxes.map fun x => (x.zip offs).map fun y => { y.1 with lo := y.1.lo + y.2, hi := y.1.hi + y.2 }
  if bs.all boxInS32 then { b with boxes := bs }
  else { b with boxes := [], ovf := true, apx := false }

/-- `rbox`: one box over a tensor (R182). -/
def regionBox (tid : Nat) (dims : List Dim) : Region :=
  finish { tid := tid, rank := dims.length, tv := true } false .union (cellsOf [dims]) []

/-- `rtest`: whether a point is a cell (R187). -/
def hasCell (pt : List Int) (b : Region) : Bool :=
  !b.isBlank && b.cells.any fun p => (p.zip pt).all fun x => x.1.contains x.2

/-! ### The save slot (R160, R162, R188) -/

/-- The header word (R160). -/
def Region.header (q : Region) : Word :=
  BitVec.ofNat 64 (q.boxes.length + (if q.ovf then 256 else 0) + (if q.apx then 512 else 0) + (if q.rag then 1024 else 0)
    + (if q.tv then 2048 else 0) + 4096 * q.rank + 65536 * q.tid)

/-- Dimension `j` of box `b` as the slot stores it (R161): zeros beyond NBOX, [0, 1) beyond RANK. -/
def Region.slotDim (q : Region) (b j : Nat) : Dim :=
  match q.boxes[b]? with
  | none => ⟨0, 0, 0⟩
  | some x => (x[j]?).getD ⟨0, 1, 0⟩

/-- The stride-code half-word of a box (R162). -/
def Region.slotSt (q : Region) (b : Nat) : Nat :=
  (q.slotDim b 0).sc + 8 * (q.slotDim b 1).sc + 64 * (q.slotDim b 2).sc + 512 * (q.slotDim b 3).sc

/-- The forty 64-bit words of the slot (R162). -/
def Region.slotWords (q : Region) : List Word :=
  let st (b : Nat) : Nat := q.slotSt b
  let quad (b : Nat) : Word :=
    BitVec.ofNat 64 (st b + 65536 * st (b + 1) + 4294967296 * st (b + 2) + 281474976710656 * st (b + 3))
  let dim (b j : Nat) : Word :=
    BitVec.ofNat 64 (((q.slotDim b j).lo % 4294967296).toNat + 4294967296 * ((q.slotDim b j).hi % 4294967296).toNat)
  [q.header, quad 0, quad 4, 0, 0, 0, 0, 0]
    ++ (List.range 8).flatMap fun b => (List.range 4).map fun j => dim b j

/-- A 32-bit field as a signed number. -/
def s32 (x : Nat) : Int := (BitVec.ofNat 32 x).toInt

/-- The boxes of a slot, every dimension of every one of the eight. -/
def slotBox (ws : List Word) (b : Nat) : List Dim :=
  let st := (ws.getD (1 + b / 4) 0).toNat / 2 ^ (16 * (b % 4)) % 65536
  (List.range 4).map fun j =>
    let w := (ws.getD (8 + 4 * b + j) 0).toNat
    ⟨s32 w, s32 (w / 4294967296), st / 8 ^ j % 8⟩

/-- Whether a slot is well formed (the list of R188 check 3). -/
def slotOk (ws : List Word) : Bool :=
  let h := (ws.getD 0 0).toNat
  let nbox := h % 16
  let ovf := h / 256 % 2 = 1
  let apx := h / 512 % 2 = 1
  let rag := h / 1024 % 2 = 1
  let tv := h / 2048 % 2 = 1
  let rank := h / 4096 % 8
  decide (h / 16 % 16 = 0 ∧ h / 32768 % 2 = 0 ∧ h / 4194304 = 0)
    && (List.range 8).all (fun b => (ws.getD (1 + b / 4) 0).toNat / 2 ^ (16 * (b % 4)) % 65536 / 4096 = 0)
    && ((ws.drop 3).take 5).all (fun w => w = 0)
    && decide (nbox ≤ 8 ∧ rank ≤ 4)
    && !(rank = 0 && (0 < nbox || tv || rag || apx || ovf))
    && !(ovf && (nbox ≠ 0 || apx)) && !(apx && nbox = 0) && !(rag && (!tv || rank < 2))
    && (List.range 8).all (fun b =>
      ((slotBox ws b).zip (List.range 4)).all fun x =>
        if b < nbox then (if x.2 < rank then x.1.lo < x.1.hi else x.1 = ⟨0, 1, 0⟩) else x.1 = ⟨0, 0, 0⟩)

/-- The region of a well-formed slot: as stored when OVF or APX is set, else in canonical form (R188). -/
def regionOfSlot (ws : List Word) : Region :=
  let h := (ws.getD 0 0).toNat
  let rank := h / 4096 % 8
  let r : Region :=
    { tid := h / 65536 % 64, rank := rank, tv := h / 2048 % 2 = 1, rag := h / 1024 % 2 = 1, apx := h / 512 % 2 = 1
      ovf := h / 256 % 2 = 1, boxes := (List.range (h % 16)).map fun b => (slotBox ws b).take rank }
  if r.ovf || r.apx then r else finish r false .union r.cells []

end Sys2Proof.Machine
end

