-- ==== Sys2Proof/Machine/Sparse.lean ====
section
/-! DEFINITION. Finite maps as plain data: a list of (key, value) pairs with rising keys, and the byte helpers over
them. -/

namespace Sys2Proof.Machine

/-- The value at a key, or none. -/
def lookup {α : Type} (k : Nat) : List (Nat × α) → Option α
  | [] => none
  | (j, v) :: rest => if j = k then some v else lookup k rest

/-- The list with no entry at the key. -/
def remove {α : Type} (k : Nat) : List (Nat × α) → List (Nat × α)
  | [] => []
  | (j, v) :: rest => if j = k then rest else (j, v) :: remove k rest

/-- The list with the key's entry set, in its rising place. -/
def insert {α : Type} (k : Nat) (v : α) : List (Nat × α) → List (Nat × α)
  | [] => [(k, v)]
  | (j, w) :: rest => if k < j then (k, v) :: (j, w) :: rest else if k = j then (k, v) :: rest else (j, w) :: insert k v rest

/-- A rising list without repeats of keys that are present. -/
def insertKey (k : Nat) : List Nat → List Nat
  | [] => [k]
  | j :: rest => if k < j then k :: j :: rest else if k = j then j :: rest else j :: insertKey k rest

/-- The element at an index replaced. -/
def setAt {α : Type} (i : Nat) (v : α) (xs : List α) : List α := xs.set i v

/-- The element at an index removed. -/
def dropAt {α : Type} (i : Nat) (xs : List α) : List α := xs.eraseIdx i

/-- An element of a vector changed; nothing outside it. -/
def onVec {α : Type} {n : Nat} (v : Vector α n) (i : Nat) (f : α → α) : Vector α n :=
  match v[i]? with
  | some x => v.setIfInBounds i (f x)
  | none => v

/-- One bit of a 32-bit vector of flags. -/
def bit32 (i : Nat) : BitVec 32 := BitVec.ofNat 32 (2 ^ i)

/-- The number a byte string holds, least significant byte first (R7). -/
def natOfBytes : List Byte → Nat
  | [] => 0
  | b :: rest => b.toNat + 256 * natOfBytes rest

/-- The `n` low bytes of a number, least significant first (R7). -/
def bytesOf : Nat → Nat → List Byte
  | 0, _ => []
  | n + 1, x => BitVec.ofNat 8 x :: bytesOf n (x / 256)

/-- Bits `hi` down to `lo` of a number. -/
def bits (x hi lo : Nat) : Nat := x / 2 ^ lo % 2 ^ (hi + 1 - lo)

/-- Whether keys rise strictly. -/
def risingKeys {α : Type} : List (Nat × α) → Bool
  | [] => true
  | [_] => true
  | x :: y :: rest => decide (x.1 < y.1) && risingKeys (y :: rest)

end Sys2Proof.Machine
end

