-- ==== Sys2Proof/Machine/State.lean ====
section
/-! DEFINITION. Everything the spec gives the machine, as plain data: the thread contexts, the tasks and cards, the
scratch arrays, the caches and the memory behind them, the engines, the scope, set and object tables, the exchange, the
fabric, the host link and the management cluster; and the machine after reset. -/

namespace Sys2Proof.Machine

/-! ### Register state of a thread context (R18 to R31) -/

/-- One loop level's values S, E, N and I (R93). -/
structure LoopState where
  start : Word := 0
  stop : Word := 0
  count : Word := 0
  index : Word := 0
  deriving DecidableEq, Repr

/-- A stream binding of v24 to v31 (R22, R155): its generator and the pattern. -/
structure Binding where
  gen : Nat
  base : Nat
  stride : Int
  count : Nat
  pos : Nat
  deriving DecidableEq, Repr

/-- What a name m0 to m15 binds (R205, R361). -/
inductive Bound where
  | unbound
  | set (id : Nat)
  | scope (id : Nat)
  deriving DecidableEq, Repr

/-- A name with the thread's membership and its recorded arrival of `bar.a` (R209, R351). `byBar` is the address of the `bar` that
made the arrival and has not returned. -/
structure NameEnt where
  bound : Bound := .unbound
  member : Bool := false
  arrived : Option Nat := none
  byBar : Option Word := none
  deriving DecidableEq, Repr

/-- A tile register (R314): its shape and the raw words that are not zero. -/
structure TileReg where
  rows : Nat := 32
  cols : Nat := 32
  f32 : Bool := true
  words : List (Nat × Lane) := []
  deriving DecidableEq, Repr

/-- A tensor-table entry (R289, R291): the descriptor and the image origin. -/
structure Tensor where
  format : Nat := 0
  rank : Nat := 0
  scale : Int := 0
  loc : Bool := false
  base : Nat := 0
  ext : List Nat := []
  pitch : List Int := []
  ltab : Nat := 0
  ltlen : Nat := 0
  img : Nat := 0
  deriving DecidableEq, Repr

/-- The thread's one reservation (R257): the access it was made by, its block, the level that holds it and the count of
instructions retired since. `phys` is the physical block at the bank levels. -/
structure Resv where
  addr : Nat
  size : Nat
  scope : Nat
  phys : Option Nat
  since : Nat
  deriving DecidableEq, Repr

/-- A message packet (R220): 128 bytes as lanes, the sender and its TOPINF. -/
structure Msg where
  sender : Nat
  topinf : Bool
  body : Lanes
  deriving DecidableEq, Repr

/-- The part a thread plays in a phrase (R216 to R219). -/
inductive PhraseRole where
  | none
  | leading (width : Nat)
  | joining (headCore : Nat)
  | head (width : Nat)
  | dependent (headCore : Nat)
  deriving DecidableEq, Repr

/-- One timetable entry (R225). -/
structure TtEntry where
  doff : Nat
  drank : Nat
  cycle : Nat
  slot : Nat
  flits : Nat
  deriving DecidableEq, Repr

/-- A coordinate packet posted by `xreq` or `xadd` (R228): the values of a scatter-add are copied at issue. -/
structure Coord where
  add : Bool
  owner : Nat
  ooff : Nat
  ty : Nat
  words : Nat
  localOff : Nat
  values : List Lane
  rm : Nat
  topinf : Bool
  seq : Nat
  deriving DecidableEq, Repr

/-- A gather served in one exchange whose reply travels in the next (R230). -/
structure Reply where
  requester : Nat
  localOff : Nat
  owner : Nat
  ooff : Nat
  words : Nat
  topinf : Bool
  deriving DecidableEq, Repr

/-- A gang thread's exchange state (R225 to R230, R358). -/
structure Exchange where
  table : List TtEntry := []
  sources : List (Nat × Nat) := []
  posted : List Coord := []
  beyond : Nat := 0
  arrived : Bool := false
  done : Bool := false
  flits : Nat := 0
  repl : Nat := 0
  adds : Nat := 0
  rej : Nat := 0
  topcode : Bool := false
  remote : Option Nat := none
  deriving DecidableEq, Repr

/-- A reply that an instruction awaits (R399): the tag of its request, the device that was asked, and the place and the operation that
were asked for. -/
structure Awaited where
  tag : Nat
  peer : Nat
  place : Nat
  op : Nat
  deriving DecidableEq, Repr

/-- Why a context does not run at the moment. -/
inductive RunState where
  | running
  | halted (address saveArea : Nat) (stepping : Bool)
  | draining
  deriving DecidableEq, Repr

/-- A thread context: every register of R18, the physical scalar words of R20, the system registers of R24, and what
R46, R100, R108, R197, R216, R222, R225, R257, R288, R351 and R365 keep for it. `acted` is the result of an atomic or `cmt` that has acted
and waits until another device has acknowledged its write. -/
structure Thread where
  live : Bool := false
  num : Nat := 0
  asid : Nat := 0
  d : Vector Word 64 := Vector.replicate 64 0
  v : Vector Lanes 32 := Vector.replicate 32 Lanes.zero
  p : Vector Lane 8 := Vector.replicate 8 0
  q : Vector Region 16 := Vector.replicate 16 Region.blank
  z : Vector TileReg 8 := Vector.replicate 8 {}
  tensors : List (Nat × Tensor) := []
  pc : Word := 0
  status : Word := 0
  cause : Word := 0
  epc : Word := 0
  eaddr : Word := 0
  tvec : Word := 0
  fmode : Word := 0
  spbase : Word := 0
  spsize : Word := 0
  spilltop : Word := 0
  spillovf : Word := 0
  lvl : Nat := 0
  taskid : Nat := 0
  scopeid : Nat := 0
  ecount : Word := 0
  loops : Vector LoopState 4 := Vector.replicate 4 {}
  binds : Vector (Option Binding) 8 := Vector.replicate 8 none
  segBase : Nat := 0
  segCount : Nat := 0
  event : Bool := false
  onc : Word := 0
  inHandler : Bool := false
  observed : Bool := false
  marked : Bool := false
  names : Vector NameEnt 16 := Vector.replicate 16 {}
  cntRemote : Nat := 0
  cntGlobal : Nat := 0
  cntDevice : Nat := 0
  rerr : Bool := false
  refused : Nat := 0
  derr : Bool := false
  queue : List Msg := []
  beyond : List Msg := []
  places : List Nat := []
  ownPages : Nat := 0
  lost : Nat := 0
  resv : Option Resv := none
  killCount : Nat := 0
  handlerCount : Nat := 0
  covered : Vector Nat 16 := Vector.replicate 16 0
  intrs : List Nat := []
  waiting : Bool := false
  trapped : Bool := false
  micro : Nat := 0
  awaits : Nat := 0
  level : Nat := 0
  run : RunState := .running
  phrase : PhraseRole := .none
  rank : Nat := 0
  dealt : Nat := 0
  exch : Exchange := {}
  replies : List Awaited := []
  kept : Option (List Nat) := none
  acted : Option Nat := none
  icache : List (Nat × Lane) := []
  acquired : Bool := false
  csa : Nat := 0
  pimage : Nat := 0
  evicted : Bool := false
  yields : Bool := false
  deriving DecidableEq, Repr

/-- A context that holds nothing: what every slot is after reset (R38). -/
def Thread.empty : Thread := {}

/-! ### Tasks, cards, scopes and sets (chapters 8 and 18) -/

/-- A job card as the distributor copied it (R190, R192), with its counts. `trapRecord` is the CAUSE (0), EPC (1) and EADDR (2)
kept with its first abnormal status (R339). -/
structure Card where
  id : Nat
  flags : Nat
  pwidth : Nat
  cls : Nat
  chunkf : Nat
  xbound : Nat
  rsize : Nat
  rcount : Nat
  minchunk : Nat
  rbase : Nat
  entry : Nat
  scratch : Nat
  spill : Nat
  threads : Nat
  mset : Nat
  budget : Nat
  target : Nat
  footprint : Nat
  lease : Nat
  scope : Nat
  asid : Nat
  submitter : Option Nat
  host : Option (Nat × Nat)
  watched : Bool
  next : Nat := 0
  redeals : List (Nat × Nat) := []
  watchDeals : List (Nat × Nat) := []
  count : Nat := 0
  abn : Nat := 0
  first : Nat := 0
  energy : Nat := 0
  trapRecord : List (Nat × Nat) := []
  complete : Bool := false
  deriving DecidableEq, Repr

/-- How far a launch has come (R199). -/
inductive TaskStage where
  | requested
  | launching
  | running
  | ending (status : Nat)
  deriving DecidableEq, Repr

/-- A task: one placement unit's work (R193, R231, R219, R194). `record` keeps small facts by number: 0 CAUSE, 1 EPC and 2 EADDR of
the trap that ended it (R339), 3 the status with which
cancellation ended a thread of it, 4 and 5 how far its launch has come (R199), 6 the unit that it was pre-empted with (R349). -/
structure Task where
  id : Nat
  card : Nat
  asid : Nat
  scope : Nat
  stage : TaskStage
  slots : List Nat
  live : List Nat
  chunk : Nat × Nat
  deals : List (Nat × Nat) := []
  leases : List (Nat × Nat) := []
  leased : Bool := false
  parked : Bool := false
  doomed : Bool := false
  record : List (Nat × Nat) := []
  flags : Word := 0
  counted : Word := 0
  deriving DecidableEq, Repr

/-- A scope-table entry (R361 to R363). STATE: 1 open, 2 closing, 3 cancelling, 4 cancelled; KIND: 0 root, 1 card,
2 opened. -/
structure ScopeRec where
  parent : Nat
  state : Nat
  kind : Nat
  cause : Nat := 0
  first : Nat := 0
  abn : Nat := 0
  owner : Nat := 0
  deriving DecidableEq, Repr

/-- A membership set (R205): E, A and P, and the slots that arrived in the open phase and in the one released last (R211). -/
structure SetRec where
  e : Nat := 0
  a : Nat := 0
  p : Nat := 0
  here : List Nat := []
  last : List Nat := []
  deriving DecidableEq, Repr

/-! ### Memory: caches, directory and homes (chapters 10 and 11) -/

/-- One valid word of a core's L1 (R240): words are numbered by virtual address over 4, and `way` is the segment of the array
that holds the word's line (R236). `writer` is the device thread that wrote a dirty word, and `task` its task. `topinf` is the writer's
TOPINF (R122), `early` marks a line that is the first to be replaced in its set (R256), `ex` a copy whose page the home knew as executable
(R246, R249). -/
structure L1Word where
  core : Nat
  asid : Nat
  wa : Nat
  way : Nat
  val : Lane
  dirty : Bool
  registered : Bool
  narrow : Bool
  writer : Nat
  task : Nat
  poison : Bool := false
  topinf : Bool := false
  early : Bool := false
  ex : Bool := false
  deriving DecidableEq, Repr

/-- One word a cluster home holds (R242, R256): its value when the slice has one, the core that registered it, and its
physical word number with the permissions of its page (1 readable, 2 writable, 4 executable) once the home has translated it. While a core
owns the word, `val` is the last value held on the Welt (R388). `topinf` is the TOPINF of the thread that wrote it last (R122). -/
structure SliceWord where
  cluster : Nat
  asid : Nat
  wa : Nat
  val : Option Lane
  dirty : Bool
  narrow : Bool
  stale : Bool
  owner : Option Nat
  pw : Option Nat
  perm : Nat := 3
  task : Nat := 0
  lostWrite : Bool := false
  poison : Bool := false
  topinf : Bool := false
  deriving DecidableEq, Repr

/-- The directory entry of a line of an LLC bank (R243), with the registration sequence of each cluster that has one. -/
structure LlcLine where
  present : BitVec 32 := 0
  narrow : BitVec 32 := 0
  seqs : List (Nat × Nat) := []
  deriving DecidableEq, Repr

/-- A translation held by a slice or an engine (R246). Units 0 to 1,023 are the slices by tile, 1,024 + t the walk engine
of tile t. -/
structure TlbEnt where
  unit : Nat
  asid : Nat
  vbase : Nat
  pbase : Nat
  size : Nat
  perm : Nat
  deriving DecidableEq, Repr

/-- What a posted global operation does at its home (R256, R258, R46): a store of words with their poison marks under a cache
policy, which keeps them in the L1 or (`.na`) only registers with its data, or an atomic. -/
inductive PostKind where
  | store (vals : List (Lane × Bool)) (cp : CachePolicy)
  | amo (op : Nat) (ty : Nat) (val : Word)
  deriving DecidableEq, Repr

/-- A posted global operation whose registration or execution is under way (R46, R256). `sent` is the die and the sequence of the
publish of a wide store that waits to be applied, `device` says that the operation counts in the remote-device class, and `step`
is the step that posted it. -/
structure Posted where
  thread : Nat
  taskid : Nat
  core : Nat
  asid : Nat
  va : Nat
  size : Nat
  scope : Nat
  kind : PostKind
  topinf : Bool := false
  device : Bool := false
  step : Nat := 0
  sent : Option (Nat × Nat) := none
  deriving DecidableEq, Repr

/-- A word on its way to a bank: its physical word number, its value and whether it is poisoned (R245). -/
abbrev BankWord := Nat × Lane × Bool

/-- A publish on its way to a bank (R266, R391), with the registration sequence that its cluster has for the line (R243). `due` says
that the summaries have been exchanged since the bank refused it (R392). -/
structure Publish where
  die : Nat
  seq : Nat
  cluster : Nat
  words : List BankWord
  deps : List Nat
  registration : Nat := 0
  buffered : Bool := false
  refused : Bool := false
  due : Bool := false
  deriving DecidableEq, Repr

/-- A coherence object (R253). -/
structure ObjRec where
  asid : Nat
  base : Nat
  rowbytes : Nat
  rows : Nat
  pitch : Nat
  cls : Nat
  owner : Nat
  deriving DecidableEq, Repr

/-- A region protection (R304): mode 0 read-only, 1 no-access, 2 draining; byte ranges of an address space. -/
structure Prot where
  task : Nat
  asid : Nat
  mode : Nat
  ranges : List (Nat × Nat)
  deriving DecidableEq, Repr

/-- A draining mark of a checkpoint on a 16-byte granule (R309). -/
structure DrainMark where
  asid : Nat
  granule : Nat
  op : Nat × Nat × Nat
  deriving DecidableEq, Repr

/-- An armed watch (R232). -/
structure WatchRec where
  card : Nat
  scope : Nat
  asid : Nat
  addr : Nat
  words : Nat
  mask : Word
  cmp : Word
  home : Nat
  deriving DecidableEq, Repr

/-- A recall on its way to a slice (R243): the line, the cluster, and the registration sequence it was sent under. -/
structure Recall where
  line : Nat
  cluster : Nat
  seq : Nat
  deriving DecidableEq, Repr

/-- A page that is moving (R251): a shoot-down has met its leaf with MV = 1 and none has met it with MV = 0 since. `pbase` is the
place that the leaf gave. -/
structure MovingPage where
  asid : Nat
  base : Nat
  size : Nat
  pbase : Nat
  deriving DecidableEq, Repr

/-- The memory system. `dram` is what the LLC banks and HBM hold together, by physical byte; `lastPub` the die and the sequence of the
last publish applied to a line (R391). -/
structure Mem where
  dram : List Host.Cell := []
  poison : List Nat := []
  scratch : List Host.Cell := []
  full : List Nat := []
  pending : List (Nat × Nat) := []
  l1 : List L1Word := []
  slices : List SliceWord := []
  llc : List (Nat × LlcLine) := []
  tlb : List TlbEnt := []
  recalls : List Recall := []
  moving : List MovingPage := []
  posted : List Posted := []
  pubs : List Publish := []
  objects : List (Nat × ObjRec) := []
  prots : List Prot := []
  drains : List DrainMark := []
  watches : List (Nat × WatchRec) := []
  fused : List (Nat × Nat) := []
  applied : Vector Nat 8 := Vector.replicate 8 0
  appliedOut : List (Nat × Nat) := []
  lastPub : List (Nat × Nat × Nat) := []
  pubSeq : Vector Nat 8 := Vector.replicate 8 0
  depV : Vector (Vector Nat 8) 8 := Vector.replicate 8 (Vector.replicate 8 0)
  summary : Vector Nat 8 := Vector.replicate 8 0
  deriving DecidableEq, Repr

/-! ### Engines (chapters 13 and 15) -/

/-- Where an element lies: at a global virtual address, at a scratch array byte, as a value already read (with whether it was
poisoned or refused), in a raw word of a tile register, at a place of a drain's data, in the results that a collective has received, or on
its way from a virtual address of another device under a request's tag. -/
inductive Loc where
  | glob (va : Nat)
  | scr (key : Nat)
  | imm (bytes : List Byte) (poison refused : Bool)
  | tileWord (z w : Nat)
  | out (pos : Nat)
  | result (index : Nat)
  | reply (tag peer va : Nat)
  deriving DecidableEq, Repr

/-- One element that an operation moves or converts (R292, R306): bytes at the source and at the destination. -/
structure Elem where
  src : Loc
  ssize : Nat
  dst : Loc
  dsize : Nat
  deriving DecidableEq, Repr

/-- A cell of a region with the elements that move it. A cell of a ragged region counts only below the length that its entry of the
table gives, `entry` being that entry's place among those the operation reads (R170). -/
structure LenCell where
  entry : Option Nat
  last : Int
  elems : List Elem
  deriving DecidableEq, Repr

/-- What makes up one indivisible action of an operation: the elements of one destination granule (R286), with the global
granule whose draining mark the operation holds for it, one tile element's update (R318), a collective's elements from an index up, on
their way to the reduction's end or as its result (R401), the record at an address that says what the operation does (R307, R308), or the
table entries that say which of some cells count (R170). `srcs` are the sources of the last three while another device sends some of
them. -/
inductive Job where
  | granule (elems : List Elem) (mark : Option Nat)
  | tile (index : Nat)
  | chunk (result : Bool) (index : Nat) (srcs : List Loc)
  | record (va : Nat) (srcs : List Loc)
  | lengths (srcs : List Loc) (lists : List (List LenCell))
  deriving DecidableEq, Repr

/-- A conversion an operation applies to each element; equal formats copy bits (R306). -/
structure Conv where
  dt : Nat
  st : Nat
  dscale : Int
  sscale : Int
  sat : Bool
  copy : Bool
  deriving DecidableEq, Repr

/-- The operands a stream operation captured (R317). -/
inductive StreamKind where
  | product (ty : Nat) (sparse : Bool) (a b : List Nat) (metas : List Nat)
  | zero
  | load (words : List Lane)
  | store
  deriving DecidableEq, Repr

/-- The operation itself. `walk` keeps the steps whose slots are not claimed, with slot-relative scratch places, and the
claimed slots with the jobs left; `collective` the operation (0 reduce, 1 all, 2 broadcast), the reduction and the type. -/
inductive OpKind where
  | transfer (conv : Option Conv)
  | walk (handle : Nat) (writesBack : Bool) (need : Nat) (steps : List (List Elem)) (claimed : List (Nat × List Job))
  | stream (kind : StreamKind) (z rows cols : Nat)
  | collective (op red ty count src dst group root : Nat)
  | drain (kind target addr : Nat) (bytes : List Byte) (sent : Bool)
  deriving DecidableEq, Repr

/-- A collective flit that has arrived (R399, R401): its group, its first element, the device that sent it, its TOPINF and its
f32 elements. -/
structure Flit where
  group : Nat
  index : Nat
  src : Nat
  topinf : Bool
  lanes : List Lane
  deriving DecidableEq, Repr

/-- The flits of a source that an ended collective would still have taken, from an index to another: they are discarded. `ahead` are the
codes of the operations that take theirs before (R401). -/
structure Ghost where
  group : Nat
  src : Nat
  next : Nat
  last : Nat
  ahead : List Nat
  deriving DecidableEq, Repr

/-- A fault that halted an operation (R343, R344). -/
structure Halt where
  record : Nat
  seq : Nat
  die : Nat
  deriving DecidableEq, Repr

/-- An operation that has not completed (R285): `thread` and `home` are the slot and the task of the context whose partition
and tile registers it uses, `task` the task that issued it and `scope` that task's scope. `marks` are the scratch granules it is a pending
writer of, by a byte of each (R313); `status` is the status it will complete with where something has fixed it; `sent` counts its stores and drain
packets that another device has not acknowledged, `made` the granules it has written. `flits` counts the operand flits of a stream
operation that have not reached the matrix unit, and `caught` says that they lie in a spill ring (R354); `checked` lists its blocks that
have been recomputed (R328). `doneReply` is the tag and the peer of the increment of a DONE word on another device (R310). `targets` are
the slots and tasks of the other contexts whose partitions it writes (R294), `results` the results of a collective that have arrived and
are not written (R401). -/
structure EngOp where
  tile : Nat
  ctx : Nat
  num : Nat
  thread : Nat
  home : Nat
  task : Nat
  scope : Nat := 0
  asid : Nat
  topinf : Bool
  rm : Nat
  kind : OpKind
  jobs : List Job
  marks : List Nat := []
  status : Option Nat := none
  flags : Word := 0
  halt : Option Halt := none
  doneWord : Nat := 0
  command : Bool := false
  addr : Nat := 0
  sent : Nat := 0
  made : Nat := 0
  flits : Nat := 0
  caught : Bool := false
  checked : List Nat := []
  doneReply : Option (Nat × Nat) := none
  targets : List (Nat × Nat) := []
  results : List (Nat × List Lane) := []
  deriving DecidableEq, Repr

/-- An engine context's timeline (R285, R287, R328). -/
structure EngCtx where
  issued : Nat := 0
  abn : Nat := 0
  abnStatus : Nat := 0
  abnAddr : Nat := 0
  topinf : Bool := false
  halted : Bool := false
  deriving DecidableEq, Repr

/-- A slot of a handle (R298). -/
inductive SlotState where
  | free | filling | full | draining
  deriving DecidableEq, Repr

/-- A buffer-table entry (R297): its task, the slot of the context whose partition holds the slots, the slot size in
granules, the offset of slot 0, and the engine operations that hold it. -/
structure HandleEnt where
  task : Nat
  holder : Nat
  ssize : Nat
  base : Nat
  slots : List SlotState
  prod : Nat := 0
  cons : Nat := 0
  fail : Nat := 0
  failNum : Nat := 0
  producer : Option (Nat × Nat) := none
  consumer : Option (Nat × Nat) := none
  deriving DecidableEq, Repr

/-- A minted key (R331, R332). -/
structure KeyEnt where
  tile : Nat
  engine : Nat
  key : Nat
  mask : Nat
  task : Nat
  deriving DecidableEq, Repr

/-- A command on its way to another tile's engine (R310, R334): the engine it is for (0 walk, 1 converter, 2 matrix), the
capability, the named thread or slot, the record as copied, and the sender's scope and modes. `lost` says that the sender was lost with a
die meanwhile (R389). -/
structure Command where
  sender : Nat
  senderTask : Nat
  scope : Nat := 0
  asid : Nat
  engine : Nat
  cap : Word
  target : Word
  record : List Byte
  rm : Nat
  topinf : Bool
  lost : Bool := false
  deriving DecidableEq, Repr

/-- What a tile keeps (R328, R402, R246): its saturating counts, the same counts for the health record (R403), whether its
arithmetic core is retired, and its slice's multihits. -/
structure TileRec where
  retry : Nat := 0
  health : Nat := 0
  retries : Nat := 0
  achks : Nat := 0
  retired : Bool := false
  multihit : Nat := 0
  deriving DecidableEq, Repr

/-- The engines of every tile; contexts are numbered 16·tile + e, handles 64·tile + h. -/
structure Eng where
  ctxs : List (Nat × EngCtx) := []
  ops : List EngOp := []
  handles : List (Nat × HandleEnt) := []
  keys : List KeyEnt := []
  tiles : List (Nat × TileRec) := []
  commands : List Command := []
  resumes : List (Nat × Nat) := []
  flits : List Flit := []
  ghosts : List Ghost := []
  groups : List (Nat × List Nat) := []
  deriving DecidableEq, Repr

/-! ### Dies, Welt, host, fabric and management (chapters 20 and 21) -/

/-- A die block of the Welt register space and the die's own units (R412, R345, R388, R391). -/
structure DieRec where
  live : Bool := false
  fenced : Bool := true
  ftm : Bool := false
  tvec : Word := 0
  frbase : Word := 0
  frslots : Word := 0
  frhead : Word := 0
  frtail : Word := 0
  super : Word := 0
  fault : Word := 0
  recSeq : Nat := 0
  lwbase : Word := 0
  lwcount : Nat := 0
  discard : Nat := 0
  nodes : List (Nat × Word) := []
  watchdog : Bool := false
  hot : Bool := false
  trip : Bool := false
  throttled : Bool := false
  deriving DecidableEq, Repr

/-- The Welt registers that no other structure holds (R412). -/
structure Welt where
  run : Bool := false
  ready : Bool := false
  scopebase : Word := 0
  hotbase : Word := 0
  poolbase : Word := 0
  poolpages : Word := 0
  qroot : List (Nat × Word) := []
  roots : List (Nat × Word) := []
  writes : List (Nat × Word) := []
  deriving DecidableEq, Repr

/-- A host queue (R408, R409) with the ring places the configuration records give (R415). -/
structure HostQueue where
  ctail : Nat := 0
  chead : Nat := 0
  ptail : Nat := 0
  phead : Nat := 0
  vec : Nat := 0
  refused : Nat := 0
  enabled : Bool := false
  error : Bool := false
  phase : Bool := true
  held : List (List Byte) := []
  cbase : Nat := 0
  csize : Nat := 0
  pbase : Nat := 0
  psize : Nat := 0
  deriving DecidableEq, Repr

/-- The host link (R407, R408): queues, negotiation, host memory and the interrupts raised. -/
structure HostLink where
  up : Bool := false
  queues : Vector HostQueue 16 := Vector.ofFn fun i => { vec := i.val }
  hmax : Nat := 0
  hmin : Nat := 0
  chosen : Nat := 0
  memory : List Host.Cell := []
  msix : List Nat := []
  bar2base : Nat := 0
  bar2size : Nat := 0
  reads : List (List Byte) := []
  deriving DecidableEq, Repr

/-- A fabric packet that waits for acknowledgement (R398, R399). -/
structure Unacked where
  op : Nat
  packet : FabPacket
  tries : Nat
  deriving DecidableEq, Repr

/-- What counts something that has been sent to another device: nothing, the thread of a task in its remote-device class (R46), or an
engine operation under its code. -/
inductive Counter where
  | nobody
  | thread (slot task : Nat)
  | op (code : Nat)
  deriving DecidableEq, Repr

/-- A connection to a domain device (R398 to R400). `stores` lists what has been sent and not acknowledged: a store under its
sequence number, a posted atomic under 2³² plus its tag. `resvs` keeps the reservations of the peer's threads, each as 128 times
its 8-byte block plus 16 times its offset there plus its size. -/
structure FabConn where
  up : Bool := true
  ver : Nat := 0
  sendSeq : Nat := 0
  recvSeq : Nat := 0
  owed : Bool := false
  unacked : List Unacked := []
  early : List (Nat × FabPacket) := []
  stores : List (Nat × Counter) := []
  resvs : List (Nat × Nat) := []
  deriving DecidableEq, Repr

/-- The fabric: this device's number, its ports, its connections, the packets it sent and the replies that arrived. -/
structure Fabric where
  device : Nat := 0
  ports : Vector Bool 6 := Vector.replicate 6 false
  conns : List (Nat × FabConn) := []
  outbox : List (Nat × FabPacket) := []
  replies : List (Nat × Nat × List Byte) := []
  drains : List (Nat × Nat) := []
  tag : Nat := 1
  dropped : Nat := 0
  deriving DecidableEq, Repr

/-- An image in flash, as its bytes stand there (R414). -/
structure Image where
  bytes : List Byte := []
  deriving DecidableEq, Repr

/-- A key and value of the configuration record set (R415). -/
abbrev ConfigRecord := Nat × List Byte

/-- An NVMe controller and the bytes drains have written to it (R308, R421). -/
structure Nvme where
  ok : Bool := true
  blocks : List (Nat × List Byte) := []
  deriving DecidableEq, Repr

/-- A debugger's access to global memory that is under way (R422): the bytes still to be read or written from `va` on, what has been
read, and the reply of another device that it awaits, as the tag and the device. -/
structure DebugAccess where
  asid : Nat
  va : Nat
  len : Nat
  data : Option (List Byte) := none
  read : List Byte := []
  reply : Option (Nat × Nat) := none
  deriving DecidableEq, Repr

/-- The management cluster: boot, identity, debug, power and storage (chapter 21). `cores` says which of its four RISC-V cores run, and
`sram` lists the bytes of its SRAM of 8 MiB that are not zero (R6, R411, R413). `configs`, `loaders` and `lasters` are the flash's two
banks of each image, `helper` its helper data, `floorMac` what authenticates FLOOR there; `keys` is the SRAM region of the two private
identity keys, which `keysLocked` closes to software (R415, R417). -/
structure Mgmt where
  cores : Vector Bool 4 := Vector.replicate 4 false
  sram : List Host.Cell := []
  helper : List Byte := []
  seed : Option (BitVec 256) := none
  keys : Option (List Byte × List Byte) := none
  keysLocked : Bool := false
  stage : Nat := 0
  devstate : Nat := 0
  code : Nat := 0
  configs : Vector Image 2 := Vector.replicate 2 {}
  loaders : Vector Image 2 := Vector.replicate 2 {}
  lasters : Vector Image 2 := Vector.replicate 2 {}
  trainOk : Bool := true
  floor : Nat := 0
  floorMac : List Byte := []
  diesOk : Vector Bool 8 := Vector.replicate 8 true
  recSvn : Nat := 0
  minsvn : Nat := 0
  lasterSvn : Nat := 0
  lasterBody : List Byte := []
  loaderBody : List Byte := []
  recBody : List Byte := []
  hthresh : Nat := 2
  records : List ConfigRecord := []
  identity : List Byte := []
  debugKey : Bool := false
  replace : Bool := false
  fences : Nat := 0
  powerCap : Nat := 1800
  clock : Nat := 700
  spdm : Nat := 0
  transcript : List Byte := []
  response : List Byte := []
  session : Bool := false
  halts : List (Nat × Nat × Nat) := []
  accesses : List DebugAccess := []
  tap : Nat := 0
  tapData : Word := 0
  idle : Nat := 0
  nvme : Vector Nvme 4 := Vector.replicate 4 {}
  grants : List (Nat × Nat) := []
  drainGrants : List Nat := []
  drainTargets : List (Nat × Nat) := []
  interrupts : List Nat := []
  deriving DecidableEq, Repr

/-- The snapshot block and its live counters (R405, R406). Byte counters are keyed 2·s and 2·s + 1 for what HBM stack s read and
wrote, 16 + 2·p and 17 + 2·p for what port p sent and received, 28 and 29 for what the host link received and sent. -/
structure Snapshot where
  latchAt : Option Nat := none
  seq : Nat := 0
  time : Nat := 0
  retired : List (Nat × Nat) := []
  issued : List (Nat × Nat) := []
  bytes : List (Nat × Nat) := []
  liveRetired : List (Nat × Nat) := []
  liveBytes : List (Nat × Nat) := []
  deriving DecidableEq, Repr

/-! ### Messages and stores in flight -/

/-- A packet on the dynamic plane (R220, R221). -/
structure Packet where
  sender : Nat
  task : Nat
  target : Nat
  msg : Msg
  deriving DecidableEq, Repr

/-- A posted store into a partition (R101): the target thread slot, the absolute array byte, the bytes, whether it sets the full
bit, and the step that posted it. -/
structure RemoteStore where
  sender : Nat
  task : Nat
  slot : Nat
  key : Nat
  bytes : List Byte
  full : Bool
  step : Nat := 0
  deriving DecidableEq, Repr

/-- An exchange packet of a gang's exchange (R229), with its bytes as they stood at the exchange's start (R235): a timetable
flit of a slot with the whole receive range `first` to `last`, a coordinate packet, or a gather's reply. `poison` names the
words of `bytes` that are poisoned (R245). -/
structure Flight where
  task : Nat
  sender : Nat
  receiver : Nat
  coord : Option Coord
  first : Nat
  doff : Nat
  last : Nat
  bytes : List Byte
  poison : List Nat
  topinf : Bool
  isReply : Bool
  slot : Nat
  deriving DecidableEq, Repr

/-- A gang's exchange as it stands (R229, R358): whether it has started, the flits still to be sent with their mesh cycles,
the coordinate packets that follow them, the gathers taken in this exchange, those of the last one, and what the receivers
have counted. -/
structure GangExch where
  started : Bool := false
  toSend : List (Nat × Flight) := []
  coords : List Flight := []
  requests : List Reply := []
  serving : List Reply := []
  journal : List (Nat × Nat) := []
  deriving DecidableEq, Repr

/-- What moves next. The list `schedule` of State holds the moves to come; where it is empty the model's own order
applies. Quantifying over it covers every interleaving the spec allows. [DESIGN CHOICE, log 1] -/
inductive Turn where
  /-- The ready thread of a core that R16 names issues. -/
  | issue (core : Nat)
  /-- A device event happens. -/
  | event (i : Instr)
  /-- An engine operation performs one of its jobs. -/
  | granule (tile ctx num job : Nat)
  /-- The residue check of a stream operation's block fails once and its recomputation matches, or fails twice (R328). -/
  | residue (tile ctx num block : Nat) (fails : Bool)
  /-- Another member of an operation's collective has been cut (R371). -/
  | memberCut (tile ctx num : Nat)
  /-- A core's L1 evicts a line (R240). -/
  | evictL1 (core asid line : Nat)
  /-- A slice evicts a line (R242). -/
  | evictSlice (cluster asid line : Nat)
  /-- A home sends the publish of a dirty word ahead of what will need it (R391, R392). -/
  | publish (cluster asid wa : Nat)
  /-- A slice or engine drops a translation to make room (R246). -/
  | dropTlb (index : Nat)
  /-- A thread's fetch takes a word ahead (R53). -/
  | prefetch (thread : Nat) (va : Nat)
  /-- An uncorrectable error poisons a word of memory or of an array (R245). -/
  | poison (word : Nat)
  /-- An uncorrectable error poisons a word of an L1 or of a slice (R245). -/
  | poisonCopy (isL1 : Bool) (place asid wa : Nat)
  /-- A packet with a reserved OP arrives, which is dropped and counted (R399). -/
  | strayPacket (beats : Nat)
  /-- The debugger's oldest access goes on (R422). -/
  | debugAccess
  /-- An interrupt is addressed to a thread (R338). -/
  | interrupt (thread vector : Nat)
  /-- A die reports a watchdog expiry or its junction temperature (R386, R421). -/
  | dieReport (die : Nat) (watchdog hot trip : Bool)
  /-- The Laster asks for the pre-emption of a thread (R349). -/
  | preempt (thread : Nat)
  /-- Only time passes. -/
  | idle
  deriving DecidableEq, Repr

/-- Reasons a step stops with a fault. -/
inductive Fault where
  /-- Raised by `factoryTest` when STATUS.FT = 1: the operations of MAJ 0x3F in factory test mode "are not described in
  this manual" (R72). Safe: the machine stops where the hardware goes on in an undescribed way. -/
  | factoryOperation
  deriving DecidableEq, Repr

/-- Reasons a step refuses an instruction. -/
inductive Refusal where
  /-- Raised by an arm of `exec` whose instruction has no meaning yet. Safe: nothing can be proved of a run that stops. -/
  | notModelled (mnemonic : String)
  deriving DecidableEq, Repr

/-- The whole machine. `th` is the context whose instruction the step executes; `others` are the further contexts that
hold a slot, `parked` the pre-empted ones. `trailing` keeps the scopes of tasks that have ended while something they sent was on its way
(R375). `fresh` counts steps and keys the free values. [DESIGN CHOICE, log 76] -/
structure State where
  th : Thread := Thread.empty
  others : List Thread := []
  parked : List Thread := []
  schedule : List Turn := []
  fresh : Nat := 0
  time : Nat := 0
  lastCore : Nat := 0
  lastIssued : List (Nat × Nat) := []
  tasks : List (Nat × Task) := []
  cards : List (Nat × Card) := []
  nextId : Nat := 1
  lastServed : List (Nat × Nat) := []
  scopes : List (Nat × ScopeRec) := []
  sets : List (Nat × SetRec) := []
  gangs : List (Nat × GangExch) := []
  packets : List Packet := []
  stores : List RemoteStore := []
  flights : List Flight := []
  marks : List Nat := []
  preempts : List Nat := []
  trailing : List (Nat × Nat) := []
  mem : Mem := {}
  eng : Eng := {}
  dies : Vector DieRec 8 := Vector.replicate 8 {}
  welt : Welt := {}
  host : HostLink := {}
  fab : Fabric := {}
  mgmt : Mgmt := {}
  snap : Snapshot := {}
  vectors : Bool := false
  deriving DecidableEq, Repr

/-- The machine right after reset: no context is allocated and no thread is ready (R38), every register that R10 to R31,
R406, R408, R412 and R416 give a reset value holds it, the caches and memory list nothing, and the management cluster has
not started (R413). The values the spec does not give are named in log entry 8. [DESIGN CHOICE, log 8] -/
def State.reset : State := {}

end Sys2Proof.Machine
end

