-- ==== Sys2Proof/Machine/Ops.lean ====
section
/-! DEFINITION. The named operations over registers and threads: reading and writing registers under the loop level,
trap entry and return (R33 to R37), waiting, ending a task, and how an instruction's outcome becomes the next state. -/

namespace Sys2Proof.Machine

/-! ### Where a thread stands (R3, R4, R216, R264) -/

/-- Device core number of a thread (R4). -/
def coreOf (thread : Nat) : Nat := thread / 4
/-- Tile number of a core (R4). -/
def tileOfCore (core : Nat) : Nat := core / 4
/-- Tile coordinates (R4). -/
def tileX (tile : Nat) : Nat := tile % 32
@[inherit_doc tileX] def tileY (tile : Nat) : Nat := tile / 32
/-- Die of a tile (R3). -/
def dieOfTile (tile : Nat) : Nat := 2 * (tileY tile / 8) + tileX tile / 16
/-- Device cluster number of a tile: 4·die + cluster within the die (R3, R4). -/
def clusterOfTile (tile : Nat) : Nat :=
  4 * dieOfTile tile + 2 * (tileY tile % 8 / 4) + tileX tile % 16 / 8
/-- The tile at a place of a cluster, row-major from its tile nearest (0, 0) (R242). -/
def tileOfCluster (cluster index : Nat) : Nat :=
  let die := cluster / 4
  let c := cluster % 4
  let x := 16 * (die % 2) + 8 * (c % 2) + index % 8
  let y := 8 * (die / 2) + 4 * (c / 2) + index / 8
  32 * y + x
@[inherit_doc dieOfTile] def dieOfCore (core : Nat) : Nat := dieOfTile (tileOfCore core)
@[inherit_doc clusterOfTile] def clusterOfCore (core : Nat) : Nat := clusterOfTile (tileOfCore core)
/-- Position 0 to 15 of a core along its forwarding row (R216). -/
def rowPosition (core : Nat) : Nat := 4 * (tileX (tileOfCore core) % 4) + core % 4
/-- The core at a position of the row that a core lies on (R216). -/
def coreInRow (core position : Nat) : Nat :=
  let t := tileOfCore core
  4 * (t - tileX t % 4 + position / 4) + position % 4
/-- The class of two threads' common level: 1 core, 2 tile, 3 cluster, 4 die, 5 device (R208, R264). -/
def commonLevel (a b : Nat) : Nat :=
  if coreOf a = coreOf b then 1 else if a / 16 = b / 16 then 2
  else if clusterOfCore (coreOf a) = clusterOfCore (coreOf b) then 3
  else if dieOfCore (coreOf a) = dieOfCore (coreOf b) then 4 else 5

/-- The level a scope acts at (R255): 1 core, 3 cluster, 5 device, 6 domain. -/
def scopeLevel : Scope → Nat
  | .thread => 1 | .core => 1 | .tile => 3 | .cluster => 3 | .die => 5 | .device => 5 | .domain => 6 | .system => 6

/-! ### Registers (R18 to R21) -/

/-- The physical word that d-register `n` names at loop level `lvl` (R20). -/
def physD (lvl n : Nat) : Nat :=
  if n < 16 then n
  else if n < 24 then (if lvl = 0 then n else 24 + 8 * (lvl - 1) + (n - 16))
  else 24 + 8 * lvl + (n - 24)

/-- D(n): d0 reads as zero (R19, R20). -/
def Thread.getD (t : Thread) (n : DReg) : Word := if n = 0 then 0 else (t.d[physD t.lvl n.toNat]?).getD 0
/-- SetD(n, v): a write to d0 is discarded (R19, R20). -/
def Thread.setD (t : Thread) (n : DReg) (v : Word) : Thread :=
  if n = 0 then t else { t with d := t.d.setIfInBounds (physD t.lvl n.toNat) v }

/-- The value a vector register holds, when it is not bound. -/
def Thread.getV (t : Thread) (n : VReg) : Lanes := t.v[n.toNat]'n.isLt
@[inherit_doc Thread.getV] def Thread.setV (t : Thread) (n : VReg) (x : Lanes) : Thread := { t with v := t.v.set n.toNat x n.isLt }
/-- A predicate register (R18). -/
def Thread.getP (t : Thread) (n : PReg) : Lane := t.p[n.toNat]'n.isLt
@[inherit_doc Thread.getP] def Thread.setP (t : Thread) (n : PReg) (x : Lane) : Thread := { t with p := t.p.set n.toNat x n.isLt }
/-- A region register (R160). -/
def Thread.getQ (t : Thread) (n : QReg) : Region := t.q[n.toNat]'n.isLt
@[inherit_doc Thread.getQ] def Thread.setQ (t : Thread) (n : QReg) (x : Region) : Thread := { t with q := t.q.set n.toNat x n.isLt }
/-- A tile register (R314). -/
def Thread.getZ (t : Thread) (n : ZReg) : TileReg := t.z[n.toNat]'n.isLt
@[inherit_doc Thread.getZ] def Thread.setZ (t : Thread) (n : ZReg) (x : TileReg) : Thread := { t with z := t.z.set n.toNat x n.isLt }
/-- What a name m0 to m15 binds (R205). -/
def Thread.getM (t : Thread) (n : MReg) : NameEnt := t.names[n.toNat]'n.isLt
@[inherit_doc Thread.getM] def Thread.setM (t : Thread) (n : MReg) (x : NameEnt) : Thread := { t with names := t.names.set n.toNat x n.isLt }

/-- FMODE with flags ORed in (R28). -/
def Thread.raise (t : Thread) (f : Flags) : Thread := { t with fmode := t.fmode ||| f.bits }

/-- The same operations on the context in focus. -/
def State.getD (s : State) (n : DReg) : Word := s.th.getD n
@[inherit_doc State.getD] def State.setD (s : State) (n : DReg) (v : Word) : State := { s with th := s.th.setD n v }
@[inherit_doc State.getD] def State.getP (s : State) (n : PReg) : Lane := s.th.getP n
@[inherit_doc State.getD] def State.setP (s : State) (n : PReg) (v : Lane) : State := { s with th := s.th.setP n v }
@[inherit_doc State.getD] def State.getQ (s : State) (n : QReg) : Region := s.th.getQ n
@[inherit_doc State.getD] def State.setQ (s : State) (n : QReg) (v : Region) : State := { s with th := s.th.setQ n v }
@[inherit_doc State.getD] def State.raise (s : State) (f : Flags) : State := { s with th := s.th.raise f }
/-- The thread goes on at an address. -/
def State.setPc (s : State) (pc : Word) : State := { s with th := { s.th with pc := pc } }
/-- The thread goes on after an instruction of `n` bytes (R51). -/
def State.advance (s : State) (n : Nat) : State := s.setPc (s.th.pc + BitVec.ofNat 64 n)

/-! ### Threads of the device -/

/-- The live context that holds a slot, the one in focus among them. -/
def State.thread? (s : State) (num : Nat) : Option Thread :=
  if s.th.live ∧ s.th.num = num then some s.th else s.others.find? fun t => t.live && t.num = num

/-- A change to the live context of a slot; nothing where there is none. -/
def State.onThread (s : State) (num : Nat) (f : Thread → Thread) : State :=
  if s.th.live ∧ s.th.num = num then { s with th := f s.th }
  else { s with others := s.others.map fun t => if t.live && t.num = num then f t else t }

/-- Every live context. -/
def State.threads (s : State) : List Thread := (if s.th.live then [s.th] else []) ++ s.others.filter fun t => t.live

/-- A change to every context that satisfies a test, parked ones included. -/
def State.onThreads (s : State) (p : Thread → Bool) (f : Thread → Thread) : State :=
  let g (t : Thread) : Thread := if p t then f t else t
  { s with th := g s.th, others := s.others.map g, parked := s.parked.map g }

/-- The context of a slot in focus; the state as it is where none holds the slot. -/
def State.focus (s : State) (num : Nat) : State :=
  if s.th.live ∧ s.th.num = num then s
  else match s.others.find? fun t => t.live && t.num = num with
    | none => s
    | some t =>
      { s with
        th := t
        others := (if s.th.live then [s.th] else []) ++ s.others.filter fun u => !(u.live && u.num = num) }

/-- The task of a thread, if it has one. -/
def State.taskOf (s : State) (t : Thread) : Option Task := lookup t.taskid s.tasks
/-- A change to a task. -/
def State.onTask (s : State) (id : Nat) (f : Task → Task) : State :=
  match lookup id s.tasks with
  | none => s
  | some t => { s with tasks := insert id (f t) s.tasks }
/-- A change to a card. -/
def State.onCard (s : State) (id : Nat) (f : Card → Card) : State :=
  match lookup id s.cards with
  | none => s
  | some c => { s with cards := insert id (f c) s.cards }

/-! ### STATUS (R26) -/

/-- Bit SV: the current mode. -/
def isSupervisor (status : Word) : Bool := status.getLsbD 0
/-- Bit TIP: a trap is in progress. -/
def trapInProgress (status : Word) : Bool := status.getLsbD 4
/-- Bit IE: interrupts are taken. -/
def interruptsOn (status : Word) : Bool := status.getLsbD 2
/-- Field PLL. -/
def trapLevel (status : Word) : Nat := bits status.toNat 10 8

/-- STATUS at trap entry: PSV := SV, PIE := IE, PLL := LVL, SV := 1, IE := 0, TIP := 1 (R33). -/
def statusAtTrap (status : Word) (lvl : Nat) : Word :=
  BitVec.ofNat 64 (1 + 16 + 256 * lvl + (if status.getLsbD 0 then 2 else 0) + (if status.getLsbD 2 then 8 else 0)
    + (if status.getLsbD 11 then 2048 else 0))

/-- STATUS after trap return: SV := PSV, IE := PIE, TIP := 0; PIE and PLL stay (R37). -/
def statusAtReturn (status : Word) : Word :=
  (status &&& 0xFFFFFFFFFFFFFFEA) ||| (if status.getLsbD 1 then 1 else 0) ||| (if status.getLsbD 3 then 4 else 0)

/-! ### Status numbers (R337) and trap classes (R35, R336) -/

/-- Task statuses and submission answers (R337, R400). -/
def statusCancelled : Nat := 1
@[inherit_doc statusCancelled] def statusCardVersion : Nat := 2
@[inherit_doc statusCancelled] def statusCardForm : Nat := 3
@[inherit_doc statusCancelled] def statusScope : Nat := 4
@[inherit_doc statusCancelled] def statusQueueFull : Nat := 5
@[inherit_doc statusCancelled] def statusWatchFull : Nat := 6
@[inherit_doc statusCancelled] def statusLeaseOut : Nat := 7
@[inherit_doc statusCancelled] def statusPageProt : Nat := 8
@[inherit_doc statusCancelled] def statusPoison : Nat := 9
@[inherit_doc statusCancelled] def statusObjectClass : Nat := 10
@[inherit_doc statusCancelled] def statusRegionProt : Nat := 11
@[inherit_doc statusCancelled] def statusDoubleTrap : Nat := 12
@[inherit_doc statusCancelled] def statusDieLost : Nat := 13
@[inherit_doc statusCancelled] def statusTrapped : Nat := 17
@[inherit_doc statusCancelled] def statusRemoteLost : Nat := 18

/-- Trap classes (R35, R336). -/
def clsIll : Nat := 1
@[inherit_doc clsIll] def clsPriv : Nat := 2
@[inherit_doc clsIll] def clsIfetch : Nat := 3
@[inherit_doc clsIll] def clsAlign : Nat := 4
@[inherit_doc clsIll] def clsScratch : Nat := 5
@[inherit_doc clsIll] def clsStreamEnd : Nat := 6
@[inherit_doc clsIll] def clsLoop : Nat := 7
@[inherit_doc clsIll] def clsHandle : Nat := 8
@[inherit_doc clsIll] def clsRegionOvf : Nat := 9
@[inherit_doc clsIll] def clsRegionApx : Nat := 10
@[inherit_doc clsIll] def clsRegionForm : Nat := 11
@[inherit_doc clsIll] def clsSpill : Nat := 12
@[inherit_doc clsIll] def clsBrk : Nat := 13
@[inherit_doc clsIll] def clsTrap : Nat := 14
@[inherit_doc clsIll] def clsSvc : Nat := 15
@[inherit_doc clsIll] def clsSync : Nat := 16
@[inherit_doc clsIll] def clsPhrase : Nat := 17
@[inherit_doc clsIll] def clsMessage : Nat := 18
@[inherit_doc clsIll] def clsExchange : Nat := 19
@[inherit_doc clsIll] def clsExchOver : Nat := 20
@[inherit_doc clsIll] def clsTopcode : Nat := 21
@[inherit_doc clsIll] def clsEngine : Nat := 22
@[inherit_doc clsIll] def clsRemoteReject : Nat := 23
@[inherit_doc clsIll] def clsCopyOverlap : Nat := 24
@[inherit_doc clsIll] def clsMatrix : Nat := 25
@[inherit_doc clsIll] def clsSparseMeta : Nat := 26
@[inherit_doc clsIll] def clsAchk : Nat := 27
@[inherit_doc clsIll] def clsIntr : Nat := 28
@[inherit_doc clsIll] def clsCancel : Nat := 29

/-- Subcodes of ILL (R35). -/
def illValue : Nat := 9
@[inherit_doc illValue] def illFeature : Nat := 4
@[inherit_doc illValue] def illFactory : Nat := 5

/-! ### The receive queue and its overflow area (R222) -/

/-- The overflow pages that the device took for packets. `places` names the page of each packet, 0 for a page that is kept. -/
def Thread.taken (t : Thread) : List Nat := (t.places.filter fun n => n ≠ 0).eraseDups

/-- The overflow pages that a context holds. -/
def Thread.pages (t : Thread) : Nat := t.ownPages + t.taken.length

/-- The receive queue moved to the head of the overflow area, into a page that is kept (R350). -/
def Thread.unqueue (t : Thread) : Thread :=
  { t with queue := [], beyond := t.queue ++ t.beyond, places := t.queue.map (fun _ => 0) ++ t.places }

/-- The oldest packets of the overflow area moved to the queue, as far as it has room. -/
def Thread.requeue (t : Thread) : Thread :=
  let k := 16 - t.queue.length
  { t with queue := t.queue ++ t.beyond.take k, beyond := t.beyond.drop k, places := t.places.drop k }

/-! ### Ending a task (R34, R200, R370) -/

/-- The first cause that ends a task stays its status; its threads stop at their boundary (R370). -/
def endTask (id status : Nat) (s : State) : State :=
  match lookup id s.tasks with
  | none => s
  | some t =>
    match t.stage with
    | .ending _ => s
    | _ =>
      (s.onTask id fun t => { t with stage := .ending status, live := [] }).onThreads (fun u => u.live && u.taskid = id)
        fun u => { u with run := .draining, waiting := true }

/-- The task in focus ends with a status; a context without a task stops (log 9). -/
def endHere (status : Nat) (s : State) : State :=
  endTask s.th.taskid status { s with th := { s.th with run := .draining, waiting := true } }

/-- The status with which cancellation ends a task: DIE_LOST when that is its scope's cause (R366). -/
def cancelStatus (s : State) (scope : Nat) : Nat :=
  match lookup scope s.scopes with
  | some r => if r.cause = statusDieLost then statusDieLost else statusCancelled
  | none => statusCancelled

/-- One thread of a task ends, by cancellation with a status or through `done`; where it is the last, a task that cancellation touched
ends with the first such status (R203, R231, R366, R370). -/
def endThread (num id : Nat) (killed : Option Nat) (s : State) : State :=
  match lookup id s.tasks with
  | none => s
  | some k =>
    let live := k.live.filter fun n => n ≠ num
    let status := match lookup 3 k.record with | some st => some st | none => killed
    let s := s.onTask id fun k => { k with live := live, record := match status with | some st => insert 3 st k.record | none => k.record }
    match status with
    | some st => if live.isEmpty then endTask id st s else s
    | none => s

/-- The thread in focus ends by cancellation with a status. -/
def killWith (status : Nat) (s : State) : State :=
  endThread s.th.num s.th.taskid (some status) { s with th := { s.th with run := .draining, waiting := true } }

/-- The thread in focus ends by cancellation, with the status of its scope's cause (R366, R369). -/
def killHere (s : State) : State :=
  killWith (match lookup s.th.taskid s.tasks with | some k => cancelStatus s k.scope | none => statusCancelled) s

/-! ### Trap entry and return (R33, R34, R37) -/

/-- `TakeTrap` (R33): the one trap entry of the machine. A trap while TIP is set is a double trap (R34). Entry drops the
reservation (R257), and EPC bits 1:0 are zero (R27); MESSAGE LOST, REMOTE_REJECT and EXCH_OVER clear the counts they report (R223, R336). -/
def takeTrap (cls sub : Nat) (addr : Word) (s : State) : State :=
  if trapInProgress s.th.status then endHere statusDoubleTrap s
  else
    { s with th := { s.th with
        epc := s.th.pc &&& 0xFFFFFFFFFFFFFFFC
        cause := BitVec.ofNat 64 (256 * cls + sub)
        eaddr := addr
        status := statusAtTrap s.th.status s.th.lvl
        pc := s.th.tvec + BitVec.ofNat 64 (64 * cls)
        trapped := true
        waiting := false
        micro := 0
        level := 0
        kept := none
        resv := none
        lost := if cls = clsMessage then 0 else s.th.lost
        rerr := if cls = clsRemoteReject then false else s.th.rerr
        derr := if cls = clsRemoteReject then false else s.th.derr
        refused := if cls = clsRemoteReject then 0 else s.th.refused
        exch := if cls = clsExchOver then { s.th.exch with beyond := 0 } else s.th.exch } }

/-- A taken transfer of control. After an acquire it also forgets the words the thread had fetched ahead (R53). -/
def State.jump (s : State) (target : Word) : State :=
  { s with th := { s.th with
      pc := target
      icache := if s.th.acquired then [] else s.th.icache
      acquired := false } }

/-- Trap return through `tret` (R37): a level that does not match clears TIP and takes LOOP UNBALANCED. The first return
to user mode after a thread has observed cancellation enters its cancel handler (R368, R369). -/
def trapReturn (s : State) : State :=
  if s.th.lvl ≠ trapLevel s.th.status then
    takeTrap clsLoop 2 0 { s with th := { s.th with status := s.th.status &&& 0xFFFFFFFFFFFFFFEF } }
  else { s with th := { s.th with
    status := statusAtReturn s.th.status
    inHandler := s.th.inHandler || (s.th.observed && !s.th.status.getLsbD 1) } }.jump s.th.epc

/-! ### How an instruction ends -/

/-- Why an instruction does not complete: it traps, it waits with no effect (R98), it blocks in a way a cancel handler may
not (R369), it waits in a state of its own or after a change to the state before it, or its access ends the task (R200, R245,
R249). -/
inductive Stop where
  | trap (cls sub : Nat) (addr : Word)
  | wait
  | block
  | waitIn (s : State)
  | waitAfter (change : State → State)
  | endTask (status : Nat)

/-- A computation of an instruction's effect. -/
abbrev Run (α : Type) := Except Stop α

/-- A trap unless the condition holds. -/
def require (ok : Bool) (cls sub : Nat) (addr : Word := 0) : Run Unit :=
  if ok then .ok () else .error (.trap cls sub addr)

/-- A wait unless the condition holds. -/
def await (ok : Bool) : Run Unit := if ok then .ok () else .error .wait

/-- A blocking wait unless the condition holds, of a kind that ends a task in its cancel handler (R369). -/
def blockUntil (ok : Bool) : Run Unit := if ok then .ok () else .error .block

/-- The thread stands still and executes the instruction again when it issues next (R98). -/
def State.waitHere (s : State) : State := { s with th := { s.th with waiting := true } }

/-- The next state of an instruction: its effect whole, or a trap, a wait or a task's end from the state before it, so
that traps are precise (R33). -/
def finishRun (s : State) (r : Run State) : Host.Outcome State Fault Refusal :=
  match r with
  | .ok s' => .next s'
  | .error (.trap cls sub addr) => .next (takeTrap cls sub addr s)
  | .error .wait => .next s.waitHere
  | .error .block => .next (if s.th.inHandler then killHere s else s.waitHere)
  | .error (.waitIn s') => .next s'.waitHere
  | .error (.waitAfter change) => .next (change s).waitHere
  | .error (.endTask status) => .next (endHere status s)

/-! ### Checks that depend on the core and the mode (R69 checks 7 and 8, R70, R71, R284) -/

/-- A core that reports MATRIX and SPARSE: core 3 of a tile (R30). -/
def State.hasMatrix (s : State) : Bool := coreOf s.th.num % 4 = 3

/-- ILL FEATURE on a core that does not report the matrix features (R70). -/
def needMatrix (s : State) : Run Unit := require s.hasMatrix clsIll illFeature
/-- PRIV INSTR in user mode (R71). -/
def needSupervisor (s : State) : Run Unit := require (isSupervisor s.th.status) clsPriv 0
/-- ENGINE OWNER for an operation from a core that may not issue it (R284). -/
def needCore (core : Nat) (s : State) : Run Unit := require (coreOf s.th.num % 4 = core) clsEngine 0x10

end Sys2Proof.Machine
end

