-- ==== Sys2Proof/Machine/Translate.lean ====
section
/-! DEFINITION. Physical memory, translation, leases, objects and where a line's homes are (R242 to R254, R396). -/

namespace Sys2Proof.Machine

/-! ### Physical bytes (R244). An unlisted byte reads as zero. [DESIGN CHOICE, log 10] -/

/-- What a physical byte that nothing has written reads as. -/
def Memory.unlisted : Byte := 0

/-- One physical byte. -/
def readByte (m : List Host.Cell) (pa : Nat) : Byte := (lookup pa m).getD Memory.unlisted

/-- One physical byte written; the list keeps its canonical form. -/
def writeByte (m : List Host.Cell) (pa : Nat) (b : Byte) : List Host.Cell :=
  if b = Memory.unlisted then remove pa m else insert pa b m

/-- `n` bytes from an address up. -/
def readBytes (m : List Host.Cell) (pa : Nat) : Nat → List Byte
  | 0 => []
  | n + 1 => readByte m pa :: readBytes m (pa + 1) n

/-- Bytes written from an address up. -/
def writeBytes (m : List Host.Cell) (pa : Nat) : List Byte → List Host.Cell
  | [] => m
  | b :: rest => writeBytes (writeByte m pa b) (pa + 1) rest

/-- The canonical form: keys rise and no listed byte equals what an unlisted one reads as. -/
def Memory.wf (m : List Host.Cell) : Bool := risingKeys m && m.all fun c => c.2 ≠ Memory.unlisted

/-- A little-endian word of `n` bytes (R7). -/
def readNat (m : List Host.Cell) (pa n : Nat) : Nat := natOfBytes (readBytes m pa n)

/-! ### Address ranges (R244, R396) -/

/-- The HBM range of a stack: its first 80 GiB (R244). -/
def isLocal (pa : Nat) : Bool := pa < 2 ^ 40 && pa % 2 ^ 37 < 85899345920

/-- The physical address a domain address stands for on this device (R396): its own range is its local memory; another
device's must be in the domain. -/
def resolvePhys (s : State) (pa : Nat) : Option Nat :=
  if isLocal pa then some pa
  else if 2 ^ 46 ≤ pa ∧ pa < 2 ^ 47 then
    let n := (pa - 2 ^ 46) / 2 ^ 40
    let off := pa % 2 ^ 40
    if n = s.fab.device then (if isLocal off then some off else none)
    else if (lookup n s.fab.conns).isSome then some pa else none
  else none

/-- Whether a physical address is homed on another device (R396). -/
def isRemote (pa : Nat) : Bool := 2 ^ 46 ≤ pa && pa < 2 ^ 47
/-- Whether a physical address lies in the Welt register space (R411). -/
def isWelt (pa : Nat) : Bool := 2 ^ 51 ≤ pa
/-- The device that homes a remote address. -/
def remoteDevice (pa : Nat) : Nat := (pa - 2 ^ 46) / 2 ^ 40

/-! ### The walk (R247, R248) -/

/-- What a walk answers. -/
inductive Walk where
  | absent
  | bad
  | page (pa : Nat) (base size : Nat) (rd wr ex moving : Bool)
  deriving DecidableEq, Repr

/-- The index of `va` in the table of a level (R248). -/
def walkIndex (lvl va : Nat) : Nat :=
  match lvl with
  | 1 => bits va 55 48
  | 2 => bits va 47 39
  | 3 => bits va 38 30
  | 4 => bits va 29 21
  | _ => bits va 20 16

/-- The size of a table: 256, 512 or 32 entries of 8 bytes (R247). -/
def tableSize (lvl : Nat) : Nat := if lvl = 1 then 2048 else if lvl = 5 then 256 else 4096
/-- The page size of a leaf at a level (R248). -/
def leafSize (lvl : Nat) : Nat := if lvl = 3 then 2 ^ 30 else if lvl = 4 then 2 ^ 21 else 2 ^ 16

/-- The levels of `Walk` from one down; the number after the addresses counts the levels left (R248). A page of the Welt register space
is one in the Laster's address space alone (R411). -/
def walkFrom (s : State) (asid va : Nat) : Nat → Nat → Walk
  | 0, _ => .bad
  | f + 1, t =>
    let lvl := 5 - f
    let e := readNat s.mem.dram (t + 8 * walkIndex lvl va) 8
    let flags := bits e 7 3
    if e % 2 = 0 then .absent
    else if bits e 63 52 ≠ 0 ∨ bits e 6 6 ≠ 0 ∨ bits e 2 2 ≠ 0 then .bad
    else if bits e 1 1 = 1 then
      if lvl < 3 then .bad
      else
        let base := bits e 51 8 * 256
        if base % leafSize lvl ≠ 0 then .bad
        else
          let page (b : Nat) : Walk :=
            .page (b + va % leafSize lvl) b (leafSize lvl) (bits e 3 3 = 1) (bits e 4 4 = 1) (bits e 5 5 = 1) (bits e 7 7 = 1)
          match resolvePhys s base with
          | some b => page b
          | none => if isWelt base && asid = Config.lasterSpace then page base else .bad
    else if lvl = 5 ∨ flags ≠ 0 then .bad
    else
      let next := bits e 51 8 * 256
      if next % tableSize (lvl + 1) ≠ 0 then .bad else walkFrom s asid va f next

/-- `Walk(asid, va)` (R248). The root register's bit 0 is V (R412); an address space without one walks ABSENT. -/
def walk (s : State) (asid va : Nat) : Walk :=
  let root := ((lookup asid s.welt.roots).getD 0).toNat
  if 2 ^ 56 ≤ va ∨ root % 2 = 0 then .absent else walkFrom s asid va 5 (bits root 51 11 * 2048)

/-- The physical addresses of the table entries that a walk reads, the first argument counting the levels left (R248, R252). -/
def walkEntries (s : State) (va : Nat) : Nat → Nat → List Nat
  | 0, _ => []
  | f + 1, t =>
    let at' := t + 8 * walkIndex (5 - f) va
    let e := readNat s.mem.dram at' 8
    if e % 4 = 1 then at' :: walkEntries s va f (bits e 51 8 * 256) else [at']

/-- The lines of HBM that the walk of an address reads. -/
def walkLines (s : State) (asid va : Nat) : List Nat :=
  let root := ((lookup asid s.welt.roots).getD 0).toNat
  if 2 ^ 56 ≤ va ∨ root % 2 = 0 then []
  else (((walkEntries s va 5 (bits root 51 11 * 2048)).filter isLocal).map fun a => a / 128).eraseDups

/-- Whether a shoot-down has met the page of an address moving, and none has met it settled since (R251). -/
def isOnTheMove (s : State) (asid va : Nat) : Bool :=
  s.mem.moving.any fun m => m.asid = asid && m.base ≤ va && va < m.base + m.size

/-! ### Segments, ways and sets (R236, R240 to R242) -/

/-- The segments of a core that partitions hold, those of pre-empted contexts among them (R236, R237). -/
def heldSegments (s : State) (core : Nat) : List Nat :=
  (s.th :: s.others ++ s.parked).flatMap fun t =>
    if coreOf t.num = core ∧ !t.evicted then (List.range t.segCount).map fun i => t.segBase + i else []

/-- The ways of a core's L1: its segments that no partition holds (R236). -/
def l1Ways (s : State) (core : Nat) : List Nat :=
  let held := heldSegments s core
  (List.range 40).filter fun w => !held.contains w

/-- A shoot-down of a page: every unit drops what covers it (R348). -/
def shootDown (asid va : Nat) (s : State) : State :=
  { s with mem := { s.mem with tlb := s.mem.tlb.filter fun e =>
      !(e.asid = asid && e.vbase ≤ va && va < e.vbase + e.size) } }

/-! ### Homes (R241, R242) -/

/-- The five-bit fold that picks a slice (R242). -/
def sliceIndex (va : Nat) : Nat := bits va 11 7 ^^^ bits va 16 12 ^^^ bits va 21 17
/-- The tile whose slice is the cluster home of a line (R242). -/
def homeTile (cluster va : Nat) : Nat := tileOfCluster cluster (sliceIndex va)

/-- Whether a cluster runs fused (R241). -/
def isFused (s : State) (cluster : Nat) : Bool := s.mem.fused.any fun x => x.1 = cluster

/-- The core whose L1 holds a line for a thread's core: its own, or the holding core of a fused cluster (R241). -/
def l1Core (s : State) (core va : Nat) : Nat :=
  let c := clusterOfCore core
  if isFused s c then
    let i := bits va 13 7 ^^^ bits va 20 14
    4 * tileOfCluster c (i / 4) + i % 4
  else core

/-- The set of a line in a core's L1: VA bits 12:7, in a fused cluster VA bits 26:21 (R240, R241). -/
def l1Set (s : State) (core va : Nat) : Nat :=
  if isFused s (clusterOfCore core) then bits va 26 21 else bits va 12 7
/-- The set of a line in its slice, one of 128: the spec gives their number and not the bits [DESIGN CHOICE, log 80]. -/
def sliceSet (va : Nat) : Nat := bits va 18 12
/-- The bank of a line and its set there, as one number: the stack, PA bits 10:7, and one of the 16,384 sets that 32 MiB in 16 ways
give (R6, R243); which bits name the set the spec does not say [DESIGN CHOICE, log 80]. -/
def bankSet (line : Nat) : Nat := (line / 2 ^ 30 * 16 + line % 16) * 16384 + line / 16 % 16384

/-! ### Objects (R253, R254) -/

/-- Whether an object covers an address (R253). -/
def ObjRec.covers (o : ObjRec) (asid va : Nat) : Bool :=
  o.asid = asid && o.base ≤ va &&
    (if o.rows = 1 then va < o.base + o.rowbytes
     else (va - o.base) / o.pitch < o.rows && (va - o.base) % o.pitch < o.rowbytes)

/-- The object that holds an address, if any. -/
def objectAt (s : State) (asid va : Nat) : Option ObjRec :=
  (s.mem.objects.find? fun x => x.2.covers asid va).map fun x => x.2

/-- The device that homes an address, where it is another one (R396). -/
def farAt (s : State) (asid va : Nat) : Option Nat :=
  match walk s asid va with | .page pa _ _ _ _ _ _ => if isRemote pa then some (remoteDevice pa) else none | _ => none
/-- Whether an address is homed on another device (R396). -/
def isFar (s : State) (asid va : Nat) : Bool := (farAt s asid va).isSome

/-- The class of an address: 0 private, 1 cluster-shared, 2 device-shared, also where no object lies, for lines of another device's
memory and in the Welt register space, 3 read-only (R253, R396, R412). -/
def classAt (s : State) (asid va : Nat) : Nat :=
  match objectAt s asid va with
  | some o => match walk s asid va with
    | .page pa _ _ _ _ _ _ => if isRemote pa || isWelt pa then 2 else o.cls
    | _ => o.cls
  | none => 2

/-- Whether a core may make an access of the class (R254). -/
def objectAllows (s : State) (core asid va : Nat) (writes : Bool) : Bool :=
  match objectAt s asid va with
  | none => true
  | some o =>
    match o.cls with
    | 0 => o.owner = core
    | 1 => o.owner = clusterOfCore core
    | 3 => !writes
    | _ => true

/-- The home of a watched line: the tile of its cluster home, or 2,048 plus its bank (R243, R254). The spec gives no home to a line
whose page is not mapped, which takes a bank of stack 0 by its virtual address, nor a way to watch a line of another device, whose
watch takes a bank by the line's physical address and matches nothing. [DESIGN CHOICE, log 85] -/
def watchPlace (s : State) (asid va : Nat) : Nat :=
  match objectAt s asid va with
  | some o => if classAt s asid va = 0 then homeTile (clusterOfCore o.owner) va
    else if classAt s asid va = 1 then homeTile o.owner va else bank
  | none => bank
where
  /-- The bank of a line. -/
  bank : Nat := match walk s asid va with
    | .page pa _ _ _ _ _ _ => 2048 + pa / 2 ^ 37 % 8 * 16 + bits pa 10 7
    | _ => 2048 + bits va 10 7

/-- Watches on the lines of an address space moved to the homes of their present class and place (R251, R263). -/
def moveWatches (asid : Nat) (s : State) : State :=
  { s with mem := { s.mem with watches := s.mem.watches.map fun w =>
      if w.2.asid = asid then (w.1, { w.2 with home := watchPlace s asid w.2.addr }) else w } }

/-! ### Leases (R191, R200, R250, R342) -/

/-- The leased ranges of a task, without its streaming windows (R342). -/
def leaseRanges (t : Task) : List (Nat × Nat) := t.leases.filter fun r => r.1 < 2 ^ 63
/-- The streaming windows of a task (R342). -/
def streamWindows (t : Task) : List (Nat × Nat) :=
  (t.leases.filter fun r => 2 ^ 63 ≤ r.1).map fun r => (r.1 % 2 ^ 56, r.2)

/-- Whether `n` bytes lie in one of the ranges. -/
def inRanges (rs : List (Nat × Nat)) (va n : Nat) : Bool := rs.any fun r => r.1 ≤ va && va + n ≤ r.1 + r.2

/-- Whether a thread's access passes the lease check made at issue (R250): every byte below 2⁵⁶, and inside the list when
the card has one. A context without a task has no lease to break (log 9). -/
def leaseAllows (s : State) (t : Thread) (va n : Nat) : Bool :=
  va + n ≤ 2 ^ 56 &&
    match s.taskOf t with
    | some k => !k.leased || (List.range n).all fun i => inRanges (leaseRanges k) (va + i) 1
    | none => true

/-- Whether a range of virtual bytes lies, page by page, on one of the physical bytes of an access. -/
def liesOn (s : State) (asid lo size pa n : Nat) : Bool :=
  (List.range ((lo % 65536 + size + 65535) / 65536)).any fun i =>
    let a := max lo ((lo / 65536 + i) * 65536)
    let b := min (lo + size) ((lo / 65536 + i + 1) * 65536)
    match walk s asid a with
    | .page q _ _ _ _ _ _ => q < pa + n && pa < q + (b - a)
    | _ => false

/-- Whether a protection of a mode covers a physical byte of an access (R304). -/
def protectsPhys (s : State) (mode pa n : Nat) : Bool :=
  s.mem.prots.any fun p => p.mode = mode && p.ranges.any fun r => liesOn s p.asid r.1 r.2 pa n

/-- Whether a write to physical bytes stalls at their bank: a draining protection or a draining mark (R304, R309). -/
def stallsPhys (s : State) (pa n : Nat) : Bool :=
  protectsPhys s 2 pa n || s.mem.drains.any fun d => liesOn s d.asid (16 * d.granule) 16 pa n

/-- Whether a protection of a mode covers a byte of an access (R304), which may also reach it by another address or from another address
space (R240). -/
def protectedBy (s : State) (mode asid va n : Nat) : Bool :=
  s.mem.prots.any (fun p => p.mode = mode && p.asid = asid && p.ranges.any fun r => r.1 < va + n && va < r.1 + r.2) ||
    s.mem.prots.any fun p => p.mode = mode && match walk s asid va with
      | .page pa _ _ _ _ _ _ => p.ranges.any fun r => liesOn s p.asid r.1 r.2 pa n
      | _ => false

/-- Whether a write to the bytes stalls at the home: a draining protection or a draining mark (R304, R309), met by whichever address. -/
def writeStalls (s : State) (asid va n : Nat) : Bool :=
  protectedBy s 2 asid va n ||
    s.mem.drains.any (fun d => d.asid = asid && 16 * d.granule < va + n && va < 16 * d.granule + 16) ||
    s.mem.drains.any fun d => match walk s asid va with
      | .page pa _ _ _ _ _ _ => liesOn s d.asid (16 * d.granule) 16 pa n
      | _ => false

end Sys2Proof.Machine
end

