-- ==== Sys2Proof/Machine/Welt.lean ====
section
/-! DEFINITION. How the Welt register space reads (R406, R411, R412), and the addresses of the Laster's address space that lie in it. -/

namespace Sys2Proof.Machine

/-- The free pages of the overflow pool (R412): those that no context holds. -/
def freePages (s : State) : Nat :=
  s.welt.poolpages.toNat - (((s.th :: s.others) ++ s.parked).map Thread.pages).foldl (· + ·) 0

/-- A register of the snapshot block (R406). -/
def snapshotRegister (s : State) (off : Nat) : Word :=
  let b := off / 8
  let get (k : Nat) (xs : List (Nat × Nat)) : Word := BitVec.ofNat 64 ((lookup k xs).getD 0)
  if off % 8 ≠ 0 then 0
  else if off = 0 then BitVec.ofNat 64 s.snap.seq
  else if off = 8 then BitVec.ofNat 64 s.snap.time
  else if 0x1000 ≤ off ∧ off < 0x9000 then get (b - 0x200) s.snap.retired
  else if 0x9000 ≤ off ∧ off < 0x29000 then get (b - 0x1200) s.snap.issued
  else if 0x29000 ≤ off ∧ off < 0x290F0 then get (b - 0x5200) s.snap.bytes
  else 0

/-- A die block's register as it reads. -/
def dieRegister (d : DieRec) (off : Nat) : Word :=
  match off with
  | 0x000 => (if d.live then 4 else 0) + if d.ftm then 8 else 0
  | 0x008 => d.tvec
  | 0x010 => d.frbase
  | 0x018 => d.frslots
  | 0x020 => d.frhead
  | 0x028 => d.frtail
  | 0x030 => d.super
  | 0x038 => d.fault
  | 0x040 => d.lwbase
  | 0x048 => BitVec.ofNat 64 d.lwcount
  | 0x050 => BitVec.ofNat 64 d.discard
  | n => if 0x100 ≤ n ∧ n < 0x500 ∧ n % 16 = 0 then (lookup ((n - 0x100) / 16) d.nodes).getD 0 else 0

/-- A register of the Welt space as it reads (R412). -/
def weltRegister (s : State) (off : Nat) : Word :=
  if off % 8 ≠ 0 then 0
  else if off = 0 then 0x0200
  else if off = 0x08 then BitVec.ofNat 64 s.time
  else if off = 0x10 then (if s.welt.run then 1 else 0) + if s.welt.ready then 2 else 0
  else if off = 0x18 then s.welt.scopebase
  else if off = 0x20 then s.welt.hotbase
  else if off = 0x28 then s.welt.poolbase
  else if off = 0x30 then s.welt.poolpages
  else if off = 0x38 then BitVec.ofNat 64 (freePages s)
  else if 0x80 ≤ off ∧ off < 0x100 then (lookup ((off - 0x80) / 8) s.welt.qroot).getD 0
  else if 0x01000000 ≤ off ∧ off < 0x01080000 then (lookup ((off - 0x01000000) / 8) s.welt.roots).getD 0
  else if 0x02000000 ≤ off ∧ off < 0x02800000 then
    dieRegister ((s.dies[(off - 0x02000000) / 0x100000]?).getD {}) ((off - 0x02000000) % 0x100000)
  else if 0x04000000 ≤ off ∧ off < 0x04010000 then
    let r := (lookup ((off - 0x04000000) / 64) s.eng.tiles).getD {}
    match off % 64 with
    | 0 => if r.retired then 1 else 0
    | 8 => BitVec.ofNat 64 (r.retry + 65536 * r.health)
    | 16 => BitVec.ofNat 64 r.multihit
    | _ => 0
  else if 0x05000000 ≤ off ∧ off < 0x05100000 then snapshotRegister s (off - 0x05000000)
  else 0

/-! ### The Laster's address space (R411) -/

/-- The offset in the Welt register space of an address that its page maps there. -/
def weltAt (s : State) (asid va : Nat) : Option Nat :=
  match walk s asid va with | .page pa _ _ _ _ _ _ => if isWelt pa then some (pa - 2 ^ 51) else none | _ => none

/-- The words of an access to the Welt register space, from the registers that hold them. -/
def weltWords (s : State) (off n : Nat) : List Lane :=
  (List.range ((off % 4 + n + 3) / 4)).map fun i =>
    let a := off / 4 * 4 + 4 * i
    BitVec.ofNat 32 ((weltRegister s (a / 8 * 8)).toNat / 2 ^ (8 * (a % 8)))

/-- A register of the Welt space that an access writes whole; one that writes less than a register has no effect. The write is made at
the end of the step [DESIGN CHOICE, log 99]. -/
def weltWrite (off n x : Nat) (s : State) : State :=
  if n = 8 then { s with welt := { s.welt with writes := s.welt.writes ++ [(off, BitVec.ofNat 64 x)] } } else s

end Sys2Proof.Machine
end

