-- ==== Sys2Proof/Machine/Cache.lean ====
section
/-! DEFINITION. The levels of the memory system (R236 to R246, R252, R265 to R268, R391 to R394): words of the L1s and the
slices, the banks and their directory, publishes with their dependencies, write-back and eviction, the room each level has,
forced publishes and translation. -/

namespace Sys2Proof.Machine

/-- Who makes an access: a thread or what it posted. The core it runs on, its slot, its address space and task, and its TOPINF
(R122). -/
structure Agent where
  core : Nat
  num : Nat
  asid : Nat
  task : Nat
  topinf : Bool
  deriving DecidableEq, Repr

/-- A thread as the agent of its access. -/
def Thread.agent (t : Thread) : Agent := ⟨coreOf t.num, t.num, t.asid, t.taskid, topinfOf t.fmode⟩
/-- A posted operation as the agent of its access. -/
def Posted.agent (p : Posted) : Agent := ⟨p.core, p.thread, p.asid, p.taskid, p.topinf⟩
/-- The cluster of an agent. -/
def Agent.cluster (a : Agent) : Nat := clusterOfCore a.core
/-- The tile of an agent. -/
def Agent.tile (a : Agent) : Nat := tileOfCore a.core

/-- A change to the memory system. -/
def State.onMem (s : State) (f : Mem → Mem) : State := { s with mem := f s.mem }
/-- A change to the engines. -/
def State.onEng (s : State) (f : Eng → Eng) : State := { s with eng := f s.eng }
/-- A change to the fabric. -/
def State.onFab (s : State) (f : Fabric → Fabric) : State := { s with fab := f s.fab }

/-! ### Words of an access -/

/-- The words that `n` bytes at an address touch, by word number. -/
def wordsOf (va n : Nat) : List Nat := (List.range ((va % 4 + n + 3) / 4)).map fun i => va / 4 + i

/-- Words as one number, the first lowest (R7). -/
def natOfLanes : List Lane → Nat
  | [] => 0
  | x :: xs => x.toNat + 4294967296 * natOfLanes xs

/-- The value of `n` bytes at an address, from the words it touches. -/
def cutBytes (va n : Nat) (ws : List Lane) : Nat := natOfLanes ws / 2 ^ (8 * (va % 4)) % 2 ^ (8 * n)

/-- A word with the bytes that `n` bytes `x` at `va` cover replaced. -/
def mergeWord (va n x wa : Nat) (old : Lane) : Lane :=
  BitVec.ofNat 32 (natOfBytes ((List.range 4).map fun k =>
    let a := 4 * wa + k
    if va ≤ a ∧ a < va + n then BitVec.ofNat 8 (x / 2 ^ (8 * (a - va))) else BitVec.ofNat 8 (old.toNat / 2 ^ (8 * k))))

/-- The words of a line of 128 bytes, by word number (R240). -/
def lineWords (wa : Nat) : List Nat := (List.range 32).map fun i => wa / 32 * 32 + i

/-- The 8-byte blocks of a line, by the number of their first word: what one access may take as a whole (R256). -/
def lineBlocks (wa : Nat) : List Nat := (List.range 16).map fun i => wa / 32 * 32 + 2 * i

/-! ### L1 words (R240) -/

/-- A valid word of an L1. -/
def l1Find (s : State) (core asid wa : Nat) : Option L1Word :=
  s.mem.l1.find? fun w => w.core = core && w.asid = asid && w.wa = wa

/-- The L1 words that stay. -/
def l1Keep (keep : L1Word → Bool) (s : State) : State := s.onMem fun m => { m with l1 := m.l1.filter keep }
/-- A change to every L1 word of a place. -/
def l1Change (core asid wa : Nat) (f : L1Word → L1Word) (s : State) : State :=
  s.onMem fun m => { m with l1 := m.l1.map fun w => if w.core = core && w.asid = asid && w.wa = wa then f w else w }
/-- A word put in its L1. -/
def l1Put (w : L1Word) (s : State) : State :=
  s.onMem fun m =>
    { m with l1 := w :: m.l1.filter fun x => !(x.core = w.core && x.asid = w.asid && x.wa = w.wa) }
/-- A word dropped from an L1. -/
def l1Drop (core asid wa : Nat) (s : State) : State :=
  l1Keep (fun x => !(x.core = core && x.asid = asid && x.wa = wa)) s

/-! ### Words of a cluster home (R242) -/

/-- What a cluster home holds of a word. -/
def homeFind (s : State) (cluster asid wa : Nat) : Option SliceWord :=
  s.mem.slices.find? fun w => w.cluster = cluster && w.asid = asid && w.wa = wa
/-- The slice words that stay. -/
def homeKeep (keep : SliceWord → Bool) (s : State) : State :=
  s.onMem fun m => { m with slices := m.slices.filter keep }
/-- A word put in its home. -/
def homePut (w : SliceWord) (s : State) : State :=
  s.onMem fun m =>
    { m with slices := w :: m.slices.filter fun x => !(x.cluster = w.cluster && x.asid = w.asid && x.wa = w.wa) }
/-- The record of a word at its home, one that holds nothing where there is none. -/
def homeGet (s : State) (cluster asid wa : Nat) : SliceWord :=
  (homeFind s cluster asid wa).getD
    { cluster := cluster, asid := asid, wa := wa, val := none, dirty := false, narrow := false, stale := false
      owner := none, pw := none }

/-! ### Reservations (R257) and their loss -/

/-- Whether an 8-byte block overlaps `n` bytes at an address. -/
def blockMeets (block a n : Nat) : Bool := 8 * block < a + n && a < 8 * block + 8

/-- The reservations that a test names are lost. -/
def dropResv (p : Thread → Resv → Bool) (s : State) : State :=
  s.onThreads (fun t => match t.resv with | some r => p t r | none => false) fun t => { t with resv := none }

/-- A write in an L1 drops the reservations held there (R257). -/
def breakAtL1 (core asid va n : Nat) (s : State) : State :=
  dropResv (fun t r => r.scope = 1 && t.asid = asid && l1Core s (coreOf t.num) r.addr = core && blockMeets (r.addr / 8) va n) s
/-- A write at a cluster home drops the reservations held there. -/
def breakAtHome (cluster asid va n : Nat) (s : State) : State :=
  dropResv (fun t r => r.scope = 3 && t.asid = asid && clusterOfCore (coreOf t.num) = cluster && blockMeets (r.addr / 8) va n) s
/-- A write at a bank drops the reservations held there, those of other devices included. -/
def breakAtBank (pa n : Nat) (s : State) : State :=
  (dropResv (fun _ r => match r.phys with | some b => 5 ≤ r.scope && blockMeets b pa n | none => false) s).onFab fun f =>
    { f with conns := f.conns.map fun c => (c.1, { c.2 with resvs := c.2.resvs.filter fun r => !blockMeets (r.2 / 128) pa n }) }

/-! ### The banks (R243, R245, R391) -/

/-- What a bank holds of a physical word. -/
def bankWord (s : State) (pw : Nat) : Lane := BitVec.ofNat 32 (readNat s.mem.dram (4 * pw) 4)
/-- Whether a physical word is poisoned (R245). -/
def isPoisoned (s : State) (pw : Nat) : Bool := s.mem.poison.contains pw

/-- The directory entry of a line. -/
def llcLine (s : State) (line : Nat) : LlcLine := (lookup line s.mem.llc).getD {}
/-- A change to a directory entry; a line that an access reaches is in the bank from then on. -/
def onLlc (line : Nat) (f : LlcLine → LlcLine) (s : State) : State :=
  s.onMem fun m => { m with llc := insert line (f ((lookup line m.llc).getD {})) m.llc }

/-- The PRESENT bit of a cluster set for a line; a new registration of the cluster gets the next sequence number (R243). -/
def setPresent (cluster line : Nat) (s : State) : State :=
  onLlc line (fun l =>
    if l.present.getLsbD cluster then l
    else { l with present := l.present ||| bit32 cluster, seqs := insert cluster ((lookup cluster l.seqs).getD 0 + 1) l.seqs }) s

/-- A 64-bit counter of a list of counters advanced. -/
def countUp (k n : Nat) (xs : List (Nat × Nat)) : List (Nat × Nat) := insert k ((lookup k xs).getD 0 + n) xs

/-- Bytes counted on an HBM stack, a port or the host link (R405). -/
def countBytes (key n : Nat) (s : State) : State :=
  { s with snap := { s.snap with liveBytes := countUp key n s.snap.liveBytes } }

/-- The ports that are up. -/
def livePorts (s : State) : List Nat := (List.range 6).filter fun p => (s.fab.ports[p]?).getD false

/-- A fabric packet counted on one of the live ports, header and CRC included; which port it takes the spec leaves open (R398,
R399). [DESIGN CHOICE, log 42] -/
def countPacket (received : Bool) (payload : Nat) (s : State) : State :=
  let ps := livePorts s
  match ps[Config.placement s.fresh % ps.length]? with
  | some p => countBytes (16 + 2 * p + if received then 1 else 0) (36 + payload) s
  | none => s

/-- A sequence number is at least another, modulo 2³² (R393). -/
def seqGe (a b : Nat) : Bool := (a + 4294967296 - b % 4294967296) % 4294967296 < 2147483648

/-- The later of two sequence numbers. -/
def seqMax (a b : Nat) : Nat := if seqGe a b then a else b

/-- A read of a line by a die is a dependency of the die's later publishes (R391). -/
def noteRead (die line : Nat) (s : State) : State :=
  match lookup line s.mem.lastPub with
  | none => s
  | some (d, seq) =>
    if d = die then s
    else s.onMem fun m => { m with depV := onVec m.depV die fun v => onVec v d fun x => seqMax seq x }

/-- Whether the dependencies of a publish of a die are met (R392). -/
def depsMet (s : State) (die : Nat) (deps : List Nat) : Bool :=
  (deps.zip (List.range 8)).all fun x => x.2 = die || seqGe ((s.mem.summary[x.2]?).getD 0) x.1

/-- The applied summary of a die after applied publishes are taken in order; the first argument bounds the search. -/
def advanceApplied (die : Nat) : Nat → List (Nat × Nat) → Nat → Nat × List (Nat × Nat)
  | 0, out, n => (n, out)
  | f + 1, out, n =>
    let k := (n + 1) % 4294967296
    if out.contains (die, k) then advanceApplied die f (out.erase (die, k)) k else (n, out)

/-- A publish has been applied (R392), and its die's publish unit is told (R391). -/
def markApplied (die seq : Nat) (s : State) : State :=
  s.onMem fun m =>
    let r := advanceApplied die (m.appliedOut.length + 1) ((die, seq) :: m.appliedOut) ((m.applied[die]?).getD 0)
    { m with
      applied := m.applied.setIfInBounds die r.1
      appliedOut := r.2
      depV := onVec m.depV die fun v => onVec v die fun x => seqMax seq x }

/-- The next publish number of a die and its dependency vector; none while the publish unit stalls (R391, R393). -/
def takeSeq (die : Nat) (s : State) : Option (Nat × List Nat × State) :=
  let n := ((s.mem.pubSeq[die]?).getD 0 + 1) % 4294967296
  if 1073741824 ≤ (n + 4294967296 - (s.mem.applied[die]?).getD 0) % 4294967296 then none
  else some (n, ((s.mem.depV[die]?).map Vector.toList).getD [],
    s.onMem fun m => { m with pubSeq := m.pubSeq.setIfInBounds die n })

/-! ### Watches (R232, R233) -/

/-- The words a watch covers, by address. -/
def WatchRec.addrs (w : WatchRec) : List Nat := (List.range w.words).map fun i => w.addr + 8 * i

/-- One watched word after a write: a match makes one dispatch of the card pending, as long as records are left. -/
def watchMatch (w : WatchRec) (addr : Nat) (value : Word) (s : State) : State :=
  if value &&& w.mask = w.cmp &&& w.mask then
    s.onCard w.card fun c =>
      if c.next + c.watchDeals.length < c.rcount then { c with watchDeals := c.watchDeals ++ [(addr, value.toNat)] } else c
  else s

/-- The watches whose words a write touched, in the order they were armed. `sel` answers a watched word's new value where
the write touched it at the watch's level. -/
def watchWrite (sel : WatchRec → Nat → Option Word) (s : State) : State :=
  s.mem.watches.foldl (fun s w => w.2.addrs.foldl (fun s a =>
    match sel w.2 a with | some v => watchMatch w.2 a v s | none => s) s) s

/-- A write to `n` bytes at a bank, seen by the watches of device-shared and read-only lines; one that is made at the bank itself,
and not a home's write-back, by every watch of the bytes (`all`) [DEDUCED, log 22]. -/
def watchBank (all : Bool) (pa n : Nat) (s : State) : State :=
  if s.mem.watches.isEmpty then s
  else watchWrite (fun w a =>
    if !all && classAt s w.asid a < 2 then none
    else match walk s w.asid a with
      | .page p _ _ _ _ _ _ => if p < pa + n ∧ pa < p + 8 then some (BitVec.ofNat 64 (readNat s.mem.dram p 8)) else none
      | _ => none) s

/-! ### Publishing -/

/-- Words that have been written at their banks, seen by the watches, an 8-byte word once. [DEDUCED, log 22] -/
def watchWords (all : Bool) (pws : List Nat) (s : State) : State :=
  if s.mem.watches.isEmpty then s
  else ((pws.map fun w => w / 2).eraseDups).foldl (fun s k => watchBank all (8 * k) 8 s) s

/-- A word written at its bank: reservations there are lost (R257, R268). -/
def bankPut (w : BankWord) (s : State) : State :=
  let s := s.onMem fun m =>
    { m with
      dram := writeBytes m.dram (4 * w.1) (bytesOf 4 w.2.1.toNat)
      poison := if w.2.2 then insertKey w.1 m.poison else m.poison.filter fun p => p ≠ w.1 }
  breakAtBank (4 * w.1) 4 (onLlc (w.1 / 32) id s)

/-- Words written to their banks by a publish, the last one of their lines from then on (R268, R391). -/
def bankApply (die seq : Nat) (words : List BankWord) (s : State) : State :=
  words.foldl (fun s w => (bankPut w s).onMem fun m => { m with lastPub := insert (w.1 / 32) (die, seq) m.lastPub }) s

/-- A publish made and applied at once; none where it must wait for its dependencies or its number (R392, R393). -/
def publishWords (die : Nat) (words : List BankWord) (s : State) : Option State :=
  if words.isEmpty then some s
  else match takeSeq die s with
    | none => none
    | some (seq, deps, s) =>
      if depsMet s die deps then some (markApplied die seq (bankApply die seq words s)) else none

/-- The newest value of a word at its home that the bank does not have: the registrant's, else the slice's (R256, R267). -/
def homeDirty (s : State) (h : SliceWord) : Option (Lane × Bool) :=
  let own := if h.dirty then h.val.map fun v => (v, h.poison) else none
  match h.owner with
  | none => own
  | some c => match l1Find s c h.asid h.wa with
    | some w => if w.dirty then some (w.val, w.poison) else own
    | none => own

/-- The value a home itself holds and the bank does not have: a registrant's newer value is not held in the slice (R261). -/
def sliceDirty (h : SliceWord) : Option (Lane × Bool) := if h.dirty then h.val.map fun v => (v, h.poison) else none

/-- A home's word after its newest value has been published: clean everywhere (R267). -/
def markPublished (h : SliceWord) (v : Lane) (s : State) : State :=
  let s := homePut { h with val := some v, dirty := false, narrow := false, stale := false } s
  match h.owner with
  | some c => l1Change c h.asid h.wa (fun w => { w with dirty := false, narrow := false }) s
  | none => s

/-- Whether a wide store's publish of a cluster for a line is still on its way; the cluster's later publishes of the line follow it
(R268). -/
def isOnWay (s : State) (cluster line : Nat) : Bool :=
  s.mem.pubs.any fun p => p.cluster = cluster && p.words.any fun w => w.1 / 32 = line

/-- A packet on the connection to a domain device (R398, R399). -/
def fabSend (peer op : Nat) (flags : BitVec 16) (aux : BitVec 32) (tag addr : Nat) (payload : List Byte) (s : State) :
    State × Nat :=
  let c := (lookup peer s.fab.conns).getD {}
  let seq := (c.sendSeq + 1) % 4294967296
  let p : FabPacket :=
    { ver := c.ver, flags := flags, src := s.fab.device, dst := peer, seq := BitVec.ofNat 32 seq
      ack := BitVec.ofNat 32 c.recvSeq, tag := BitVec.ofNat 32 tag, aux := aux, addr := BitVec.ofNat 64 addr
      payload := payload }
  ((countPacket false payload.length s).onFab fun f =>
    { f with
      outbox := f.outbox ++ [(op, p)]
      conns := insert peer { c with sendSeq := seq, owed := false, unacked := c.unacked ++ [⟨op, p, 0⟩] } f.conns }, seq)

/-- Bytes as whole beats of 128 (R399). -/
def beats (bs : List Byte) : List Byte := bs ++ List.replicate ((128 - bs.length % 128) % 128) 0

/-- The FLAGS of a request for `n` bytes: its SIZE code, 7 for whole beats, and bit 3 the issuer's TOPINF (R122, R399). -/
def accessFlags (n : Nat) (topinf : Bool) : Nat :=
  (match n with | 1 => 0 | 2 => 1 | 4 => 2 | 8 => 3 | _ => 7) + if topinf then 8 else 0

/-- Whether the connection to a peer is up (R400). -/
def isPeerUp (s : State) (peer : Nat) : Bool := ((lookup peer s.fab.conns).getD { up := false }).up

/-- Something sent to a peer that a thread or an operation counts until it is acknowledged, under a key of the connection. -/
def countSent (peer key : Nat) (who : Counter) (s : State) : State :=
  s.onFab fun f =>
    { f with conns := f.conns.map fun c => if c.1 = peer then (c.1, { c.2 with stores := c.2.stores ++ [(key, who)] }) else c }

/-- The contexts of a thread of a task, live or pre-empted. -/
def isContext (num id : Nat) (t : Thread) : Bool := t.live && t.num = num && t.taskid = id

/-- A store sent to a remote home; `who` counts it until it is acknowledged (R256, R399). To a peer that is down it leaves a thread's
count at once and sets the thread's remote-error bit (R400). -/
def sendStore (who : Counter) (topinf : Bool) (pa : Nat) (bs : List Byte) (s : State) : State :=
  let peer := remoteDevice pa
  if isPeerUp s peer then
    let r := fabSend peer 0x12 (BitVec.ofNat 16 (accessFlags bs.length topinf)) 0 0 (pa % 2 ^ 40) (beats bs) s
    countSent peer r.2 who r.1
  else match who with
    | .thread num id => s.onThreads (isContext num id) fun u => { u with derr := true, cntDevice := u.cntDevice - 1 }
    | _ => s

/-! ### Writing back (R243, R249, R261, R268, R304) -/

/-- Home words dropped, with the copies of their registrants; the reservations held there are lost (R257). -/
def dropHomes (hs : List SliceWord) (s : State) : State :=
  hs.foldl (fun s h =>
    let s := match h.owner with
      | some c => breakAtL1 c h.asid (4 * h.wa) 4 (l1Drop c h.asid h.wa s)
      | none => s
    breakAtHome h.cluster h.asid (4 * h.wa) 4
      (homeKeep (fun x => !(x.cluster = h.cluster && x.asid = h.asid && x.wa = h.wa)) s)) s

/-- A word dropped from its home whose write-back is refused; the task that wrote it ends (R249, R304). -/
def refuseWord (h : SliceWord) (status : Nat) (s : State) : State :=
  endTask h.task status (dropHomes [h] s)

/-- One word of a home written to its bank, or to its remote home, whose physical word is known: its newest value, or (`own`) what
the slice itself holds. A refused word is dropped; none where the write must wait. -/
def writeKnown (own : Bool) (h : SliceWord) (pw : Nat) (s : State) : Option State :=
  match if own then sliceDirty h else homeDirty s h with
  | none => some s
  | some (v, p) =>
    if writeStalls s h.asid (4 * h.wa) 4 then none
    else if protectedBy s 0 h.asid (4 * h.wa) 4 || protectedBy s 1 h.asid (4 * h.wa) 4 then some (refuseWord h statusRegionProt s)
    else
      let h := { h with pw := some pw }
      let done (s : State) : State :=
        if own && h.owner.isSome then homePut { h with dirty := false } s else markPublished h v s
      if isRemote (4 * pw) then some (done (sendStore .nobody h.topinf (4 * pw) (bytesOf 4 v.toNat) s))
      else if isOnWay s h.cluster (pw / 32) then none
      else (publishWords (h.cluster / 4) [(pw, v, p)] s).map fun s => setPresent h.cluster (pw / 32) (done s)

/-- NARROW bits of a cluster cleared on lines of which it holds no narrow word any more. [DEDUCED, log 31] -/
def clearNarrow (cluster : Nat) (s : State) : State :=
  s.onMem fun m =>
    { m with llc := m.llc.map fun l =>
        if m.slices.any fun h => h.cluster = cluster && h.narrow && h.pw.any fun p => p / 32 = l.1 then l
        else (l.1, { l.2 with narrow := l.2.narrow &&& ~~~ bit32 cluster }) }

/-- The words of a line that a home holds. -/
def lineHomes (s : State) (cluster asid line : Nat) : List SliceWord :=
  s.mem.slices.filter fun h => h.cluster = cluster && h.asid = asid && h.wa / 32 = line

/-- Words that have been written back let go of their line (R242, R243). -/
def leaveSlice (cluster asid line : Nat) (s : State) : State :=
  let hs := lineHomes s cluster asid line
  let left (line : Nat) : Bool := hs.any fun h => h.pw.any fun p => p / 32 = line
  clearNarrow cluster ((dropHomes hs s).onMem fun m =>
    { m with llc := m.llc.map fun l => if left l.1 then (l.1, { l.2 with present := l.2.present &&& ~~~ bit32 cluster }) else l })

/-- The physical words of home words that a write-back sends to a bank. -/
def sentWords (hs : List SliceWord) (s : State) : List Nat :=
  (hs.filter fun h => (homeDirty s h).isSome).filterMap fun h => h.pw

/-- A slice gives up a line whose physical line is known: its dirty words, those registered in L1s among them, go to the bank, and
the copies are dropped. None where a write-back must wait or a publish of the line is on its way. -/
def recallLine (cluster asid line pline : Nat) (s : State) : Option State :=
  if isOnWay s cluster pline then none
  else do
    let hs := (lineHomes s cluster asid line).map fun h => { h with pw := some (32 * pline + h.wa % 32) }
    let s' ← hs.foldlM (fun s h => writeKnown false h (32 * pline + h.wa % 32) s) s
    pure (watchWords false (sentWords hs s) (leaveSlice cluster asid line s'))

/-! ### The room of a bank (R6, R243, R252) -/

/-- A bank gives up a line: every copy is recalled first, dirty bytes go to HBM, and the reservations held there are lost
(R243). None where a recall must wait. [DEDUCED, log 53] -/
def evictBank (line : Nat) (s : State) : Option State := do
  let s ← (s.mem.slices.filter fun h => h.pw.any fun p => p / 32 = line).foldlM
    (fun s h => recallLine h.cluster h.asid (h.wa / 32) line s) s
  pure (countBytes (2 * (line / 2 ^ 30) + 1) 128
    ((breakAtBank (128 * line) 128 s).onMem fun m => { m with llc := remove line m.llc, recalls := m.recalls.filter fun r => r.line ≠ line }))

/-- The first of some candidates that makes room, from one on that the spec leaves open (R240: "Which line is replaced is not
architecturally visible"). [DESIGN CHOICE, log 80] -/
def firstRoom {α β : Type} (xs : List α) (f : α → Option β) (s : State) : Option β :=
  let k := Config.placement s.fresh % xs.length
  (xs.drop k ++ xs.take k).findSome? f

/-- Room for a line in its bank, one of whose 16 ways it takes (R243). None where no line can leave. A store, a registration or a publish
to a line that the bank does not hold takes the way without a read of HBM and counts no miss, of which R252 speaks only for what reads
HBM [DESIGN CHOICE, log 91]. -/
def roomBank (line : Nat) (s : State) : Option State :=
  if (lookup line s.mem.llc).isSome then some s
  else
    let mine := (s.mem.llc.map Prod.fst).filter fun l => bankSet l = bankSet line
    if mine.length < 16 then some s else firstRoom mine (fun l => evictBank l s) s

/-- A line that a bank does not hold is read from HBM: 128 bytes are counted, and the page's hotness entry counts a miss
of the requester's quadrant (R252, R406, R412). A miss waits while the bank recalls the line (R243). -/
def bankMiss (tile line : Nat) (s : State) : Option State :=
  if s.mem.recalls.any fun r => r.line = line then none
  else if (lookup line s.mem.llc).isSome then some s
  else (roomBank line s).map fun s =>
    let pa := 128 * line
    let s := onLlc line id (countBytes (2 * (pa / 2 ^ 37)) 128 s)
    if s.welt.hotbase.toNat % 2 = 1 then
      let at' := bits s.welt.hotbase.toNat 51 27 * 2 ^ 27 + 8 * (pa / 65536)
      let q := 2 * (tileY tile / 16) + tileX tile / 16
      let e := readNat s.mem.dram at' 8
      let c := e / 2 ^ (12 * q) % 4096
      if c = 4095 then s
      else s.onMem fun m => { m with dram := writeBytes m.dram at' (bytesOf 8 (e + 2 ^ (12 * q))) }
    else s

/-- Room at the banks for the lines of words. -/
def roomFor (pws : List Nat) (s : State) : Option State :=
  (((pws.filter fun w => !isRemote (4 * w)).map fun w => w / 32).eraseDups).foldlM (fun s l => roomBank l s) s

/-- A publish made by a write at the bank itself, applied at once and seen by every watch of the bytes. -/
def publishNow (die : Nat) (words : List BankWord) (s : State) : Option State := do
  let s ← roomFor (words.map Prod.fst) s
  let s ← publishWords die words s
  pure (watchWords true (words.map Prod.fst) s)

/-! ### Forced publishes (R267) -/

/-- A forced publish from one cluster (R267): every narrow dirty word of the line goes to the bank, and the NARROW bit is
cleared. None where it must wait. -/
def forcedPublishOne (line cluster : Nat) (s : State) : Option State := do
  let hs := s.mem.slices.filter fun h => h.cluster = cluster && h.narrow && h.pw.any fun p => p / 32 = line
  let s' ← hs.foldlM (fun s h => match homeDirty s h, h.pw with
    | some (v, p), some pw =>
      if isOnWay s cluster line then none else (publishWords (cluster / 4) [(pw, v, p)] s).map (markPublished h v)
    | _, _ => some s) s
  pure (watchWords false (sentWords hs s) (onLlc line (fun l => { l with narrow := l.narrow &&& ~~~ bit32 cluster }) s'))

/-- A forced publish (R267) from every cluster whose NARROW bit is set, other than the one excepted. -/
def forcedPublish (line : Nat) (except : Option Nat) (s : State) : Option State :=
  (List.range 32).foldlM (fun s c =>
    if some c ≠ except ∧ (llcLine s line).narrow.getLsbD c then forcedPublishOne line c s else some s) s

/-- A read of a line at its bank with scope die or wider: forced publishes first, then the read is noted (R267, R391). -/
def bankRead (tile line : Nat) (except : Option Nat) (s : State) : Option State := do
  let s ← bankMiss tile line s
  let s ← forcedPublish line except s
  pure (noteRead (dieOfTile tile) line s)

/-! ### Translations held by slices and engines (R246, R251, R252) -/

/-- What a translation answers: no page, the page's place with its permissions, or that the request stalls. -/
inductive Placed where
  | absent
  | bad
  | stalled
  | page (pa : Nat) (rd wr ex : Bool)
  deriving DecidableEq, Repr

/-- A page's permissions as one number: 1 readable, 2 writable, 4 executable. -/
def permOf (rd wr ex : Bool) : Nat := (if rd then 1 else 0) + (if wr then 2 else 0) + if ex then 4 else 0

/-- The entries of a unit that hit an address (R246). -/
def tlbHits (s : State) (unit asid va : Nat) : List TlbEnt :=
  s.mem.tlb.filter fun e => e.unit = unit && e.asid = asid && e.vbase ≤ va && va < e.vbase + e.size

/-- A walked page entered among the at most 64 entries of a unit. -/
def enterTlb (e : TlbEnt) (s : State) : State :=
  let mine := s.mem.tlb.filter fun x => x.unit = e.unit
  let old := if 64 ≤ mine.length then (match mine with | x :: _ => s.mem.tlb.erase x | [] => s.mem.tlb) else s.mem.tlb
  s.onMem fun m => { m with tlb := old ++ [e] }

/-- A translation through a unit's entries for a requester's tile: the smallest page that hits, else a walk, whose table reads reach
the banks, and whose page is entered. Two sizes that hit count as a multihit of a slice's tile. A page that moves stalls the request
(R251), as a bank that has no room does. -/
def translate (unit tile asid va : Nat) (s : State) : Placed × State :=
  match tlbHits s unit asid va with
  | [] =>
    if isOnTheMove s asid va then (.stalled, s)
    else match (walkLines s asid va).foldlM (fun s l => bankMiss tile l s) s with
      | none => (.stalled, s)
      | some s =>
        match walk s asid va with
        | .absent => (.absent, s)
        | .bad => (.bad, s)
        | .page pa base size rd wr ex moving =>
          if moving then (.stalled, s)
          else (.page pa rd wr ex, enterTlb ⟨unit, asid, va - va % size, base, size, permOf rd wr ex⟩ s)
  | e :: rest =>
    let best := rest.foldl (fun b x => if x.size < b.size then x else b) e
    let s' := if rest.isEmpty ∨ 1024 ≤ unit then s
      else
        let t := (lookup unit s.eng.tiles).getD {}
        s.onEng fun g => { g with tiles := insert unit { t with multihit := t.multihit + 1 } g.tiles }
    (.page (best.pbase + (va - best.vbase)) (best.perm % 2 = 1) (best.perm / 2 % 2 = 1) (best.perm / 4 % 2 = 1), s')

/-! ### Eviction (R240, R242) -/

/-- The physical line of a line that a home holds, where one of its words has been translated. -/
def knownLine (hs : List SliceWord) : Option Nat := hs.findSome? fun h => h.pw.map fun p => p / 32

/-- What the write-back of a home's word needs: the physical word, that its page refuses it with a status, or nothing yet. -/
inductive Backing where
  | pword (pw : Nat)
  | wait
  | fail (status : Nat)

/-- The physical word of a home's word, translated at its slice (R246, R249, R251). -/
def backingOf (h : SliceWord) (s : State) : Backing × State :=
  let tile := homeTile h.cluster (4 * h.wa)
  match translate tile tile h.asid (4 * h.wa) s with
  | (.page pa _ wr _, s) => (if wr then .pword (pa / 4) else .fail statusPageProt, s)
  | (.stalled, s) => (.wait, s)
  | (_, s) => (.fail statusLeaseOut, s)

/-- The registration sequence that a cluster has for a line, which its publishes carry (R243). -/
def registrationOf (s : State) (cluster line : Nat) : Nat := (lookup cluster (llcLine s line).seqs).getD 0

/-- A home sends the publish of a dirty word ahead of the release, the eviction or the forced publish that will need it: it takes its
number now and is applied once its dependencies are met (R391, R392). None where it cannot be sent. [DESIGN CHOICE, log 96] -/
def sendPublish (cluster asid wa : Nat) (s : State) : Option State := do
  let h ← homeFind s cluster asid wa
  let (v, p) ← homeDirty s h
  match backingOf h s with
  | (.pword pw, s) =>
    let line := pw / 32
    if isRemote (4 * pw) || isOnWay s cluster line || writeStalls s asid (4 * wa) 4 || protectedBy s 0 asid (4 * wa) 4 ||
        protectedBy s 1 asid (4 * wa) 4 then none
    let (seq, deps, s) ← takeSeq (cluster / 4) s
    pure ((homePut { h with pw := some pw } s).onMem fun m =>
      { m with pubs := m.pubs ++ [{ die := cluster / 4, seq := seq, cluster := cluster, words := [(pw, v, p)], deps := deps
                                    registration := registrationOf s cluster line }] })
  | _ => none

/-- One dirty word of a home written to its bank, or to its remote home, with the physical words that this wrote; none where the write
must wait. -/
def writeBack (own : Bool) (h : SliceWord) (s : State) : Option (State × List Nat) :=
  if (if own then sliceDirty h else homeDirty s h).isNone then some (s, [])
  else match backingOf h s with
    | (.wait, _) => none
    | (.fail st, s) => some (refuseWord h st s, [])
    | (.pword pw, s) => (roomFor [pw] s).bind fun s => (writeKnown own h pw s).map fun s => (s, [pw])

/-- Several words written back in order and then seen by the watches; none where one must wait. A word that one of them has taken along
meanwhile is left. -/
def writeBackAll (own : Bool) (hs : List SliceWord) (s : State) : Option State := do
  let r ← hs.foldlM (fun (r : State × List Nat) h => match homeFind r.1 h.cluster h.asid h.wa with
    | some h => (writeBack own h r.1).map fun x => (x.1, r.2 ++ x.2)
    | none => some r) (s, [])
  pure (watchWords false r.2 r.1)

/-- A slice evicts a line: dirty words, those registered in L1s among them, go to the bank, and the copies are dropped. None where
a write-back must wait or a publish of the line is on its way. -/
def evictSlice (cluster asid line : Nat) (s : State) : Option State :=
  let hs := lineHomes s cluster asid line
  if (knownLine hs).any fun p => isOnWay s cluster p then none
  else (writeBackAll false hs s).map (leaveSlice cluster asid line)

/-- Room for a line in its slice, one of the 16 ways of its set (R242). None where no line can leave. -/
def roomSlice (cluster asid wa : Nat) (s : State) : Option State :=
  let va := 128 * (wa / 32)
  let mine := ((s.mem.slices.filter fun h =>
    h.cluster = cluster && sliceIndex (4 * h.wa) = sliceIndex va && sliceSet (4 * h.wa) = sliceSet va).map fun h => (h.asid, h.wa / 32)).eraseDups
  if mine.contains (asid, wa / 32) || mine.length < 16 then some s
  else firstRoom mine (fun l => evictSlice cluster l.1 l.2 s) s

/-- The newest value of a word as its cluster home gives it: the registrant's, the slice's, else the bank's. -/
def homeValue (s : State) (cluster asid wa : Nat) : Lane :=
  let h := homeGet s cluster asid wa
  let own : Lane := match h.val with
    | some v => v
    | none => match walk s asid (4 * wa) with | .page p _ _ _ _ _ _ => bankWord s (p / 4) | _ => 0
  match h.owner.bind fun c => l1Find s c asid wa with
  | some w => w.val
  | none => own

/-- A write to `n` bytes at a cluster home, seen by the watches of private and cluster-shared lines (R233, R254). -/
def watchHome (cluster asid va n : Nat) (s : State) : State :=
  if s.mem.watches.isEmpty then s
  else watchWrite (fun w a =>
    if classAt s w.asid a < 2 ∧ w.asid = asid ∧ a < va + n ∧ va < a + 8 then
      some (BitVec.ofNat 64 (natOfLanes ([a / 4, a / 4 + 1].map (homeValue s cluster asid))))
    else none) s

/-- A dirty word of an L1 written to its cluster home: the home holds the value, the L1 a clean copy (R261, R384). A word of a
private object reaches the home here for the first time. None where the slice has no room. -/
def putBack (w : L1Word) (s : State) : Option State :=
  let c := clusterOfCore w.core
  (roomSlice c w.asid w.wa s).map fun s =>
    let h := homeGet s c w.asid w.wa
    let s := homePut
      { h with val := some w.val, dirty := true, narrow := h.narrow || w.narrow, stale := false, poison := w.poison
               task := w.task, topinf := w.topinf, owner := if h.owner = some w.core then none else h.owner, lostWrite := false } s
    let s := l1Change w.core w.asid w.wa (fun x => { x with dirty := false, registered := false, narrow := false }) s
    if w.registered then s else breakAtHome c w.asid (4 * w.wa) 4 s

/-- Dirty words of L1s written to their cluster homes, those that are still there and dirty when their turn comes. The watches at the
homes then see the words that the homes had not registered, each 8-byte word once (R233). None where a slice has no room. -/
def l1WriteBack (ws : List L1Word) (s : State) : Option State := do
  let r ← ws.foldlM (fun (r : State × List (Nat × Nat × Nat)) w =>
    match (l1Find r.1 w.core w.asid w.wa).filter fun x => x.dirty with
    | some x => (putBack x r.1).map fun s => (s, if x.registered then r.2 else r.2 ++ [(clusterOfCore x.core, x.asid, x.wa / 2)])
    | none => some r) (s, [])
  pure (r.2.eraseDups.foldl (fun s k => watchHome k.1 k.2.1 (8 * k.2.2) 8 s) r.1)

/-- The L1 words that a test names leave: dirty ones go to their cluster homes, the others are dropped, and the reservations held
there are lost (R240, R257). None where a slice has no room. -/
def emptyL1 (p : L1Word → Bool) (s : State) : Option State := do
  let ws := s.mem.l1.filter p
  let s ← l1WriteBack (ws.filter fun w => w.dirty) s
  let s := s.onMem fun m =>
    { m with
      l1 := m.l1.filter fun w => !p w
      slices := m.slices.map fun h =>
        if ws.any fun w => h.owner = some w.core && h.asid = w.asid && h.wa = w.wa then { h with owner := none } else h }
  pure (ws.foldl (fun s w => breakAtL1 w.core w.asid (4 * w.wa) 4 s) s)

/-- An L1 evicts a line. -/
def evictL1 (core asid line : Nat) (s : State) : Option State :=
  emptyL1 (fun w => w.core = core && w.asid = asid && w.wa / 32 = line) s

/-- The lines of a set of an L1 that are the first to be replaced (R256), by address space and line. -/
def earlyLines (s : State) (core set : Nat) : List (Nat × Nat) :=
  ((s.mem.l1.filter fun w => w.core = core && w.early && l1Set s core (4 * w.wa) = set).map fun w => (w.asid, w.wa / 32)).eraseDups

/-- A way for a line in an L1: the one that holds it, a free one of its set, or one that a line leaves (R236, R240), first those that are
to be replaced first (R256). None where no line can leave. -/
def roomL1 (core asid wa : Nat) (s : State) : Option (Nat × State) :=
  match s.mem.l1.find? fun w => w.core = core && w.asid = asid && w.wa / 32 = wa / 32 with
  | some w => some (w.way, s)
  | none =>
    let set := l1Set s core (4 * wa)
    let holder (k : Nat) : Option L1Word := s.mem.l1.find? fun w => w.core = core && w.way = k && l1Set s core (4 * w.wa) = set
    let ways := l1Ways s core
    let early := earlyLines s core set
    let first := ways.filter fun k => (holder k).any fun w => early.contains (w.asid, w.wa / 32)
    match ways.find? fun k => (holder k).isNone with
    | some k => some (k, s)
    | none => firstRoom (if first.isEmpty then ways else first) (fun k => match holder k with
      | some w => (evictL1 core w.asid (w.wa / 32) s).map fun s => (k, s)
      | none => some (k, s)) s

/-- An L1 replaces a line of its own accord; one that has a line to replace first in its set gives up that one (R240, R256). -/
def replaceL1 (core asid line : Nat) (s : State) : Option State :=
  let early := earlyLines s core (l1Set s core (128 * line))
  if early.isEmpty || early.contains (asid, line) then evictL1 core asid line s else none

/-- Clean copies that were in an L1: where one has left it or holds another value, the reservations held there are lost (R257). -/
def breakChangedL1 (before : List L1Word) (s : State) : State :=
  before.foldl (fun s w =>
    if (l1Find s w.core w.asid w.wa).any fun x => x.val = w.val then s else breakAtL1 w.core w.asid (4 * w.wa) 4 s) s

/-- Words that were at a cluster home: where one has left it or has another value, the reservations held there are lost (R257). -/
def breakChangedHome (before : List SliceWord) (s : State) : State :=
  before.foldl (fun s h =>
    if (homeFind s h.cluster h.asid h.wa).any fun x => x.val = h.val then s else breakAtHome h.cluster h.asid (4 * h.wa) 4 s) s

/-- The ways that a grant takes from a core's L1 emptied (R238). -/
def drainWays (core base n : Nat) (s : State) : Option State :=
  emptyL1 (fun w => w.core = core && base ≤ w.way && w.way < base + n) s

/-- The copies of a physical word that the clusters hold are invalidated, registrants' among them (R258); one that holds a value
that the bank has not, under another address or class, stays (R240). -/
def dropCopies (pw : Nat) (s : State) : State :=
  let hs := s.mem.slices.filter fun h => h.pw = some pw && (homeDirty s h).isNone
  let s := dropHomes hs s
  let copies := s.mem.l1.filter fun w => !w.dirty && hs.any fun h => clusterOfCore w.core = h.cluster && w.asid = h.asid && w.wa = h.wa
  copies.foldl (fun s w => breakAtL1 w.core w.asid (4 * w.wa) 4 (l1Drop w.core w.asid w.wa s)) s

end Sys2Proof.Machine
end

