-- ==== Sys2Proof/Machine/Access.lean ====
section
/-! DEFINITION. A thread's accesses to global memory (R249, R250, R254 to R261, R396, R400): loads, stores, reservations,
atomics, posted operations at their homes, and the cache actions of acquire and release. A store to shared memory waits in
`posted` with its words until its registration is complete; the L1 holds registered words, words of private objects and
copies. -/

namespace Sys2Proof.Machine

/-! ### Checks (R249, R250, R254, R304) -/

/-- The lease and object checks of a global access, made when it issues. -/
def checkAccess (writes : Bool) (va n : Nat) (s : State) : Run Unit :=
  if !leaseAllows s s.th va n then .error (.endTask statusLeaseOut)
  else if (wordsOf va n).any fun wa => !objectAllows s (coreOf s.th.num) s.th.asid (4 * wa) writes then
    .error (.endTask statusObjectClass)
  else .ok ()

/-- The protections and the marks that an access meets at a home or a bank (R304, R309). -/
def checkHome (a : Agent) (writes : Bool) (va n : Nat) (s : State) : Run Unit :=
  if protectedBy s 1 a.asid va n || (writes && protectedBy s 0 a.asid va n) then .error (.endTask statusRegionProt)
  else if writes && writeStalls s a.asid va n then .error .wait
  else .ok ()

/-- The physical address and the page's permissions for an access that its slice sends on, and therefore translates (R246, R249,
R251). -/
def placeFor (a : Agent) (reads writes : Bool) (va n : Nat) (s : State) : Run (Nat × Nat × State) := do
  checkHome a writes va n s
  match translate (homeTile a.cluster va) a.tile a.asid va s with
  | (.page pa rd wr ex, s) =>
    if (reads && !rd) || (writes && !wr) then .error (.endTask statusPageProt)
    .ok (pa, permOf rd wr ex, s)
  | (.stalled, _) => .error .wait
  | _ => .error (.endTask statusLeaseOut)

/-- Where the bytes of a narrow write lie: a line of which the home holds a narrow word has its NARROW bit set, so nothing of it is sent
to the bank and it is not translated; any other is (R246, R266). [DEDUCED, log 97] -/
def placeNarrow (a : Agent) (va n : Nat) (s : State) : Run (Nat × Nat × State) :=
  match (lineHomes s a.cluster a.asid (va / 128)).find? fun h => h.narrow && h.pw.any fun p => (llcLine s (p / 32)).narrow.getLsbD a.cluster with
  | some h => do
    checkHome a true va n s
    .ok (128 * (h.pw.getD 0 / 32) + va % 128, h.perm, s)
  | none => placeFor a false true va n s

/-- A state that a step of the memory system gives, or a wait for it. -/
def orWait {α : Type} (r : Option α) : Run α := match r with | some x => .ok x | none => .error .wait

/-! ### Requests to another device (R396, R399, R400) -/

/-- A request of the thread in focus sent to a peer; its reply is awaited under the tag. -/
def sendRequest (peer op flags addr : Nat) (payload : List Byte) (s : State) : State :=
  let tag := s.fab.tag
  let s := (fabSend peer op (BitVec.ofNat 16 flags) (BitVec.ofNat 32 s.th.num) tag addr payload s).1.onFab fun f => { f with tag := tag + 1 }
  { s with th := { s.th with replies := s.th.replies ++ [{ tag := tag, peer := peer, place := 2 ^ 40 * peer + addr, op := op }] } }

/-- A request to a remote home and its reply. Each request of an instruction, one for a place, is sent once; until its reply has come
the thread stands still with nothing else of the instruction done, and a peer that is down ends the task. -/
def remoteCall (pa op flags : Nat) (payload : List Byte) (s : State) : Run ((Nat × List Byte) × State) :=
  match s.th.replies.find? fun r => r.place = pa % 2 ^ 46 && r.op = op with
  | none =>
    if isPeerUp s (remoteDevice pa) then .error (.waitAfter (sendRequest (remoteDevice pa) op flags (pa % 2 ^ 40) payload))
    else .error (.endTask statusRemoteLost)
  | some r =>
    match s.fab.replies.find? fun x => x.1 = r.tag with
    | some (_, st, bs) => .ok ((st, bs), s)
    | none => if isPeerUp s r.peer then .error .wait else .error (.endTask statusRemoteLost)

/-- The replies that an instruction awaited and what it kept of its issue are forgotten when it ends. -/
def forgetWaits (s : State) : State :=
  if s.th.replies.isEmpty && s.th.kept.isNone && s.th.acted.isNone then s
  else
    { s with
      th := { s.th with replies := [], kept := none, acted := none }
      fab := { s.fab with replies := s.fab.replies.filter fun r => !s.th.replies.any fun x => x.tag = r.1 } }

/-! ### What is under way (R265, R276, R277) -/

/-- Whether a posted operation touches a word of an L1. -/
def Posted.touches (s : State) (core asid wa : Nat) (p : Posted) : Bool :=
  l1Core s p.core p.va = core && p.asid = asid && (wordsOf p.va p.size).contains wa

/-- Whether a load of a word awaits a posted operation: a sibling's (R265, R277), or the thread's own store, whose word is read once it is
registered, so that what the load precedes follows the store at every observer (R271 case 2, R394, R395) [DEDUCED, log 86]. The
thread's own atomics are not awaited, since a later load may use the word before they execute (R276 note (b)). -/
def awaitsPosted (s : State) (t : Thread) (core wa : Nat) : Bool :=
  s.mem.posted.any fun p => p.touches s core t.asid wa &&
    !(p.thread = t.num && p.taskid = t.taskid && (match p.kind with | .amo _ _ _ => true | _ => false))

/-- Whether an operation of the L1 that an access uses is posted on one of its words. -/
def isUnderWay (s : State) (core asid : Nat) (was : List Nat) : Bool :=
  was.any fun w => s.mem.posted.any fun p => p.touches s core asid w

/-- Whether an access goes to the Welt register space behind one of some posted operations of its core: they take effect in program order
(R412). -/
def isBehindAtWelt (s : State) (core asid va : Nat) (ps : List Posted) : Bool :=
  (weltAt s asid va).isSome && ps.any fun q => q.core = core && (weltAt s q.asid q.va).isSome

/-- Whether one of some posted operations of a core goes where an access of the core goes: to the same home slice (R278 note (a)), to
the same other device (R397 note (a)), or to the Welt register space. -/
def isBehind (s : State) (core asid va : Nat) (ps : List Posted) : Bool :=
  ps.any (fun q => q.core = core && (sliceIndex q.va = sliceIndex va ||
    match farAt s asid va with | some d => farAt s q.asid q.va = some d | none => false)) || isBehindAtWelt s core asid va ps

/-- An operation that acts at once comes after what is posted on its words in its L1 and after what the core has posted to where it goes
(R276 to R280, R397). -/
def awaitOrder (a : Agent) (va n : Nat) (s : State) : Run Unit :=
  await (!isUnderWay s (l1Core s a.core va) a.asid (wordsOf va n) && !isBehind s a.core a.asid va s.mem.posted)

/-! ### Reading at the cluster home (R242, R256, R265) -/

/-- What a cluster home answers a core's read. -/
inductive HomeRead where
  | value (v : Lane) (poison : Bool)
  | miss
  | busy
  deriving DecidableEq, Repr

/-- A read at the cluster home, forwarded to the core that registered the word (R256). Another core's word with a newer store
under way is awaited (R265). -/
def homeRead (s : State) (cluster lvl core asid wa : Nat) : HomeRead :=
  match homeFind s cluster asid wa with
  | none => .miss
  | some h =>
    let own : HomeRead := match h.val with
      | some v => if h.stale && 5 ≤ lvl then .miss else .value v h.poison
      | none => .miss
    match h.owner with
    | none => own
    | some c =>
      if c ≠ core && s.mem.posted.any fun p => p.touches s c asid wa && (match p.kind with | .store _ cp => cp ≠ .noAlloc | _ => false) then .busy
      else match l1Find s c asid wa with
        | some w => .value w.val w.poison
        | none => own

/-- A line as a bank answers it, entered in the slice by 8-byte blocks: where a word of a block is missing or stale, every word of it
that the cluster has not written takes the bank's value with its poison (R243, R245, R256). -/
def fillSlice (a : Agent) (wa pa perm : Nat) (s : State) : State :=
  let base := pa / 128 * 32
  (lineBlocks wa).foldl (fun s b =>
    let hs := [homeGet s a.cluster a.asid b, homeGet s a.cluster a.asid (b + 1)]
    if !(hs.any fun h => (h.val.isNone || h.stale) && h.owner.isNone) then s
    else hs.foldl (fun s h =>
      let pw := base + h.wa % 32
      if h.owner.isSome || h.dirty then s
      else homePut { h with val := some (bankWord s pw), stale := false, narrow := false, pw := some pw, perm := perm
                            poison := isPoisoned s pw } s) s)
    (setPresent a.cluster (pa / 128) s)

/-- Words that another device has answered, entered in the slice; the rest of their blocks is dropped, so that no block mixes two
answers (R256). -/
def fillRemote (a : Agent) (was : List Nat) (pa perm : Nat) (bs : List Byte) (s : State) : State :=
  let wa := was.headD 0
  let isOwn (h : SliceWord) : Bool := h.dirty || h.owner.isSome
  let s := dropHomes ((lineHomes s a.cluster a.asid (wa / 32)).filter fun h =>
    !isOwn h && !was.contains h.wa && was.any fun w => w / 2 = h.wa / 2) s
  was.foldl (fun s w =>
    let h := homeGet s a.cluster a.asid w
    if isOwn h then s
    else homePut { h with val := some (BitVec.ofNat 32 (natOfBytes ((bs.drop (4 * (w - wa))).take 4))), stale := false
                          pw := some (pa / 4 + (w - wa)), perm := perm, poison := false } s) s

/-- Words at a physical address brought into the cluster home from their bank or from another device (R242, R256). A whole line of
another device is asked for as one beat, whose length BEATS gives (R399). -/
def fillHome (a : Agent) (lvl : Nat) (was : List Nat) (pa perm : Nat) (s : State) : Run State := do
  let s ← orWait (roomSlice a.cluster a.asid (was.headD 0) s)
  let before := lineHomes s a.cluster a.asid (was.headD 0 / 32)
  if isRemote pa then
    let (r, s) ← remoteCall pa 0x10 (accessFlags (4 * was.length) a.topinf) (if 2 < was.length then List.replicate 128 0 else []) s
    if r.1 ≠ 0 then .error (.endTask r.1)
    .ok (breakChangedHome before (fillRemote a was pa perm r.2 s))
  else
    let s ← if 5 ≤ lvl then orWait (bankRead a.tile (pa / 128) (some a.cluster) s)
      else (orWait (bankMiss a.tile (pa / 128) s)).map (noteRead (dieOfTile a.tile) (pa / 128))
    .ok (breakChangedHome before (fillSlice a (was.headD 0) pa perm s))

/-- Words brought into the cluster home for an access of `n` bytes; `writes` for the word that a narrower store changes, whose page
need only be writable (R249). -/
def fetchHome (a : Agent) (lvl : Nat) (writes : Bool) (va n : Nat) (was : List Nat) (s : State) : Run State := do
  let (pa, perm, s) ← placeFor a (!writes) writes va n s
  fillHome a lvl was (pa - (va - 4 * was.headD 0)) perm s

/-- The words of `n` bytes read at the cluster home with their poison, fetched first where the home lacks one. Registers of the Welt space
are read where they are, and leave no copy (R412). -/
def readHome (a : Agent) (lvl : Nat) (writes : Bool) (va n : Nat) (s : State) : Run (List (Lane × Bool) × State) := do
  let was := wordsOf va n
  let core := l1Core s a.core va
  checkHome a false va n s
  match weltAt s a.asid va with
  | some off => (placeFor a (!writes) writes va n s).map fun r => ((weltWords s off n).map fun v => (v, false), r.2.2)
  | none =>
  let look (s : State) : List HomeRead := was.map fun w => homeRead s a.cluster lvl core a.asid w
  if (look s).any fun r => r = .busy then .error .wait
  let s ← if (look s).any fun r => r = .miss then fetchHome a lvl writes va n was s else .ok s
  .ok ((look s).map fun r => match r with | .value v p => (v, p) | _ => (0, false), s)

/-- POISON for an access that would return poisoned words (R245). -/
def needSound (ws : List (Lane × Bool)) : Run Unit := if ws.any fun w => w.2 then .error (.endTask statusPoison) else .ok ()

/-! ### Loads (R256, R265) -/

/-- Words put in the way of an L1 as clean copies; those that the core has written and those under a no-access protection, which
the home alone checks (R304), are left out. -/
def copyL1 (t : Thread) (core way : Nat) (early : Bool) (ws : List (Nat × Lane × Bool)) (s : State) : State :=
  ws.foldl (fun s x =>
    if ((l1Find s core t.asid x.1).any fun l => l.dirty || l.registered) || protectedBy s 1 t.asid (4 * x.1) 4 then s
    else l1Put { core := core, asid := t.asid, wa := x.1, way := way, val := x.2.1, dirty := false, registered := false
                 narrow := false, writer := t.num, task := t.taskid, poison := x.2.2, early := early
                 ex := (homeFind s (clusterOfCore core) t.asid x.1).any fun h => h.pw.isSome && h.perm / 4 % 2 = 1 } s) s

/-- A line brought from the cluster home into an L1 by 8-byte blocks: where the L1 lacks a word of a block and the home can give
every word of it that the core has not written, the block takes the home's values (R240, R256, R261). -/
def fillL1 (core way : Nat) (early : Bool) (wa : Nat) (s : State) : State :=
  let t := s.th
  let isOwn (s : State) (w : Nat) : Bool := (l1Find s core t.asid w).any fun l => l.dirty || l.registered
  (lineBlocks wa).foldl (fun s b =>
    if [b, b + 1].all fun w => (l1Find s core t.asid w).isSome then s
    else
      let hs := ([b, b + 1].filter fun w => !isOwn s w).map fun w => (w, (homeFind s (clusterOfCore core) t.asid w).bind fun h =>
        if h.owner.isNone && !h.stale then h.val.map fun v => (v, h.poison) else none)
      if hs.any fun x => x.2.isNone then s
      else copyL1 t core way early (hs.filterMap fun x => x.2.map fun v => (x.1, v)) s) s

/-- The words of a load: the first level that holds a valid copy of all of them (R256); stores posted on them are awaited (R265, R277).
Without allocation (`.na`) only words that the core wrote count as held in the L1. A word that a load takes from a stale copy or
without allocation leaves no copy in the L1, where a later load could find an earlier value than the scope of that load allows (R269,
R273) [DEDUCED, log 49]. [DESIGN CHOICE, log 75] -/
def loadWords (lvl : Nat) (cp : CachePolicy) (va n : Nat) (s : State) : Run (List Lane × State) := do
  let was := wordsOf va n
  let wa := va / 4
  let t := s.th
  let na := cp = .noAlloc
  let core := l1Core s (coreOf t.num) va
  let held (w : Nat) : Option (Lane × Bool) :=
    ((l1Find s core t.asid w).filter fun x => !na || x.dirty || x.registered).map fun x => (x.val, x.poison)
  if was.any (awaitsPosted s t core) then .error .wait
  if was.all fun w => (held w).isSome then
    needSound (was.filterMap held)
    .ok ((was.filterMap held).map Prod.fst, s)
  else
    let a := t.agent
    await (!isBehindAtWelt s a.core a.asid va s.mem.posted)
    let (vs, s) ← readHome a lvl false va n s
    let vs := (was.zip vs).map fun x => match (l1Find s core t.asid x.1).filter fun l => l.dirty with
      | some l => (x.1, l.val, l.poison)
      | none => x
    needSound (vs.map Prod.snd)
    let leaves := na || (weltAt s t.asid va).isSome || was.any fun w => (homeFind s a.cluster t.asid w).any fun h => h.stale
    let before := s.mem.l1.filter fun x => x.core = core && x.asid = t.asid && x.wa / 32 = wa / 32 && !x.dirty && !x.registered
    let early := cp = .evictFirst || before.any L1Word.early
    let s := l1Keep (fun x => x.core ≠ core || x.asid ≠ t.asid || x.dirty || x.registered || !(was.any fun w => w / 2 = x.wa / 2)) s
    let s := if leaves then s
      else match roomL1 core t.asid wa s with
        | some (way, s) => fillL1 core way early wa (copyL1 t core way early vs s)
        | none => s
    .ok (vs.map fun x => x.2.1, breakChangedL1 before s)

/-- A global load of `n` bytes at a scope level, after its alignment check: the raw value (R256). -/
def loadGlobal (lvl : Nat) (cp : CachePolicy) (va n : Nat) (s : State) : Run (Nat × State) := do
  checkAccess false va n s
  let (ws, s) ← loadWords lvl cp va n s
  .ok (cutBytes va n ws, s)

/-- The line of a prefetch brought into the cluster home, and into the L1 unless `.na`; a stale copy in the slice is refreshed at
scope die or wider (R259). The Welt register space is not cached (R412). -/
def bringLine (lvl : Nat) (cp : CachePolicy) (va : Nat) (s : State) : Run State := do
  let a := s.th.agent
  if (weltAt s a.asid va).isSome then .ok s else
  let core := l1Core s a.core va
  let was := lineWords (va / 4)
  let isIn (s : State) (w : Nat) : Bool := match homeRead s a.cluster lvl core a.asid w with | .miss => false | _ => true
  let s ← if was.all (isIn s) then .ok s else fetchHome a lvl false va 1 was s
  if cp = .noAlloc then .ok s
  else
    let before := s.mem.l1.filter fun x => x.core = core && x.asid = a.asid && x.wa / 32 = va / 128 && !x.dirty && !x.registered
    .ok (match roomL1 core a.asid (va / 4) s with
      | some (way, s) => breakChangedL1 before (fillL1 core way (cp = .evictFirst || before.any L1Word.early) (va / 4) s)
      | none => s)

/-! ### Stores (R240, R256, R266) -/

/-- Whether a posted operation counts in the global class: an atomic for another device counts only as remote (R46, R258). A store
for another device counts there and as global until its home slice has sent it on. [DEDUCED, log 81] -/
def Posted.isGlobal (p : Posted) : Bool := !p.device || (match p.kind with | .store _ _ => true | _ => false)

/-- A posted operation queued and counted in the thread's classes (R46, R275). -/
def post (va n lvl : Nat) (kind : PostKind) (s : State) : State :=
  let t := s.th
  let far := isFar s t.asid va && (match kind with | .store _ _ => 2 ≤ classAt s t.asid va | .amo _ _ _ => 5 ≤ lvl)
  let p : Posted :=
    { thread := t.num, taskid := t.taskid, core := coreOf t.num, asid := t.asid, va := va, size := n, scope := lvl, kind := kind
      topinf := topinfOf t.fmode, device := far, step := s.fresh }
  let s := s.onMem fun m => { m with posted := m.posted ++ [p] }
  { s with th := { s.th with
      cntGlobal := s.th.cntGlobal + (if p.isGlobal then 1 else 0)
      cntDevice := s.th.cntDevice + (if far then 1 else 0) } }

/-- The word that a store of fewer than 4 bytes changes: the newest that the thread's stores under way or the L1 give, else the home's
(R240). An atomic under way on it and a sibling's store, whose bytes no other thread has before its registration (R265), are awaited. -/
def oldWord (lvl va : Nat) (s : State) : Run ((Lane × Bool) × State) :=
  let t := s.th
  let wa := va / 4
  let core := l1Core s (coreOf t.num) va
  match (s.mem.posted.filter fun p => p.touches s core t.asid wa).getLast? with
  | some p => match p.kind with
    | .amo _ _ _ => .error .wait
    | .store vals _ =>
      if p.thread = t.num && p.taskid = t.taskid then .ok (vals[wa - p.va / 4]?.getD (0, false), s) else .error .wait
  | none => match l1Find s core t.asid wa with
    | some l => .ok ((l.val, l.poison), s)
    | none => (readHome t.agent lvl true va 1 s).map fun r => (r.1.headD (0, false), r.2)

/-- The words that a store of `n` bytes writes, with the poison of a word that it changes only in part (R245). -/
def storeVals (va n x : Nat) (old : Lane × Bool) : List (Lane × Bool) :=
  (wordsOf va n).map fun w => (mergeWord va n x w old.1, n < 4 && old.2)

/-- Words of a private object written in the thread's L1, where they stay dirty and are not registered (R240, R254). -/
def writePrivate (cp : CachePolicy) (va n : Nat) (vals : List (Lane × Bool)) (s : State) : Run State := do
  let t := s.th
  let was := wordsOf va n
  let core := l1Core s (coreOf t.num) va
  await (!isUnderWay s core t.asid was)
  let (way, s) ← orWait (roomL1 core t.asid (va / 4) s)
  .ok (breakAtL1 core t.asid va n ((was.zip vals).foldl (fun s x =>
    l1Put { core := core, asid := t.asid, wa := x.1, way := way, val := x.2.1, dirty := true, registered := false, narrow := false
            writer := t.num, task := t.taskid, poison := x.2.2, topinf := topinfOf t.fmode, early := cp = .evictFirst } s) s))

/-- Words of private objects that an L1 holds dirty written to their cluster home (R254, R258). -/
def settleOwn (a : Agent) (was : List Nat) (s : State) : Option State :=
  l1WriteBack (was.filterMap fun w => (l1Find s (l1Core s a.core (4 * w)) a.asid w).filter fun x => x.dirty && !x.registered) s

/-- Words stored: into the L1 for private objects, else posted for their registration; without allocation (`.na`) they go to the
cluster home (R256). A write in the L1 breaks the reservations held there (R257). -/
def putWords (lvl : Nat) (cp : CachePolicy) (va n : Nat) (vals : List (Lane × Bool)) (s : State) : Run State :=
  let t := s.th
  if cp = .noAlloc then (orWait (settleOwn t.agent (wordsOf va n) s)).map (post va n lvl (.store vals cp))
  else if classAt s t.asid va = 0 then writePrivate cp va n vals s
  else .ok (breakAtL1 (l1Core s (coreOf t.num) va) t.asid va n (post va n lvl (.store vals cp) s))

/-- A global store of `n` bytes, after its alignment check (R256). -/
def storeGlobal (lvl : Nat) (cp : CachePolicy) (va n x : Nat) (s : State) : Run State := do
  checkAccess true va n s
  let (old, s) ← if n < 4 then oldWord lvl va s else .ok ((0, false), s)
  putWords lvl cp va n (storeVals va n x old) s

/-! ### Registration (R254, R256, R265, R266) -/

/-- A posted operation leaves the counts it stands in. -/
def endCount (p : Posted) (s : State) : State :=
  s.onThreads (isContext p.thread p.taskid) fun t =>
    { t with
      cntGlobal := t.cntGlobal - (if p.isGlobal then 1 else 0)
      cntDevice := t.cntDevice - (if p.device then 1 else 0) }

/-- A posted operation that its home sends on to another device stands in the remote-device class alone (R46). -/
def countRemote (p : Posted) (s : State) : State :=
  s.onThreads (isContext p.thread p.taskid) fun t =>
    { t with
      cntGlobal := t.cntGlobal - (if p.isGlobal then 1 else 0)
      cntDevice := t.cntDevice + (if p.device then 0 else 1) }

/-- A posted operation can run: none before it in the list comes from its core and goes where it goes (R278 note (a), R397 note (a)). -/
def postedFirst (s : State) (i : Nat) (p : Posted) : Bool := !isBehind s p.core p.asid p.va (s.mem.posted.take i)

/-- What a registration makes of a word: a word whose home is the cluster (R254), a narrow word, a word that the bank has too (R266),
or a copy of what another device has been sent. -/
inductive RegKind where
  | cluster | narrow | wide | far
  deriving DecidableEq, Repr

/-- A store's word registered at its home (R254, R256, R265): the earlier registrant keeps an old copy, and the word goes into the L1,
or with its data to the home (`.na`). None where a level has no room. -/
def registerWord (p : Posted) (kind : RegKind) (cp : CachePolicy) (place : Option (Nat × Nat)) (wa : Nat) (v : Lane × Bool) (s : State) :
    Option State := do
  let cluster := clusterOfCore p.core
  let core := l1Core s p.core p.va
  let na := cp = .noAlloc
  let early := cp = .evictFirst || s.mem.l1.any fun w => w.core = core && w.asid = p.asid && w.wa / 32 = wa / 32 && w.early
  let (way, s) ← if na then some (0, s) else roomL1 core p.asid wa s
  let s ← roomSlice cluster p.asid wa s
  let h := homeGet s cluster p.asid wa
  let s := match h.owner with
    | some c => if c = core then s
      else l1Change c p.asid wa (fun w => { w with dirty := false, registered := false, narrow := false }) s
    | none => s
  let isClean := kind = .wide || kind = .far
  let h : SliceWord :=
    { h with
      stale := false, lostWrite := false, task := p.taskid, topinf := p.topinf
      owner := if na || kind = .far then none else some core
      narrow := !isClean && (h.narrow || kind = .narrow)
      pw := match place with | some (pa, _) => some (pa / 4 + (wa - p.va / 4)) | none => h.pw
      perm := match place with | some (_, perm) => perm | none => h.perm }
  let s := homePut (if isClean || na then { h with val := some v.1, dirty := !isClean, poison := v.2 } else h) s
  let s := breakAtL1 core p.asid (4 * wa) 4 s
  pure (if na then l1Drop core p.asid wa s
    else l1Put { core := core, asid := p.asid, wa := wa, way := way, val := v.1, dirty := !isClean, registered := kind ≠ .far
                 narrow := kind = .narrow, writer := p.thread, task := p.taskid, poison := v.2, topinf := p.topinf, early := early
                 ex := h.pw.isSome && h.perm / 4 % 2 = 1 } s)

/-- All the words of a posted store registered; reservations at the home are lost, and the watches that live there see the write. -/
def registerStore (p : Posted) (kind : RegKind) (cp : CachePolicy) (place : Option (Nat × Nat)) (vals : List (Lane × Bool)) (s : State) :
    Option State := do
  let cluster := clusterOfCore p.core
  let s ← ((wordsOf p.va p.size).zip vals).foldlM (fun s x => registerWord p kind cp place x.1 x.2 s) s
  pure (watchHome cluster p.asid p.va p.size (breakAtHome cluster p.asid p.va p.size s))

/-- A store registered without a publish: at the cluster home (R254), as a narrow word once the bank has set the NARROW bit (R266), or as
a copy of a word of another device (R396). Each level makes room before the bit is set, so that no eviction clears it again. None where
a level has no room. -/
def registerNear (p : Posted) (cp : CachePolicy) (place : Option (Nat × Nat)) (vals : List (Lane × Bool)) (s : State) : Option State :=
  let cluster := clusterOfCore p.core
  match place with
  | none => registerStore p .cluster cp none vals s
  | some (pa, _) =>
    if isRemote pa then registerStore p .far cp place vals s
    else do
      let s ← if cp = .noAlloc then some s else (roomL1 (l1Core s p.core p.va) p.asid (p.va / 4) s).map Prod.snd
      let s ← roomSlice cluster p.asid (p.va / 4) s
      let s ← roomBank (pa / 128) s
      let s := onLlc (pa / 128) (fun l => { l with narrow := l.narrow ||| bit32 cluster }) (setPresent cluster (pa / 128) s)
      registerStore p .narrow cp place vals s

/-! ### Atomics (R258) -/

/-- The new value of an atomic from the word, the operand and the compare value at the type's width; none where nothing is
written. `op` is the minor of R258. -/
def amoValue (op size : Nat) (w v c : Nat) : Option Nat :=
  let m := 2 ^ (8 * size)
  let sg (x : Nat) : Int := if 2 * x < m then (x : Int) else (x : Int) - m
  match op with
  | 0 => some ((w + v) % m)
  | 1 => some (if sg v < sg w then v else w)
  | 2 => some (if sg w < sg v then v else w)
  | 3 => some (Nat.min w v)
  | 4 => some (Nat.max w v)
  | 5 => some (w &&& v)
  | 6 => some (w ||| v)
  | 7 => some (w ^^^ v)
  | 8 => some v
  | _ => if w = c then some v else none

/-- The copies of words nearer than the place of an atomic or a reservation are dropped: an older value must not follow the one read
there (R257, R258, R269). -/
def dropNear (a : Agent) (was : List Nat) (s : State) : State :=
  was.foldl (fun s w =>
    let core := l1Core s a.core (4 * w)
    if (l1Find s core a.asid w).any fun x => !x.dirty && !x.registered then breakAtL1 core a.asid (4 * w) 4 (l1Drop core a.asid w s) else s) s

/-- Words written at a cluster home (R258, R257): the registrant's copy is recalled, words of a device-shared line (`place`) become
narrow at the bank, and reservations there are lost. A word of another device is a copy of what is sent there. -/
def writeHome (a : Agent) (va n : Nat) (place : Option (Nat × Nat)) (vals : List Lane) (s : State) : Option State := do
  let s ← roomSlice a.cluster a.asid (va / 4) s
  let s ← match place with
    | some (pa, _) =>
      if isRemote pa then some s
      else (roomBank (pa / 128) s).map fun s =>
        onLlc (pa / 128) (fun l => { l with narrow := l.narrow ||| bit32 a.cluster }) (setPresent a.cluster (pa / 128) s)
    | none => some s
  let s := ((wordsOf va n).zip vals).foldl (fun s x =>
    let h := homeGet s a.cluster a.asid x.1
    let s := match h.owner with
      | some c => breakAtL1 c a.asid (4 * x.1) 4 (l1Drop c a.asid x.1 s)
      | none => s
    homePut { h with val := some x.2, dirty := !place.any fun p => isRemote p.1, narrow := place.any fun p => !isRemote p.1, stale := false
                     owner := none, poison := false, lostWrite := false, task := a.task, topinf := a.topinf
                     pw := match place with | some (pa, _) => some (pa / 4 + (x.1 - va / 4)) | none => h.pw
                     perm := match place with | some (_, perm) => perm | none => h.perm } s) s
  pure (watchHome a.cluster a.asid va n (breakAtHome a.cluster a.asid va n s))

/-- What one action of an atomic, `rsv` or `cmt` gives: the old value, the write to another device that is still to be sent, as its place
and its value, and the state. -/
abbrev Acted := Nat × Option (Nat × Nat) × State

/-- One action on a register of the Welt space, at its offset: the old value and the state (R412). -/
def actWelt (a : Agent) (writes : Bool) (off va n : Nat) (f : Nat → Option Nat) (s : State) : Run (Nat × State) := do
  let (_, _, s) ← placeFor a true writes va n s
  let old := cutBytes va n (weltWords s off n)
  .ok (old, match f old with | some x => weltWrite off n x s | none => s)

/-- One action at the cluster home on `n` bytes (R257, R258): the value there, and what `f` makes of it written. A word of the core's
own private object goes home first, a word that a core registered is recalled from it, and the protections and marks of the home
are met (R304, R309). -/
def actHome (a : Agent) (writes : Bool) (va n : Nat) (f : Nat → Option Nat) (s : State) : Run Acted := do
  let was := wordsOf va n
  checkHome a writes va n s
  match weltAt s a.asid va with
  | some off => (actWelt a writes off va n f s).map fun r => (r.1, none, r.2)
  | none =>
  let s ← orWait (settleOwn a was s)
  let (place, s) ← if !writes || classAt s a.asid va < 2 then .ok (none, s)
    else (placeNarrow a va n s).map fun r => (some (r.1, r.2.1), r.2.2)
  let (ws, s) ← readHome a 3 false va n s
  needSound ws
  let old := cutBytes va n (ws.map Prod.fst)
  let s := dropNear a was s
  match f old with
  | none => .ok (old, none, s)
  | some x =>
    (orWait (writeHome a va n place ((was.zip ws).map fun y => mergeWord va n x y.1 y.2.1) s)).map fun s =>
      (old, (place.filter fun p => isRemote p.1).map fun p => (p.1, x), s)

/-- One action at the bank on `n` bytes (R257, R258): what the agent's cluster holds of the words goes there first, every cluster whose
NARROW bit is set publishes, the value is read, what `f` makes of it written, and an action that writes invalidates the copies of the
clusters. `far` says what is done where another device is the home; it answers none where it only sent the action on. The answer also says where the bytes lie. -/
def actBank (a : Agent) (writes : Bool) (va n : Nat) (f : Nat → Option Nat) (far : Nat → State → Run (Option Nat × State)) (s : State) :
    Run (Option Nat × Nat × State) := do
  let was := wordsOf va n
  checkHome a writes va n s
  match weltAt s a.asid va with
  | some off => (actWelt a writes off va n f s).map fun r => (some r.1, 2 ^ 51 + off, r.2)
  | none =>
  let s ← orWait (settleOwn a was s)
  let s ← orWait (writeBackAll false (was.filterMap fun w => homeFind s a.cluster a.asid w) s)
  let (pa, _, s) ← placeFor a true writes va n s
  let near (s : State) : State :=
    dropHomes ((was.filterMap fun w => homeFind s a.cluster a.asid w).filter fun h => (homeDirty s h).isNone) (dropNear a was s)
  if isRemote pa then (far pa s).map fun r => (r.1, pa, near r.2)
  else
    await (!isOnWay s a.cluster (pa / 128))
    let s ← orWait (bankRead a.tile (pa / 128) none s)
    let pws := (List.range was.length).map fun i => pa / 4 + i
    needSound (pws.map fun p => (bankWord s p, isPoisoned s p))
    let old := cutBytes va n (pws.map (bankWord s))
    let s ← match f old with
      | none => .ok s
      | some x => orWait (publishNow (dieOfCore a.core)
          ((was.zip pws).map fun y => (y.2, mergeWord va n x y.1 (bankWord s y.2), false)) s)
    .ok (some old, pa, near (if writes then pws.foldl (fun s p => dropCopies p s) s else s))

/-- A thread's own read at the bank, checked as a load is checked: what it has posted to the bytes comes first (R201, R269). -/
def readCell (va n : Nat) (s : State) : Run (Nat × State) := do
  let a := s.th.agent
  checkAccess false va n s
  await (!(wordsOf va n).any (awaitsPosted s s.th (l1Core s a.core va)))
  let (x, _, s) ← actBank a false va n (fun _ => none) (fun pa s => do
    let (r, s) ← remoteCall pa 0x10 (accessFlags n a.topinf) [] s
    if r.1 ≠ 0 then .error (.endTask r.1)
    .ok (some (natOfBytes (r.2.take n)), s)) s
  .ok (x.getD 0, s)

/-- Words of 8 bytes read so. -/
def readAtBank (va n : Nat) (s : State) : Run (List Byte × State) :=
  (List.range (n / 8)).foldlM (fun r i => do
    let (x, s) ← readCell (va + 8 * i) 8 r.2
    .ok (r.1 ++ bytesOf 8 x, s)) ([], s)

/-- One action in the core's own L1 on `n` bytes (R257, R258): the word is made valid there, and what `f` makes of it written and
registered before the instruction ends, so that what follows it comes later at every observer (R278 to R280). -/
def actCore (va n : Nat) (f : Nat → Option Nat) (s : State) : Run Acted := do
  let t := s.th
  let a := t.agent
  let (ws, s) ← loadWords 1 .normal va n s
  let old := cutBytes va n ws
  match f old, weltAt s t.asid va with
  | none, _ => .ok (old, none, s)
  | some _, some off => (actWelt a true off va n f s).map fun r => (r.1, none, r.2)
  | some x, none =>
    let vals := storeVals va n x (ws.headD 0, false)
    if classAt s t.asid va = 0 then (writePrivate .normal va n vals s).map fun s => (old, none, s)
    else
      let (place, s) ← if classAt s t.asid va < 2 then (checkHome a true va n s).map fun _ => (none, s)
        else (placeNarrow a va n s).map fun r => (some (r.1, r.2.1), r.2.2)
      let p : Posted :=
        { thread := t.num, taskid := t.taskid, core := a.core, asid := t.asid, va := va, size := n, scope := 1
          kind := .store vals .normal, topinf := a.topinf, step := s.fresh }
      (orWait (registerNear p .normal place vals s)).map fun s =>
        (old, (place.filter fun q => isRemote q.1).map fun q => (q.1, x), s)

/-- A posted atomic of core scope: it executes in the L1, and what it wrote is registered like a store (R258, R276 note (b)). -/
def amoInL1 (op : Nat) (va n v c : Nat) (s : State) : Run State := do
  let (ws, s) ← loadWords 1 .normal va n s
  match amoValue op n (cutBytes va n ws) v c with
  | none => .ok s
  | some x => putWords 1 .normal va n (storeVals va n x (0, false)) s

/-- What an action near the core on a word of another device still sends there: the instruction then stands until all that the thread has
sent is acknowledged, and keeps what it returns (R258, R397) [DEDUCED, log 87]. -/
def sendActed (n : Nat) (result : Nat → Nat) (r : Acted) : Run (Nat × State) :=
  match r with
  | (old, none, s) => .ok (result old, s)
  | (old, some (pa, x), s) =>
    if isPeerUp s (remoteDevice pa) then
      let s : State := { s with th := { s.th with cntDevice := s.th.cntDevice + 1, acted := some (result old) } }
      .error (.waitIn (sendStore (.thread s.th.num s.th.taskid) (topinfOf s.th.fmode) pa (bytesOf n x) s))
    else .error (.endTask statusRemoteLost)

/-- An instruction that waits for its write to another device ends with its result; another one acts. -/
def orActed (act : State → Run (Nat × State)) (s : State) : Run (Nat × State) :=
  match s.th.acted with
  | some x => do
    await (s.th.cntDevice = 0)
    .ok (x, s)
  | none => act s

/-- An atomic that returns its old value, at the level where its scope lives (R258): the old value and the state. Operations under
way on its words, of the thread or of its siblings, and what the core has posted to where it acts come first (R276 to R280, R397). -/
def amoNow (lvl op ty : Nat) (va n v c : Nat) (s : State) : Run (Nat × State) :=
  let f (w : Nat) : Option Nat := amoValue op n w v c
  orActed (fun s => do
    let a := s.th.agent
    awaitOrder a va n s
    if lvl = 1 then (actCore va n f s).bind (sendActed n id)
    else if lvl < 5 then (actHome a true va n f s).bind (sendActed n id)
    else (actBank a true va n f (fun pa s => do
      let (r, s) ← remoteCall pa 0x14 (accessFlags n a.topinf + 16 * op + 256 * ty) (beats (bytesOf 8 v ++ bytesOf 8 c)) s
      if r.1 ≠ 0 then .error (.endTask r.1)
      .ok (some (natOfBytes (r.2.take n)), s)) s).map fun r => (r.1.getD 0, r.2.2)) s

/-! ### Reservations (R257) -/

/-- `rsv` (R257): the value at the reservation's level, with the reservation placed there. -/
def reserve (lvl : Nat) (va n : Nat) (s : State) : Run (Nat × State) := do
  checkAccess false va n s
  let a := s.th.agent
  let place (phys : Option Nat) (s : State) : State :=
    { s with th := { s.th with resv := some { addr := va, size := n, scope := lvl, phys := phys, since := 0 } } }
  if lvl = 1 then
    let (ws, s) ← loadWords 1 .normal va n s
    .ok (cutBytes va n ws, place none s)
  else
    awaitOrder a va n s
    if lvl = 3 then (actHome a false va n (fun _ => none) s).map fun r => (r.1, place none r.2.2)
    else (actBank a false va n (fun _ => none) (fun pa s => do
      let (r, s) ← remoteCall pa 0x16 (accessFlags n a.topinf) [] s
      if r.1 ≠ 0 then .error (.endTask r.1)
      .ok (some (natOfBytes (r.2.take n)), s)) s).map fun r => (r.1.getD 0, place (if isRemote r.2.1 then none else some (r.2.1 / 8)) r.2.2)

/-- `cmt` (R257): whether the store was made, and the state. The reservation is dropped either way. -/
def commit (lvl : Nat) (va n x : Nat) (s : State) : Run (Bool × State) := do
  checkAccess true va n s
  let a := s.th.agent
  let drop (s : State) : State := { s with th := { s.th with resv := none } }
  let isHeld := match s.th.resv with | some r => r.addr = va && r.size = n && r.scope = lvl | none => false
  if !isHeld && s.th.acted.isNone then .ok (false, drop s)
  else
    let (ok, s) ← orActed (fun s => do
      awaitOrder a va n s
      if lvl = 1 then (actCore va n (fun _ => some x) s).bind (sendActed n fun _ => 1)
      else if lvl = 3 then (actHome a true va n (fun _ => some x) s).bind (sendActed n fun _ => 1)
      else (actBank a true va n (fun _ => some x) (fun pa s => do
        let (r, s) ← remoteCall pa 0x17 (accessFlags n a.topinf) (beats (bytesOf n x)) s
        if r.1 = statusRemoteLost then .error (.endTask r.1)
        .ok (some r.1, s)) s).map fun r => (if !isRemote r.2.1 || r.1 = some 0 then 1 else 0, r.2.2)) s
    .ok (ok = 1, drop s)

/-! ### Posted operations at their homes (R256, R258, R265, R266) -/

/-- A posted operation whose access ends the task (R200, R249, R250): it is dropped, and its count ends. -/
def failPosted (i : Nat) (p : Posted) (status : Nat) (s : State) : State :=
  endTask p.taskid status (endCount p (s.onMem fun m => { m with posted := dropAt i m.posted }))

/-- What an access of a posted operation gives: it goes on, it waits, or it fails. -/
def orFail {α : Type} (i : Nat) (p : Posted) (s : State) (r : Run α) (f : α → Option State) : Option State :=
  match r with
  | .ok x => f x
  | .error (.endTask st) => some (failPosted i p st s)
  | .error _ => none

/-- A posted store at its home (the row GLOBAL_STORE_REGISTER). A narrow word is registered once the bank has set the NARROW bit, and
one whose home is the cluster at once; a wide store's words are sent to the bank, and registered when they are applied there (R266);
a store for another device is sent on, and one to the Welt register space is made there (R412). -/
def arriveStore (i : Nat) (p : Posted) (vals : List (Lane × Bool)) (cp : CachePolicy) (s : State) : Option State :=
  let cluster := clusterOfCore p.core
  let a := p.agent
  let gone (s : State) : State := s.onMem fun m => { m with posted := dropAt i m.posted }
  if p.sent.isSome then none
  else if classAt s p.asid p.va < 2 then
    orFail i p s (checkHome a true p.va p.size s) fun _ => (registerNear p cp none vals s).map fun s => endCount p (gone s)
  else orFail i p s (if 5 ≤ p.scope then placeFor a false true p.va p.size s else placeNarrow a p.va p.size s) fun (pa, perm, s) =>
    if isWelt pa then some (endCount p (gone (weltWrite (pa - 2 ^ 51) p.size (cutBytes p.va p.size (vals.map Prod.fst)) s)))
    else if isRemote pa then do
      let s ← registerNear p cp (some (pa, perm)) vals s
      pure (sendStore (.thread p.thread p.taskid) p.topinf pa (bytesOf p.size (cutBytes p.va p.size (vals.map Prod.fst)))
        (countRemote p (gone s)))
    else if 5 ≤ p.scope then do
      let s ← roomSlice cluster p.asid (p.va / 4) s
      let s := (wordsOf p.va p.size).foldl (fun s w =>
        homePut { homeGet s cluster p.asid w with pw := some (pa / 4 + (w - p.va / 4)), perm := perm } s) s
      let (seq, deps, s) ← takeSeq (cluster / 4) s
      let words := (List.range vals.length).zip vals |>.map fun x => (pa / 4 + x.1, x.2)
      pure (s.onMem fun m =>
        { m with
          pubs := m.pubs ++ [{ die := cluster / 4, seq := seq, cluster := cluster, words := words, deps := deps
                               registration := registrationOf s cluster (pa / 128) }]
          posted := m.posted.set i { p with sent := some (cluster / 4, seq) } })
    else (registerNear p cp (some (pa, perm)) vals s).map fun s => endCount p (gone s)

/-- What a posted atomic at the cluster home first asks another device for: the words that the home lacks of a line homed there
(R396). It answers the state in which the action can be made, or (left) the state to go on from. -/
def askRemote (i : Nat) (p : Posted) (s : State) : Option (State ⊕ State) :=
  let a := p.agent
  let was := wordsOf p.va p.size
  let lost (s : State) : State :=
    (endCount p (s.onMem fun m => { m with posted := dropAt i m.posted })).onThreads (isContext p.thread p.taskid)
      fun t => { t with derr := true }
  if !isFar s p.asid p.va || was.all (fun w => homeRead s a.cluster 3 (l1Core s p.core p.va) p.asid w ≠ .miss) then some (.inr s)
  else match placeFor a true true p.va p.size s with
    | .error (.endTask st) => some (.inl (failPosted i p st s))
    | .error _ => none
    | .ok (pa, perm, s) =>
      match p.sent with
      | none =>
        if !isPeerUp s (remoteDevice pa) then some (.inl (lost s))
        else
          let tag := s.fab.tag
          let r := fabSend (remoteDevice pa) 0x10 (BitVec.ofNat 16 (accessFlags (4 * was.length) p.topinf)) 0 tag (pa % 2 ^ 40) [] s
          some (.inl { r.1 with
            fab := { r.1.fab with tag := tag + 1 }
            mem := { r.1.mem with posted := r.1.mem.posted.set i { p with sent := some (remoteDevice pa, tag) } } })
      | some (peer, tag) => match s.fab.replies.find? fun r => r.1 = tag with
        | none => if isPeerUp s peer then none else some (.inl (lost s))
        | some (_, st, bs) =>
          if st ≠ 0 then some (.inl (failPosted i p st s))
          else (roomSlice a.cluster p.asid (p.va / 4) s).map fun s =>
            .inr (fillRemote a was pa perm bs (s.onFab fun f => { f with replies := f.replies.filter fun r => r.1 ≠ tag }))

/-- A posted atomic at its home (R258): at the bank, sent on to another device, or at the cluster home. -/
def arriveAmo (i : Nat) (p : Posted) (op ty : Nat) (v : Word) (s : State) : Option State :=
  let a := p.agent
  let v := v.toNat % 2 ^ (8 * p.size)
  let f (w : Nat) : Option Nat := amoValue op p.size w v 0
  let gone (s : State) : State := s.onMem fun m => { m with posted := dropAt i m.posted }
  if 5 ≤ p.scope then
    orFail i p s (actBank a true p.va p.size f (fun pa s => .ok (none, sendAmo pa v (gone s))) s) fun r =>
      some (if r.1.isSome then endCount p (gone r.2.2) else r.2.2)
  else (askRemote i p s).bind fun
    | .inl s => some s
    | .inr s => orFail i p s (actHome a true p.va p.size f s) fun (_, far, s) => some (match far with
      | none => endCount p (gone s)
      | some (pa, x) => sendStore (.thread p.thread p.taskid) p.topinf pa (bytesOf p.size x) (countRemote p (gone s)))
where
  sendAmo (pa v : Nat) (s : State) : State :=
    let peer := remoteDevice pa
    if isPeerUp s peer then
      let tag := s.fab.tag
      let fl := accessFlags p.size p.topinf + 16 * op + 256 * ty + 1024
      let r := fabSend peer 0x14 (BitVec.ofNat 16 fl) 0 tag (pa % 2 ^ 40) (beats (bytesOf 8 v ++ bytesOf 8 0)) (countRemote p s)
      countSent peer (2 ^ 32 + tag) (.thread p.thread p.taskid) (r.1.onFab fun f => { f with tag := tag + 1 })
    else (endCount p s).onThreads (isContext p.thread p.taskid) fun t => { t with derr := true }

/-- A posted operation arrives at its home (the row GLOBAL_STORE_REGISTER). None where it must wait. [DEDUCED, log 38] -/
def arrivePosted (i : Nat) (p : Posted) (s : State) : Option State :=
  if !postedFirst s i p then none
  else match p.kind with
    | .store vals cp => arriveStore i p vals cp s
    | .amo op ty v => arriveAmo i p op ty v s

/-- The posted store whose words a publish carries. -/
def storeOf (p : Publish) (s : State) : Option (Nat × Posted) :=
  ((List.range s.mem.posted.length).zip s.mem.posted).find? fun q => q.2.sent = some (p.die, p.seq) &&
    (match q.2.kind with | .store _ _ => true | _ => false)

/-- A publish applies at its bank (the row PUBLISH_APPLY): in order within a line, once its dependencies are met; the store whose
words it carries is then registered, and its count ends (R266); of a word that its home sent ahead, the home has a clean copy, unless it
holds a newer value. None where it must wait. [DEDUCED, log 21] -/
def applyPublish (i : Nat) (p : Publish) (s : State) : Option State := do
  let meets (q : Publish) : Bool := q.words.any fun a => p.words.any fun b => a.1 / 32 = b.1 / 32
  if (s.mem.pubs.take i).any meets || p.refused || !depsMet s p.die p.deps then none
  let s ← roomFor (p.words.map Prod.fst) s
  let s := watchWords false (p.words.map Prod.fst) (markApplied p.die p.seq (bankApply p.die p.seq p.words s))
  let s := s.onMem fun m => { m with pubs := dropAt i m.pubs }
  let s := p.words.foldl (fun s w => setPresent p.cluster (w.1 / 32) s) s
  match storeOf p s with
  | none => pure (p.words.foldl (fun s w =>
      match s.mem.slices.find? fun h => h.cluster = p.cluster && h.pw = some w.1 && homeDirty s h = some w.2 with
      | some h => markPublished h w.2.1 s
      | none => s) s)
  | some (k, q) =>
    let perm := match homeFind s p.cluster q.asid (q.va / 4), walk s q.asid q.va with
      | some h, _ => h.perm
      | none, .page _ _ _ rd wr ex _ => permOf rd wr ex
      | none, _ => 0
    let place := p.words.head?.map fun w => (4 * w.1 + q.va % 4, perm)
    match q.kind with
    | .store vals cp =>
      let s ← registerStore q .wide cp place vals s
      pure (endCount q (s.onMem fun m => { m with posted := dropAt k m.posted }))
    | _ => pure s

/-! ### Acquire and release (R261) -/

/-- The L1 words that an acquire or release of a core acts on: its own L1, in a fused cluster the whole fused L1 (R241). -/
def isInReach (s : State) (core : Nat) (w : L1Word) : Bool :=
  if isFused s (clusterOfCore core) then clusterOfCore w.core = clusterOfCore core else w.core = core

/-- The words of a cluster's slices for another device sent there, and counted in the thread's remote-device class (R261, R396). -/
def sendFar (cluster : Nat) (s : State) : State :=
  (s.mem.slices.filter fun h => h.cluster = cluster && h.pw.any fun p => isRemote (4 * p)).foldl (fun s h =>
    match sliceDirty h, h.pw with
    | some (v, _), some pw =>
      let s : State := { s with th := { s.th with cntDevice := s.th.cntDevice + 1 } }
      let s := sendStore (.thread s.th.num s.th.taskid) h.topinf (4 * pw) (bytesOf 4 v.toNat) s
      if h.owner.isSome then homePut { h with dirty := false } s else markPublished h v s
    | _, _ => s) s

/-- The cache action of a release at a level, once its counts are zero (R261). -/
def releaseAt (lvl : Nat) (s : State) : Run State := do
  await (s.th.cntGlobal = 0 && s.th.cntRemote = 0)
  if lvl < 3 then .ok s
  else
    let core := coreOf s.th.num
    let cluster := clusterOfCore core
    let ws := s.mem.l1.filter fun w => isInReach s core w && coreOf w.writer = core && w.dirty && classAt s w.asid (4 * w.wa) ≠ 0
    let s ← orWait (l1WriteBack ws s)
    if lvl < 5 then .ok s
    else
      let s := sendFar cluster s
      let s ← orWait (writeBackAll true (s.mem.slices.filter fun h => h.cluster = cluster && h.dirty) s)
      let s := clearNarrow cluster s
      if lvl < 6 || s.th.cntDevice = 0 then .ok s else .error (.waitIn s)

/-- Every clean cached copy of a line homed on another device dropped, in all L1s and slices of the device (R261). -/
def dropFar (s : State) : State :=
  let goes (w : L1Word) : Bool := !w.dirty && isFar s w.asid (4 * w.wa)
  let gone := s.mem.l1.filter goes
  let hs := s.mem.slices.filter fun h => (homeDirty s h).isNone && isFar s h.asid (4 * h.wa)
  dropHomes hs (gone.foldl (fun s w => breakAtL1 w.core w.asid (4 * w.wa) 4 (l1Drop w.core w.asid w.wa s)) s)

/-- The cache action of an acquire at a level (R261, R241). A device-scope acquire also drops the words that this core
registered and that the bank already has, and marks such words of the cluster's other cores stale in the slice, which serves them
from then on [DEDUCED, log 32]. A domain-scope acquire drops every copy of a line homed on another device. -/
def acquireAt (lvl : Nat) (s : State) : State :=
  if lvl < 3 then s
  else
    let core := coreOf s.th.num
    let cluster := clusterOfCore core
    let fused := isFused s cluster
    let goes (w : L1Word) : Bool :=
      isInReach s core w && !w.dirty && match classAt s w.asid (4 * w.wa) with
        | 1 => !fused && !w.registered
        | 2 => 5 ≤ lvl || !w.registered
        | _ => false
    let gone := s.mem.l1.filter goes
    let s := s.onMem fun m =>
      { m with
        l1 := m.l1.filter fun w => !goes w
        slices := m.slices.map fun h =>
          if h.cluster = cluster && gone.any (fun w => h.owner = some w.core && h.asid = w.asid && h.wa = w.wa) then
            { h with owner := none }
          else h }
    let s := gone.foldl (fun s w => breakAtL1 w.core w.asid (4 * w.wa) 4 s) s
    let isClean (h : SliceWord) : Bool :=
      h.cluster = cluster && (homeDirty s h).isNone && classAt s h.asid (4 * h.wa) = 2
    let s := if lvl < 5 then s
      else
        let hs := s.mem.slices.filter isClean
        s.onMem fun m =>
          { m with
            slices := m.slices.map fun h => if isClean h then { h with stale := true, owner := none } else h
            l1 := m.l1.map fun w =>
              if hs.any fun h => h.owner = some w.core && h.asid = w.asid && h.wa = w.wa then { w with registered := false } else w }
    if lvl < 6 then s else dropFar s

/-- An acquire by a thread: the cache action, and its next taken transfer of control drops what it fetched ahead (R53). -/
def acquire (lvl : Nat) (s : State) : State :=
  let s := acquireAt lvl s
  { s with th := { s.th with acquired := true } }

/-! ### Whole ranges (R262, R263, R304) -/

/-- Every dirty copy of a set of lines of an address space written back, and every copy invalidated, in all L1s and slices
of the device. None where it must wait. -/
def flushLines (asid : Nat) (covers : Nat → Bool) (s : State) : Option State := do
  let s ← emptyL1 (fun w => w.asid = asid && covers (4 * w.wa)) s
  let hs := s.mem.slices.filter fun h => h.asid = asid && covers (4 * h.wa)
  if s.mem.pubs.any fun p => p.words.any fun w => hs.any fun h => h.pw = some w.1 then none
  let s ← writeBackAll false hs s
  let s := dropHomes (s.mem.slices.filter fun h => h.asid = asid && covers (4 * h.wa)) s
  pure ((List.range 32).foldl (fun s c => clearNarrow c s) s)

end Sys2Proof.Machine
end

