-- ==== Sys2Proof/Machine/Scratch.lean ====
section
/-! DEFINITION. Scratch partitions in the unified arrays (R236 to R239): bytes, full bits and pending engine writers. A byte
of an array is numbered core · 327,680 + its place; a granule is numbered core · 20,480 + its place over 16. -/

namespace Sys2Proof.Machine

/-- The array byte at an offset of a thread's partition (R31). -/
def scratchKey (t : Thread) (o : Nat) : Nat := coreOf t.num * 327680 + t.spbase.toNat + o

/-- One array byte; a byte that nothing has written reads as a free value (R238). -/
def scratchByte (s : State) (key : Nat) : Byte := (lookup key s.mem.scratch).getD (Config.freeByte s.fresh key)

/-- `n` array bytes from a key up. -/
def scratchBytes (s : State) (key n : Nat) : List Byte := (List.range n).map fun i => scratchByte s (key + i)

/-- The number that `n` array bytes hold (R7). -/
def scratchNat (s : State) (key n : Nat) : Nat := natOfBytes (scratchBytes s key n)

/-- The word number under which an array word is poisoned (R245). -/
def scratchPoison (key : Nat) : Nat := 2 ^ 50 + key / 4

/-- Whether any of `n` array bytes is poisoned. -/
def scratchPoisoned (s : State) (key n : Nat) : Bool :=
  s.mem.poison.any fun p => 2 ^ 50 ≤ p && 4 * (p - 2 ^ 50) < key + n && key < 4 * (p - 2 ^ 50) + 4

/-- Bytes written into an array from a key up; a word wholly overwritten is poisoned no longer (R245). -/
def scratchPut (key : Nat) (bs : List Byte) (s : State) : State :=
  s.onMem fun m =>
    { m with
      scratch := (bs.zip (List.range bs.length)).foldl (fun sc x => insert (key + x.2) x.1 sc) m.scratch
      poison := m.poison.filter fun p =>
        !(2 ^ 50 ≤ p && key ≤ 4 * (p - 2 ^ 50) && 4 * (p - 2 ^ 50) + 4 ≤ key + bs.length) }

/-- Bytes that the device itself writes to memory; a word wholly overwritten is poisoned no longer (R245). -/
def putMemory (pa : Nat) (bs : List Byte) (s : State) : State :=
  s.onMem fun m =>
    { m with
      dram := writeBytes m.dram pa bs
      poison := m.poison.filter fun p => !(pa ≤ 4 * p && 4 * p + 4 ≤ pa + bs.length) }

/-- The granule of an array byte. -/
def granuleOf (key : Nat) : Nat := key / 327680 * 20480 + key % 327680 / 16

/-- The full bit of the granule that holds an array byte (R96). -/
def isFull (s : State) (key : Nat) : Bool := s.mem.full.contains (granuleOf key)
/-- A full bit set or cleared directly (R313). -/
def setFull (key : Nat) (s : State) : State := s.onMem fun m => { m with full := insertKey (granuleOf key) m.full }
@[inherit_doc setFull] def clearFull (key : Nat) (s : State) : State :=
  s.onMem fun m => { m with full := m.full.filter fun g => g ≠ granuleOf key }

/-- The granules, by a byte of each, that `n` bytes from a key touch. -/
def granulesOf (key n : Nat) : List Nat :=
  if n = 0 then [] else (List.range ((key % 16 + n + 15) / 16)).map fun i => key / 16 * 16 + 16 * i

/-- An engine writer becomes pending on a granule: its bit is cleared and its count rises (R42, R313). -/
def addPending (key : Nat) (s : State) : State :=
  (clearFull key s).onMem fun m => { m with pending := countUp (granuleOf key) 1 m.pending }

/-- An engine writer is no longer pending on a granule; the bit is set when the count reaches 0 (R313). -/
def endPending (key : Nat) (s : State) : State :=
  let g := granuleOf key
  let n := (lookup g s.mem.pending).getD 0
  if n ≤ 1 then setFull key (s.onMem fun m => { m with pending := remove g m.pending })
  else s.onMem fun m => { m with pending := insert g (n - 1) m.pending }

/-! ### Checks of a thread's own accesses (R31, R96) -/

/-- ALIGN SCRATCH unless the offset is a multiple. -/
def needAligned (o n : Nat) : Run Unit := require (o % n = 0) clsAlign 0 (BitVec.ofNat 64 o)
/-- SCRATCH BOUND unless `n` bytes at the offset lie in the partition. -/
def needBound (t : Thread) (o n : Nat) : Run Unit := require (o + n ≤ t.spsize.toNat) clsScratch 0 (BitVec.ofNat 64 o)

/-- A read by the thread of its own partition; poisoned data ends the task (R245). -/
def readScratch (o n : Nat) (s : State) : Run (List Byte) :=
  let k := scratchKey s.th o
  if scratchPoisoned s k n then .error (.endTask statusPoison) else .ok (scratchBytes s k n)

/-- A write by the thread into its own partition. -/
def writeScratch (o : Nat) (bs : List Byte) (s : State) : State := scratchPut (scratchKey s.th o) bs s

/-- A vector value as bytes and back (R134). -/
def bytesOfLanes (v : Lanes) : List Byte := v.toList.flatMap fun l => bytesOf 4 l.toNat

/-- Lanes from a function of the lane number. -/
def lanesFrom (f : Nat → Lane) : Lanes := Vector.ofFn fun i => f i.val

@[inherit_doc bytesOfLanes] def lanesOfBytes (bs : List Byte) : Lanes :=
  lanesFrom fun i => BitVec.ofNat 32 (natOfBytes ((bs.drop (4 * i)).take 4))

/-- A lane of a vector value. -/
def lane (v : Lanes) (i : Nat) : Lane := (v[i]?).getD 0

end Sys2Proof.Machine
end

