-- ==== Sys2Proof/Machine/Operands.lean ====
section
/-! DEFINITION. Operand forms: counted waits (R58, R46), handles (R23, R59), bound stream operands (R22, R156), governing
predicates (R62, R136), and the shared shapes of scalar and vector instructions. -/

namespace Sys2Proof.Machine

/-! ### Immediates and addresses (R55, R6) -/

/-- An immediate of 14 bits sign-extended (R55). -/
def imm14 (i : BitVec 14) : Word := i.signExtend 64
/-- An immediate of 32 bits sign-extended. -/
def imm32 (i : BitVec 32) : Word := i.signExtend 64
/-- The target of a word offset from the instruction: T(x). -/
def State.target (s : State) (x : Int) : Word := s.th.pc + BitVec.ofInt 64 (4 * x)

/-! ### Scalar shapes (R82, R83) -/

/-- dA receives a function of one source. -/
def scalar1 (len : Nat) (a b : DReg) (f : Word → Word) (s : State) : Run State :=
  .ok ((s.setD a (f (s.getD b))).advance len)
/-- dA receives a function of two sources. -/
def scalar2 (len : Nat) (a b c : DReg) (f : Word → Word → Word) (s : State) : Run State :=
  .ok ((s.setD a (f (s.getD b) (s.getD c))).advance len)
/-- dA receives a function of a source and a constant (R83). -/
def scalarK (len : Nat) (a b : DReg) (k : Word) (f : Word → Word → Word) (s : State) : Run State :=
  .ok ((s.setD a (f (s.getD b) k)).advance len)
/-- A division: the result, and DZ when the divisor is 0 (R85). -/
def scalarDiv (len : Nat) (a b : DReg) (k : Word) (f : Word → Word → DivResult) (s : State) : Run State :=
  let r := f (s.getD b) k
  .ok (((s.setD a r.value).raise { dz := r.dz }).advance len)

/-! ### Counted waits (R46, R58, R310, R400) -/

/-- REMOTE_REJECT at a wait on the remote-scratch class: commands refused since the bit was last clear (R310, R336).
[DEDUCED, log 54] -/
def rejectScratch (t : Thread) : Run Unit := require (!t.rerr) clsRemoteReject 0 (BitVec.ofNat 64 t.refused)
/-- REMOTE_REJECT at a wait on the remote-device class (R400). -/
def rejectDevice (t : Thread) : Run Unit := require (!t.derr) clsRemoteReject 0 (BitVec.ofNat 64 t.refused)

/-- The wait that the W field names (R58): the count of its class is zero, and its remote-error bit is clear. -/
def waitClass (w : WClass) (s : State) : Run Unit := do
  match w with
  | .none => .ok ()
  | .wrs => await (s.th.cntRemote = 0); rejectScratch s.th
  | .wgs => await (s.th.cntGlobal = 0)
  | .wrd => await (s.th.cntDevice = 0); rejectDevice s.th

/-! ### Handles (R23, R59, R298 to R300) -/

/-- The number of a handle of the thread's tile: 64 · tile + h. -/
def handleKey (t : Thread) (h : Nat) : Nat := 64 * tileOfCore (coreOf t.num) + h

/-- The checks of R23 on an entry of a tile for a task: a defined entry, a need within its slots, an entry of the same
task. -/
def handleEntryAt (tile h need task : Nat) (s : State) : Run HandleEnt :=
  match lookup (64 * tile + h) s.eng.handles with
  | none => .error (.trap clsHandle 0 (BitVec.ofNat 64 h))
  | some e =>
    if e.slots.length < need then .error (.trap clsHandle 1 (BitVec.ofNat 64 h))
    else if e.task ≠ task then .error (.trap clsHandle 2 (BitVec.ofNat 64 h))
    else .ok e

/-- The checks of R23 on an operand of the thread. -/
def handleEntry (h need : Nat) (s : State) : Run HandleEnt :=
  handleEntryAt (tileOfCore (coreOf s.th.num)) h need s.th.taskid s

/-- Full and free slots of an entry. -/
def HandleEnt.full (e : HandleEnt) : Nat := (e.slots.filter fun x => x = .full).length
@[inherit_doc HandleEnt.full] def HandleEnt.free (e : HandleEnt) : Nat := (e.slots.filter fun x => x = .free).length

/-- The trap that reports an engine status (R288, R336): TOPCODE and ACHK in classes of their own. -/
def engineTrap (status : Nat) (addr : Word) : Stop :=
  if status = 2 then .trap clsTopcode 2 addr else .trap clsEngine status addr

/-- A wait through a handle that fewer than `need` slots satisfy traps on a failed engine operation, else blocks (R300). -/
def handleWait (e : HandleEnt) (have' need : Nat) : Run Unit :=
  if need ≤ have' then .ok ()
  else if e.fail ≠ 0 then .error (engineTrap e.fail (BitVec.ofNat 64 e.failNum)) else .error .block

/-- The handle checks of an access (R59), made with the other checks. -/
def checkHandle (h : HNeed) (s : State) : Run Unit :=
  match h with
  | none => .ok ()
  | some (h, n) => (handleEntry h.toNat n.toNat s).map fun _ => ()

/-- The wait of an access through its handle: a load consumes, a store or atomic produces; a consuming wait acquires at tile scope
once it is satisfied, whatever its need (R59, R298, R300). -/
def waitHandle (consumes : Bool) (h : HNeed) (s : State) : Run State :=
  match h with
  | none => .ok s
  | some (h, n) =>
    match handleEntry h.toNat n.toNat s with
    | .error e => .error e
    | .ok e => (handleWait e (if consumes then e.full else e.free) n.toNat).map fun _ => if consumes then acquire 3 s else s

/-! ### Governing predicates (R62, R136) -/

/-- The lanes that execute. -/
def govMask (t : Thread) (g : Gov) : Lane := match g with | none => BitVec.allOnes 32 | some p => t.getP p

/-! ### Bound stream operands (R22, R137, R156) -/

/-- The binding of a vector register, if it is bound. -/
def bindingOf (t : Thread) (n : VReg) : Option Binding :=
  if 24 ≤ n.toNat then (t.binds[n.toNat - 24]?).getD none else none

/-- The offset of an element of a binding's pattern. -/
def Binding.offset (b : Binding) (i : Nat) : Int := b.base + i * b.stride

/-- One pop or append of a bound operand: the register, the binding, the element, and whether it appends. -/
structure StreamUse where
  reg : VReg
  bind : Binding
  elem : Nat
  appends : Bool

/-- The uses an instruction makes of its bound operands, in the order they are checked: the destination first, its own pop
before its append, then the other sources, each popped once (R22, R36). -/
def streamUses (t : Thread) (dst : Option VReg) (srcs : List VReg) : List StreamUse :=
  let pops (r : VReg) : List StreamUse := match bindingOf t r with | some b => [⟨r, b, b.pos, false⟩] | none => []
  let first := match dst with
    | none => []
    | some d =>
      match bindingOf t d with
      | none => []
      | some b => if srcs.contains d then pops d ++ [⟨d, b, b.pos + 1, true⟩] else [⟨d, b, b.pos, true⟩]
  first ++ (srcs.eraseDups.filter fun r => some r ≠ dst).flatMap pops

/-- The bound check of a use (class SCRATCH). -/
def StreamUse.bound (u : StreamUse) (t : Thread) : Run Unit :=
  let o := u.bind.offset u.elem
  require (u.bind.count ≤ u.elem || (0 ≤ o && o + 128 ≤ t.spsize.toNat)) clsScratch 0 (BitVec.ofInt 64 o)
/-- The count check of a use (class STREAM_END). -/
def StreamUse.ends (u : StreamUse) : Run Unit :=
  require (u.elem < u.bind.count) clsStreamEnd ((if u.appends then 4 else 0) + u.bind.gen)

/-- Every check of every bound operand, bounds before ends (R36, R156). -/
def checkStreams (us : List StreamUse) (t : Thread) : Run Unit := do
  us.forM fun u => u.bound t
  us.forM fun u => u.ends

/-- The key of a use's element. -/
def StreamUse.key (u : StreamUse) (t : Thread) : Nat := scratchKey t (u.bind.offset u.elem).toNat

/-- Pops wait until the full bits of their elements are set. -/
def waitPops (us : List StreamUse) (s : State) : Run Unit :=
  blockUntil (us.all fun u => u.appends || (granulesOf (u.key s.th) 128).all fun k => isFull s k)

/-- The value of a vector source: the next element of a bound register's pattern, else the register. -/
def readVec (s : State) (n : VReg) : Lanes :=
  match bindingOf s.th n with
  | some b => lanesOfBytes (scratchBytes s (scratchKey s.th (b.offset b.pos).toNat) 128)
  | none => s.th.getV n

/-- A binding's position moved on. -/
def stepBinding (n : VReg) (s : State) : State :=
  { s with th := { s.th with binds := onVec s.th.binds (n.toNat - 24) fun b => b.map fun b => { b with pos := b.pos + 1 } } }

/-- The executing lanes of a vector destination written: appended to a bound register's pattern (R137), or into the
register. -/
def writeVec (n : VReg) (mask : Lane) (x : Nat → Lane) (s : State) : State :=
  match bindingOf s.th n with
  | some b =>
    let k := scratchKey s.th (b.offset b.pos).toNat
    let s := (List.range 32).foldl (fun s i =>
      if mask.getLsbD i then scratchPut (k + 4 * i) (bytesOf 4 (x i).toNat) s else s) s
    stepBinding n ((granulesOf k 128).foldl (fun s g => setFull g s) s)
  | none =>
    let old := s.th.getV n
    { s with th := s.th.setV n (lanesFrom fun i => if mask.getLsbD i then x i else lane old i) }

/-- The pops of an instruction take effect. -/
def takePops (us : List StreamUse) (s : State) : State :=
  us.foldl (fun s u => if u.appends then s else stepBinding u.reg s) s

/-- Poisoned elements end the task (R245). -/
def poisonPops (us : List StreamUse) (s : State) : Run Unit :=
  if us.any fun u => !u.appends && scratchPoisoned s (u.key s.th) 128 then .error (.endTask statusPoison) else .ok ()

/-- The bound operands of an instruction checked, waited for and popped: the state after the pops. The sources keep the
values `readVec` gives in the state before. -/
def useStreams (dst : Option VReg) (srcs : List VReg) (s : State) : Run State := do
  let us := streamUses s.th dst srcs
  checkStreams us s.th
  waitPops us s
  poisonPops us s
  .ok (takePops us s)

/-! ### Vector shapes (R135, R136) -/

/-- A lane result without flags. -/
def plainLane (x : Lane) : LaneResult := ⟨x, {}⟩

/-- The flags of the executing lanes ORed together (R128). -/
def laneFlags (mask : Lane) (f : Nat → LaneResult) : Flags :=
  (List.range 32).foldl (fun fl i => if mask.getLsbD i then fl.or (f i).flags else fl) {}

/-- A vector destination computed lane by lane; excluded lanes keep their contents and raise no flag. -/
def vectorWrite (len : Nat) (a : VReg) (g : Gov) (f : Nat → LaneResult) (s0 s : State) : State :=
  let mask := govMask s0.th g
  ((writeVec a mask (fun i => (f i).lane) s).raise (laneFlags mask f)).advance len

/-- vA from one vector source. -/
def vector1 (len : Nat) (a b : VReg) (g : Gov) (f : Lane → LaneResult) (s : State) : Run State := do
  let t ← useStreams (some a) [b] s
  let x := readVec s b
  .ok (vectorWrite len a g (fun i => f (lane x i)) s t)
/-- vA from two vector sources. -/
def vector2 (len : Nat) (a b c : VReg) (g : Gov) (f : Lane → Lane → LaneResult) (s : State) : Run State := do
  let t ← useStreams (some a) [b, c] s
  let x := readVec s b
  let y := readVec s c
  .ok (vectorWrite len a g (fun i => f (lane x i) (lane y i)) s t)
/-- vA from three vector sources. -/
def vector3 (len : Nat) (a b c d : VReg) (g : Gov) (f : Lane → Lane → Lane → LaneResult) (s : State) : Run State := do
  let t ← useStreams (some a) [b, c, d] s
  let x := readVec s b
  let y := readVec s c
  let z := readVec s d
  .ok (vectorWrite len a g (fun i => f (lane x i) (lane y i) (lane z i)) s t)
/-- vA from whole vector values, lane number by lane number. -/
def vectorWhole (len : Nat) (a : VReg) (srcs : List VReg) (g : Gov) (f : List Lanes → Nat → Lane) (s : State) : Run State := do
  let t ← useStreams (some a) srcs s
  let xs := srcs.map (readVec s)
  .ok (vectorWrite len a g (fun i => plainLane (f xs i)) s t)

/-- A predicate destination written bit by bit in the executing lanes. -/
def vectorPred (len : Nat) (a : PReg) (b c : VReg) (g : Gov) (f : Lane → Lane → Bool × Flags) (s : State) : Run State := do
  let t ← useStreams none [b, c] s
  let x := readVec s b
  let y := readVec s c
  let mask := govMask s.th g
  let old := s.th.getP a
  let r := (List.range 32).foldl (fun n i =>
    if (if mask.getLsbD i then (f (lane x i) (lane y i)).1 else old.getLsbD i) then n + 2 ^ i else n) 0
  .ok (((t.setP a (BitVec.ofNat 32 r)).raise (laneFlags mask fun i => ⟨0, (f (lane x i) (lane y i)).2⟩)).advance len)

/-- dA receives a reduction over the executing lanes, extended by the type (R143, R144). -/
def vectorReduce (len : Nat) (a : DReg) (b : VReg) (unsigned : Bool) (g : Gov) (init : Lane) (f : Lane → Lane → Lane)
    (s : State) : Run State := do
  let t ← useStreams none [b] s
  let x := readVec s b
  let mask := govMask s.th g
  let r := (List.range 32).foldl (fun acc i => if mask.getLsbD i then f acc (lane x i) else acc) init
  .ok ((t.setD a (if unsigned then r.zeroExtend 64 else r.signExtend 64)).advance len)

end Sys2Proof.Machine
end

