-- ==== Sys2Proof/Machine/Control.lean ====
section
/-! DEFINITION. The meanings of majors 0x10 to 0x13 (R90 to R95): branches, calls, jumps and hardware loops. -/

namespace Sys2Proof.Machine

/-- A conditional branch: a taken one goes to T(offset), an untaken one to the next instruction (R90). -/
def branch (len : Nat) (taken : Bool) (off : Int) (s : State) : Run State :=
  .ok (if taken then s.jump (s.target off) else s.advance len)

/-- A transfer to a register's value: IFETCH ALIGN unless it is a multiple of 4, before the link is written (R91). -/
def jumpTo (t : Word) (link : Option Word) (s : State) : Run State := do
  require (t.toNat % 4 = 0) clsIfetch 3 t
  .ok ((match link with | some l => s.setD 1 l | none => s).jump t)

/-- `loop` (R93): LOOP DEPTH at level 4; a count of 0 goes behind the `lend`; else the next level opens with its frame
zero. -/
def loopWith (len : Nat) (a : DReg) (off : Nat) (s : State) : Run State := do
  let n := s.getD a
  require (s.th.lvl < 4) clsLoop 0
  let e := s.th.pc + BitVec.ofNat 64 (4 * off)
  if n = 0 then .ok (s.setPc (e + 4))
  else
    let l := s.th.lvl + 1
    let start := s.th.pc + BitVec.ofNat 64 len
    let d := (List.range 8).foldl (fun (d : Vector Word 64) i => d.setIfInBounds (24 + 8 * l + i) 0) s.th.d
    .ok { s with th := { s.th with
      d := d
      lvl := l
      loops := s.th.loops.setIfInBounds (l - 1) { start := start, stop := e, count := n, index := 0 }
      pc := start } }

/-- The loop state of the current level. -/
def loopState (s : State) : LoopState := (s.th.loops[s.th.lvl - 1]?).getD {}

/-- `beq` (R90). -/
def execBeq (a b : DReg) (o : BitVec 14) (s : State) : Host.Outcome State Fault Refusal :=
  finishRun s (branch 4 (s.getD a == s.getD b) o.toInt s)

/-- `bne` (R90). -/
def execBne (a b : DReg) (o : BitVec 14) (s : State) : Host.Outcome State Fault Refusal :=
  finishRun s (branch 4 (s.getD a != s.getD b) o.toInt s)

/-- `call` (R91): the short form. -/
def execCall (o : BitVec 24) (s : State) : Host.Outcome State Fault Refusal :=
  finishRun s (.ok ((s.setD 1 (s.th.pc + 4)).setPc (s.target o.toInt)))

/-- `blt` (R90). -/
def execBlt (a b : DReg) (i : BitVec 32) (s : State) : Host.Outcome State Fault Refusal :=
  finishRun s (branch 12 (compareInt .lt (s.getD a) (s.getD b)) i.toInt s)

/-- `bge` (R90). -/
def execBge (a b : DReg) (i : BitVec 32) (s : State) : Host.Outcome State Fault Refusal :=
  finishRun s (branch 12 (compareInt .ge (s.getD a) (s.getD b)) i.toInt s)

/-- `bltn` (R90). -/
def execBltn (a b : DReg) (i : BitVec 32) (s : State) : Host.Outcome State Fault Refusal :=
  finishRun s (branch 12 (compareInt .ltn (s.getD a) (s.getD b)) i.toInt s)

/-- `bgen` (R90). -/
def execBgen (a b : DReg) (i : BitVec 32) (s : State) : Host.Outcome State Fault Refusal :=
  finishRun s (branch 12 (compareInt .gen (s.getD a) (s.getD b)) i.toInt s)

/-- `beq` in the X form (R90). -/
def execBeqX (a b : DReg) (i : BitVec 32) (s : State) : Host.Outcome State Fault Refusal :=
  finishRun s (branch 12 (s.getD a == s.getD b) i.toInt s)

/-- `bne` in the X form (R90). -/
def execBneX (a b : DReg) (i : BitVec 32) (s : State) : Host.Outcome State Fault Refusal :=
  finishRun s (branch 12 (s.getD a != s.getD b) i.toInt s)

/-- `bpt` (R90): taken when bit 0 of the predicate is 1. -/
def execBpt (a : PReg) (i : BitVec 32) (s : State) : Host.Outcome State Fault Refusal :=
  finishRun s (branch 12 ((s.getP a).getLsbD 0) i.toInt s)

/-- `bpf` (R90): taken when bit 0 of the predicate is 0. -/
def execBpf (a : PReg) (i : BitVec 32) (s : State) : Host.Outcome State Fault Refusal :=
  finishRun s (branch 12 (!(s.getP a).getLsbD 0) i.toInt s)

/-- `call` in the X form (R91). -/
def execCallX (i : BitVec 32) (s : State) : Host.Outcome State Fault Refusal :=
  finishRun s (.ok ((s.setD 1 (s.th.pc + 12)).setPc (s.target i.toInt)))

/-- `jr` (R91). -/
def execJr (a : DReg) (s : State) : Host.Outcome State Fault Refusal := finishRun s (jumpTo (s.getD a) none s)

/-- `callr` (R91): the target is read before the link is written. -/
def execCallr (a : DReg) (s : State) : Host.Outcome State Fault Refusal :=
  finishRun s (jumpTo (s.getD a) (some (s.th.pc + 4)) s)

/-- `ret` (R91). -/
def execRet (s : State) : Host.Outcome State Fault Refusal := finishRun s (jumpTo (s.getD 1) none s)

/-- `loop` (R93): the offset to its `lend` in words. -/
def execLoop (a : DReg) (o : BitVec 10) (s : State) : Host.Outcome State Fault Refusal :=
  finishRun s (loopWith 4 a o.toNat s)

/-- `loop` in the X form (R93). -/
def execLoopX (a : DReg) (i : BitVec 32) (s : State) : Host.Outcome State Fault Refusal :=
  finishRun s (loopWith 12 a i.toNat s)

/-- `lend` (R94): the next iteration, or the level is left. The frame that becomes unreachable keeps its words: the spec says that they
are lost (R21), and what a supervisor that raises LOOPLVL again finds there it leaves open [DESIGN CHOICE, log 82]. -/
def execLend (s : State) : Host.Outcome State Fault Refusal :=
  finishRun s (do
    require (s.th.lvl ≠ 0) clsLoop 1
    let l := loopState s
    let index := l.index + 1
    let s1 := { s with th := { s.th with loops := s.th.loops.setIfInBounds (s.th.lvl - 1) { l with index := index } } }
    if index.toNat < l.count.toNat then .ok (s1.setPc l.start)
    else .ok ({ s1 with th := { s1.th with lvl := s.th.lvl - 1 } }.advance 4))

/-- `lbrk` (R94): the level is left and control goes behind its `lend`. The frame keeps its words [DESIGN CHOICE, log 82]. -/
def execLbrk (s : State) : Host.Outcome State Fault Refusal :=
  finishRun s (do
    require (s.th.lvl ≠ 0) clsLoop 1
    .ok ({ s with th := { s.th with lvl := s.th.lvl - 1 } }.setPc ((loopState s).stop + 4)))

/-- `lidx` (R94): the current level's index, or 0 at level 0. -/
def execLidx (a : DReg) (s : State) : Host.Outcome State Fault Refusal :=
  finishRun s (.ok ((s.setD a (if s.th.lvl = 0 then 0 else (loopState s).index)).advance 4))

/-- `nop` (R91). -/
def execNop (s : State) : Host.Outcome State Fault Refusal := finishRun s (.ok (s.advance 4))

end Sys2Proof.Machine
end

