-- ==== Sys2Proof/WellFormed.lean ====
section
/-! DEFINITION. Which instructions have an encoding: the operand limits that the operand types do not already carry
(R58 to R67). Each check names the rule it comes from. -/

namespace Sys2Proof

/-- The types of `vcvt` (R149). -/
def Ty.cvtOk : Ty → Bool
  | .s32 | .n32 | .f32 | .f16 | .bf16 | .t8 | .t6 => true
  | _ => false

/-- The types of `coll` (R66). -/
def Ty.collOk : Ty → Bool
  | .f32 | .bf16 | .t8 => true
  | _ => false

/-- The types of `amo` (R67). -/
def Ty.amoOk : Ty → Bool
  | .s32 | .s64 | .n32 | .n64 => true
  | _ => false

/-- The types of `mma` (R66). -/
def Ty.mmaOk : Ty → Bool
  | .t8 | .t6 | .f16 | .bf16 | .f32 => true
  | _ => false

/-- The types of `mma.sp` (R66). -/
def Ty.mmaSpOk : Ty → Bool
  | .t8 | .t6 => true
  | _ => false

/-- Scope 1 to 6, the scopes of an atomic (R67). -/
def Scope.amoOk : Scope → Bool
  | .thread | .system => false
  | _ => true

/-- An X-form push or pop mask: not empty, without d0 and d2 (R103). -/
def maskOk (m : BitVec 32) : Bool := m ≠ 0 && m.toNat % 2 = 0 && m.toNat / 4 % 2 = 0

/-- A group of four vector registers starts at a multiple of 4 (R63). -/
def quadOk (v : Bool) (r : BitVec 5) : Bool := !v || r.toNat % 4 = 0

/-- The code values of the instruction are among those its row allows (R63; otherwise ILL OPCODE); a dense t6 operand and
a sparse B do not fit a vector group (R323). -/
def Instr.typesOk : Instr → Bool
  | .vcvtX _ _ dt st _ | .vcvtSat _ _ dt st _ => dt.cvtOk && st.cvtOk
  | .collRedX _ _ _ t | .collArX _ _ _ t | .collBc _ _ _ t => t.collOk
  | .mma _ va vb _ _ _ _ t _ => t.mmaOk && (!(va || vb) || t ≠ .t6)
  | .mmaSp _ _ vb _ _ _ _ t _ _ => t.mmaSpOk && !vb
  | .mmiSp _ _ vb _ _ _ _ _ _ => !vb
  | .amoAdd _ t _ _ _ _ _ | .amoMin _ t _ _ _ _ _ | .amoMax _ t _ _ _ _ _ | .amoMinn _ t _ _ _ _ _
  | .amoMaxn _ t _ _ _ _ _ | .amoAnd _ t _ _ _ _ _ | .amoOr _ t _ _ _ _ _ | .amoXor _ t _ _ _ _ _
  | .amoSwap _ t _ _ _ _ _ | .amoCas _ t _ _ _ _ _ => t.amoOk
  | _ => true

/-- A product operand taken from vectors leaves its second register field unnamed, hence zero (R57, R66; otherwise
ILL MBZ). -/
def Instr.unusedZero : Instr → Bool
  | .mma _ va vb _ c _ d3 _ _ | .mmaSp _ va vb _ c _ d3 _ _ _ => (!va || c = 0) && (!vb || d3 = 0)
  | .mmi _ va vb _ c _ d3 _ | .mmiSp _ va vb _ c _ d3 _ _ => (!va || c = 0) && (!vb || d3 = 0)
  | _ => true

/-- The operands lie within the limits the opcode map states (R63; otherwise ILL VALUE). -/
def Instr.limitsOk : Instr → Bool
  | .loop _ o => o ≠ 0
  | .loopX _ i => 3 ≤ i.toNat && i.toNat < 2147483648
  | .push a | .pop a => a ≠ 0 && a ≠ 2
  | .pushX m | .popX m => maskOk m
  | .pushV m | .popV m => m ≠ 0
  | .vbind a _ _ | .vunbind a => 24 ≤ a.toNat
  | .twIn e _ _ | .twOut e _ _ | .twInX e _ _ _ | .twOutX e _ _ _ | .twMc e _ _ _ _ | .twWalk e _ _ _ => e.toNat < 4
  | .advC _ n | .advP _ n => n ≠ 0
  | .collRed e _ _ | .collAr e _ _ | .collRedX e _ _ _ | .collArX e _ _ _ | .collBc e _ _ _ => e = 6 || e = 7
  | .ckpt e _ _ => 12 ≤ e.toNat
  | .rprot _ mode => mode.toNat ≤ 2
  | .mma _ va vb b _ d2 _ _ _ | .mmaSp _ va vb b _ d2 _ _ _ _ => quadOk va b && quadOk vb d2
  | .mmi _ va vb b _ d2 _ _ | .mmiSp _ va vb b _ d2 _ _ _ => quadOk va b && quadOk vb d2
  | .zzero _ s | .zld _ _ _ s | .zst _ _ _ s | .mstat _ s | .zzeroX _ s | .zldX _ _ _ _ s | .zstX _ _ _ _ s
  | .mstatX _ s => s.toNat < 4
  | .cvt e _ _ | .cvtSat e _ _ => e = 4 || e = 5
  | .amoAdd _ _ sc _ _ _ _ | .amoMin _ _ sc _ _ _ _ | .amoMax _ _ sc _ _ _ _ | .amoMinn _ _ sc _ _ _ _
  | .amoMaxn _ _ sc _ _ _ _ | .amoAnd _ _ sc _ _ _ _ | .amoOr _ _ sc _ _ _ _ | .amoXor _ _ sc _ _ _ _
  | .amoSwap _ _ sc _ _ _ _ | .amoCas _ _ sc _ _ _ _ => sc.amoOk
  | _ => true

/-- The rows of the opcode map with words; the machine's own events have none. -/
def Instr.hasWords : Instr → Bool
  | .factoryTest _ | .illegalWord _ | .ifetchFault _ _ | .intrEntry | .evDispatch _ | .evPlacementRequest _
  | .evLaunch _ | .evTaskStart _ | .evPacketArrival _ | .evTimetableFlitSend _ _ | .evExchangePacketArrival _
  | .evExchangeEnd _ | .evRemoteScratchWrite _ | .evGlobalStoreRegister _ | .evLlcEvict _ | .evPublishApply _
  | .evSummaryExchange | .evPublishResend _ | .evEngineOpComplete _ _ | .evWalkSlotClaim _ _ _
  | .evEngineFault _ _ _ | .evResumePacket _ | .evShootdown _ _ | .evCommandArrival _ | .evMatrixCommandArrival _
  | .evPreemption _ | .evResumption _ | .evPartitionEvict _ | .reservationExpiry | .evCancelMarkArrival _
  | .killCountBoundary | .cancelHandlerLimit | .evEndKilled _ | .evScopeCancelled _ | .evScopeFreed _
  | .evDieFence _ | .evWatchdogExpiry _ | .evThermalThrottle _ | .evThermalTrip _ | .evSnaptrigEdge
  | .evSnapshotLatch | .evPowerGood | .evHostLinkUp | .hostCtail _ _ | .evHostCardRead _ | .hostPhead _ _
  | .hostQenable _ | .hostQerror _ | .hostVerNeg _ | .hostBar0Write _ _ | .hostBar2Read _ _ | .hostBar2Write _ _
  | .weltDistctl _ | .weltSnapcmd _ | .weltDiectlFence _ _ | .weltDiectlReset _ _ _ | .weltDiscard _ _
  | .weltNodeBind _ _ _ | .weltRegisterWrite _ _ | .pktAck _ | .pktNak _ | .pktLoad _ | .pktLoadr _ | .pktStore _
  | .pktStorea _ | .pktAtomic _ | .pktAtomicr _ | .pktRsv _ | .pktCmt _ | .pktCmtr _ | .pktColl _ | .pktDrain _
  | .pktDraina _ | .pktHello _ | .pktHellor _ | .evAckTimer _ | .evNakTimer _ | .evRetransmitTimer _ _
  | .evPortLinkDown _ | .spdmGetVersion | .spdmGetCapabilities | .spdmNegotiateAlgorithms | .spdmGetDigests
  | .spdmGetCertificate | .spdmChallenge _ | .spdmGetMeasurements _ _ | .tapBypass | .tapSamplePreload | .tapExtest
  | .tapIdcode | .tapFtest _ | .dbgOpen | .dbgClose | .dbgReadctx _ _ _ | .dbgWritectx _ _ _ | .dbgResume _
  | .dbgStep _ | .dbgReadmem _ _ _ | .dbgWritemem _ _ _ | .evDebugSessionTimeout | .mgmtPowerCap _
  | .weltTilectl _ _ | .evPortLinkTraining _ _ | .evNvmeFailure _ => false
  | _ => true

/-- An instruction that some words of the opcode map encode: it has words, its codes are allowed, its unnamed fields
are zero and its operands lie within their limits. -/
def Instr.wf (i : Instr) : Bool := i.hasWords && i.typesOk && i.unusedZero && i.limitsOk

end Sys2Proof
end

