-- ==== Sys2Proof/Decode.lean ====
section
/-! DEFINITION. From words to an instruction or a refusal by name (R51 to R70, R423), and back: the encoder written
from the same opcode map. -/

namespace Sys2Proof

/-- The fields of an instruction's words before any meaning is given to them: word 0 in format R (R54), words 1 and 2
of the X forms (R56) and the literal K (R51). -/
structure Raw where
  len : BitVec 2 := 0
  maj : BitVec 6 := 0
  a : BitVec 5 := 0
  b : BitVec 5 := 0
  c : BitVec 5 := 0
  min : BitVec 7 := 0
  w : BitVec 2 := 0
  w1 : BitVec 32 := 0
  w2 : BitVec 32 := 0
  k : BitVec 64 := 0
  deriving DecidableEq, Repr

/-- The fields of word 0, format R (R54). -/
def Raw.ofWord0 (x : BitVec 32) : Raw :=
  { len := BitVec.ofNat 2 x.toNat
    maj := BitVec.ofNat 6 (x.toNat / 4)
    a := BitVec.ofNat 5 (x.toNat / 256)
    b := BitVec.ofNat 5 (x.toNat / 8192)
    c := BitVec.ofNat 5 (x.toNat / 262144)
    min := BitVec.ofNat 7 (x.toNat / 8388608)
    w := BitVec.ofNat 2 (x.toNat / 1073741824) }

/-- Word 0 from its fields (R54). -/
def Raw.word0 (r : Raw) : BitVec 32 :=
  BitVec.ofNat 32 (r.len.toNat + 4 * r.maj.toNat + 256 * r.a.toNat + 8192 * r.b.toNat + 262144 * r.c.toNat
    + 8388608 * r.min.toNat + 1073741824 * r.w.toNat)

/-- IMM14 and OFF14 (bits 31:18, R54). -/
def Raw.imm14 (r : Raw) : BitVec 14 := BitVec.ofNat 14 (r.c.toNat + 32 * r.min.toNat + 4096 * r.w.toNat)

/-- OFF24 (bits 31:8, R54). -/
def Raw.off24 (r : Raw) : BitVec 24 :=
  BitVec.ofNat 24 (r.a.toNat + 32 * r.b.toNat + 1024 * r.c.toNat + 32768 * r.min.toNat + 4194304 * r.w.toNat)

/-- 32·C + B (R93, R105). -/
def Raw.imm10 (r : Raw) : BitVec 10 := BitVec.ofNat 10 (r.b.toNat + 32 * r.c.toNat)

/-- The immediate shift amount, C with W bit 0 as bit 5 (R58). -/
def Raw.amount (r : Raw) : BitVec 6 := BitVec.ofNat 6 (r.c.toNat + 32 * (r.w.toNat % 2))

/-- HND of format H (bits 22:17, R54). -/
def Raw.hnd (r : Raw) : BitVec 6 := BitVec.ofNat 6 (2 * r.c.toNat + r.b.toNat / 16)

/-- NEED of format H (bits 16:13, R54). -/
def Raw.need (r : Raw) : BitVec 4 := BitVec.ofNat 4 r.b.toNat

/-- Layout XM of word 1 (R56). -/
structure XM where
  d2 : BitVec 5 := 0
  scope : BitVec 3 := 0
  type : BitVec 4 := 0
  cp : BitVec 2 := 0
  hnd : BitVec 6 := 0
  need : BitVec 4 := 0
  hv : BitVec 1 := 0
  m : BitVec 4 := 0
  deriving DecidableEq, Repr

/-- The word of layout XM; bits 6:4 are zero. -/
def XM.word (x : XM) : BitVec 32 :=
  BitVec.ofNat 32 (x.m.toNat + 128 * x.hv.toNat + 256 * x.need.toNat + 4096 * x.hnd.toNat + 262144 * x.cp.toNat
    + 1048576 * x.type.toNat + 16777216 * x.scope.toNat + 134217728 * x.d2.toNat)

/-- The fields of layout XM in word 1. -/
def Raw.xm (r : Raw) : XM :=
  { m := BitVec.ofNat 4 r.w1.toNat
    hv := BitVec.ofNat 1 (r.w1.toNat / 128)
    need := BitVec.ofNat 4 (r.w1.toNat / 256)
    hnd := BitVec.ofNat 6 (r.w1.toNat / 4096)
    cp := BitVec.ofNat 2 (r.w1.toNat / 262144)
    type := BitVec.ofNat 4 (r.w1.toNat / 1048576)
    scope := BitVec.ofNat 3 (r.w1.toNat / 16777216)
    d2 := BitVec.ofNat 5 (r.w1.toNat / 134217728) }

/-- Layout XE of word 1 (R56). -/
structure XE where
  d2 : BitVec 5 := 0
  d3 : BitVec 5 := 0
  type : BitVec 4 := 0
  tid : BitVec 6 := 0
  hnd : BitVec 6 := 0
  need : BitVec 4 := 0
  st : BitVec 2 := 0
  deriving DecidableEq, Repr

/-- The word of layout XE. -/
def XE.word (x : XE) : BitVec 32 :=
  BitVec.ofNat 32 (x.st.toNat + 4 * x.need.toNat + 64 * x.hnd.toNat + 4096 * x.tid.toNat + 262144 * x.type.toNat
    + 4194304 * x.d3.toNat + 134217728 * x.d2.toNat)

/-- The fields of layout XE in word 1. -/
def Raw.xe (r : Raw) : XE :=
  { st := BitVec.ofNat 2 r.w1.toNat
    need := BitVec.ofNat 4 (r.w1.toNat / 4)
    hnd := BitVec.ofNat 6 (r.w1.toNat / 64)
    tid := BitVec.ofNat 6 (r.w1.toNat / 4096)
    type := BitVec.ofNat 4 (r.w1.toNat / 262144)
    d3 := BitVec.ofNat 5 (r.w1.toNat / 4194304)
    d2 := BitVec.ofNat 5 (r.w1.toNat / 134217728) }

/-- What decoding answers: an instruction, or the ILL subcode that refuses the words (R69). -/
inductive Decoded where
  | instr (i : Instr)
  | reject (why : Reject)
  deriving DecidableEq, Repr

/-! ### Field codes (R58 to R62) -/

/-- The code of W (R58). -/
def wCode : WClass → BitVec 2 | .none => 0 | .wrs => 1 | .wgs => 2 | .wrd => 3
/-- The class W names (R58). -/
def wOf (x : BitVec 2) : WClass := if x = 0 then .none else if x = 1 then .wrs else if x = 2 then .wgs else .wrd

/-- Q of a scratch load (R96). -/
def feCode : FE → Nat | .plain => 0 | .full => 1 | .fullClear => 2
/-- The modifier Q names. -/
def feOf (n : Nat) : Option FE :=
  if n = 0 then some .plain else if n = 1 then some .full else if n = 2 then some .fullClear else none

/-- Q of a scratch store: 0 plain, 1 `.s` (R96). -/
def bCode (s : Bool) : Nat := if s then 1 else 0
/-- The store modifier Q names. -/
def bOf (n : Nat) : Option Bool := if n = 0 then some false else if n = 1 then some true else none

/-- The integer type codes 0 to 7 (R60). -/
def intTyCode : IntTy → Nat
  | .s8 => 0 | .s16 => 1 | .s32 => 2 | .s64 => 3 | .n8 => 4 | .n16 => 5 | .n32 => 6 | .n64 => 7
/-- The integer type of a code below 8. -/
def intTyOf (n : Nat) : Option IntTy :=
  match n with
  | 0 => some .s8 | 1 => some .s16 | 2 => some .s32 | 3 => some .s64
  | 4 => some .n8 | 5 => some .n16 | 6 => some .n32 | 7 => some .n64 | _ => none

/-- The type codes of R60. -/
def tyCode : Ty → BitVec 4
  | .s8 => 0 | .s16 => 1 | .s32 => 2 | .s64 => 3 | .n8 => 4 | .n16 => 5 | .n32 => 6 | .n64 => 7
  | .f32 => 8 | .f16 => 9 | .bf16 => 10 | .t8 => 11 | .t6 => 12
/-- The type of a code; 13 to 15 are reserved (R60). -/
def tyOf (x : BitVec 4) : Option Ty :=
  match x.toNat with
  | 0 => some .s8 | 1 => some .s16 | 2 => some .s32 | 3 => some .s64 | 4 => some .n8 | 5 => some .n16 | 6 => some .n32
  | 7 => some .n64 | 8 => some .f32 | 9 => some .f16 | 10 => some .bf16 | 11 => some .t8 | 12 => some .t6 | _ => none

/-- The type of a code, when the operation allows it (R63). -/
def tyIf (ok : Ty → Bool) (x : BitVec 4) : Option Ty :=
  match tyOf x with
  | some t => if ok t then some t else none
  | none => none
/-- The types of `vcvt` (R149). -/
abbrev cvtTyOf (x : BitVec 4) : Option Ty := tyIf Ty.cvtOk x
/-- The types of a collective (R66). -/
abbrev collTyOf (x : BitVec 4) : Option Ty := tyIf Ty.collOk x
/-- The types of an atomic (R67). -/
abbrev amoTyOf (x : BitVec 4) : Option Ty := tyIf Ty.amoOk x

/-- `.s32` or `.n32` in TYPE (R65); true for `.n32`. -/
def nTyCode (n : Bool) : BitVec 4 := if n then 6 else 2
/-- The two types of majors 0x18, 0x19 and 0x1B. -/
def nTyOf (x : BitVec 4) : Option Bool := if x = 2 then some false else if x = 6 then some true else none

/-- The floating types of major 0x1C (R65). -/
def fTyCode : FTy → BitVec 4 | .f32 => 8 | .f16 => 9 | .bf16 => 10
/-- The floating type of a code. -/
def fTyOf (x : BitVec 4) : Option FTy :=
  if x = 8 then some .f32 else if x = 9 then some .f16 else if x = 10 then some .bf16 else none

/-- The scope codes (R61). -/
def scopeCode : Scope → BitVec 3
  | .thread => 0 | .core => 1 | .tile => 2 | .cluster => 3 | .die => 4 | .device => 5 | .domain => 6 | .system => 7
/-- The scope of a code. -/
def scopeOf (x : BitVec 3) : Scope :=
  match x.toNat with
  | 0 => .thread | 1 => .core | 2 => .tile | 3 => .cluster | 4 => .die | 5 => .device | 6 => .domain | _ => .system

/-- The cache-policy codes (R61). -/
def cpCode : CachePolicy → BitVec 2 | .normal => 0 | .noAlloc => 1 | .evictFirst => 2
/-- The policy of a code; 11 is reserved. -/
def cpOf (x : BitVec 2) : Option CachePolicy :=
  if x = 0 then some .normal else if x = 1 then some .noAlloc else if x = 2 then some .evictFirst else none

/-- The scope operand in field C (R61). -/
def fenceCode : FenceScope → BitVec 5
  | .level s => (scopeCode s).setWidth 5
  | .named m => BitVec.ofNat 5 (16 + m.toNat)
/-- The scope operand field C names; 8 to 15 are reserved. -/
def fenceOf (c : BitVec 5) : Option FenceScope :=
  if c.toNat < 8 then some (.level (scopeOf (c.setWidth 3)))
  else if c.toNat < 16 then none else some (.named (c.setWidth 4))

/-- Field M (R62). -/
def govCode : Gov → BitVec 4 | none => 0 | some p => BitVec.ofNat 4 (8 + p.toNat)
/-- The governing predicate M names; 0001 to 0111 are reserved. -/
def govOf (m : BitVec 4) : Option Gov :=
  if m = 0 then some none else if m.toNat < 8 then none else some (some (m.setWidth 3))

/-- The handle and need of an access (R59). -/
def XM.needOf (x : XM) : HNeed := if x.hv = 1 then some (x.hnd, x.need) else none
/-- HV, HND and NEED of an access. -/
def XM.ofNeed (h : HNeed) : XM :=
  match h with
  | none => {}
  | some (h, n) => { hv := 1, hnd := h, need := n }

/-- The minor of an integer comparison (R64, R65). -/
def cmpCode : CmpOp → BitVec 7 | .eq => 0 | .ne => 1 | .lt => 2 | .ge => 3 | .ltn => 4 | .gen => 5
/-- The comparison of a minor. -/
def cmpOf (n : Nat) : Option CmpOp :=
  match n with
  | 0 => some .eq | 1 => some .ne | 2 => some .lt | 3 => some .ge | 4 => some .ltn | 5 => some .gen | _ => none
/-- The minor of a floating comparison (R65). -/
def fCmpCode : FCmpOp → BitVec 7 | .eq => 16 | .ne => 17 | .lt => 18 | .ge => 19
/-- The floating comparison of a minor. -/
def fCmpOf (n : Nat) : Option FCmpOp :=
  match n with
  | 16 => some .eq | 17 => some .ne | 18 => some .lt | 19 => some .ge | _ => none

/-- MIN = n·Q + T of majors 0x14 to 0x16 (R65). -/
def memMin (n q t : Nat) : BitVec 7 := BitVec.ofNat 7 (n * q + t)
/-- MIN of `ldg`, `stg`, `rsv` and `cmt` (R67). -/
def gMin (i t : Nat) : BitVec 7 := BitVec.ofNat 7 (8 * i + t)
/-- MIN of a region operation with its `.o` bit (R66). -/
def oMin (o : Bool) (n : Nat) : BitVec 7 := BitVec.ofNat 7 (if o then 64 + n else n)
/-- MIN = 4·K + V of major 0x28 (R66). -/
def mmMin (k : Nat) (va vb : Bool) : BitVec 7 := BitVec.ofNat 7 (4 * k + bCode va + 2 * bCode vb)
/-- I of `vldx`: the bound in bits 15:0 and the sentinel in bits 31:16 (R153). -/
def pack16 (lo hi : BitVec 16) : BitVec 32 := BitVec.ofNat 32 (lo.toNat + 65536 * hi.toNat)
/-- I of `xsend`: the slot in bits 7:0 and the offset over 16 in bits 31:8 (R227). -/
def pack8 (lo : BitVec 8) (hi : BitVec 24) : BitVec 32 := BitVec.ofNat 32 (lo.toNat + 256 * hi.toNat)
/-- I of `rbox`: j in bits 1:0, the two stride codes in bits 10:8 and 13:11 (R182). -/
def boxImm (j : BitVec 2) (s0 s1 : BitVec 3) : BitVec 32 := BitVec.ofNat 32 (j.toNat + 256 * s0.toNat + 2048 * s1.toNat)

/-! ### The encoder -/

/-- The words of an instruction, field by field (R64 to R67); an event of the machine has no words. -/
def encodeRaw : Instr → Raw
  | .add a b c => { maj := 1, a := a, b := b, c := c }
  | .sub a b c => { maj := 1, min := 1, a := a, b := b, c := c }
  | .mul a b c => { maj := 1, min := 2, a := a, b := b, c := c }
  | .mulh a b c => { maj := 1, min := 3, a := a, b := b, c := c }
  | .mulhn a b c => { maj := 1, min := 4, a := a, b := b, c := c }
  | .div a b c => { maj := 1, min := 5, a := a, b := b, c := c }
  | .divn a b c => { maj := 1, min := 6, a := a, b := b, c := c }
  | .rem a b c => { maj := 1, min := 7, a := a, b := b, c := c }
  | .remn a b c => { maj := 1, min := 8, a := a, b := b, c := c }
  | .min a b c => { maj := 1, min := 9, a := a, b := b, c := c }
  | .max a b c => { maj := 1, min := 10, a := a, b := b, c := c }
  | .minn a b c => { maj := 1, min := 11, a := a, b := b, c := c }
  | .maxn a b c => { maj := 1, min := 12, a := a, b := b, c := c }
  | .addLit a b k => { maj := 1, len := 1, min := 64, a := a, b := b, k := k }
  | .subLit a b k => { maj := 1, len := 1, min := 65, a := a, b := b, k := k }
  | .mulLit a b k => { maj := 1, len := 1, min := 66, a := a, b := b, k := k }
  | .mulhLit a b k => { maj := 1, len := 1, min := 67, a := a, b := b, k := k }
  | .mulhnLit a b k => { maj := 1, len := 1, min := 68, a := a, b := b, k := k }
  | .divLit a b k => { maj := 1, len := 1, min := 69, a := a, b := b, k := k }
  | .divnLit a b k => { maj := 1, len := 1, min := 70, a := a, b := b, k := k }
  | .remLit a b k => { maj := 1, len := 1, min := 71, a := a, b := b, k := k }
  | .remnLit a b k => { maj := 1, len := 1, min := 72, a := a, b := b, k := k }
  | .minLit a b k => { maj := 1, len := 1, min := 73, a := a, b := b, k := k }
  | .maxLit a b k => { maj := 1, len := 1, min := 74, a := a, b := b, k := k }
  | .minnLit a b k => { maj := 1, len := 1, min := 75, a := a, b := b, k := k }
  | .maxnLit a b k => { maj := 1, len := 1, min := 76, a := a, b := b, k := k }
  | .addImm a b i => { maj := 8, min := BitVec.ofNat 7 (i.toNat / 32), a := a, b := b, c := BitVec.ofNat 5 i.toNat, w := BitVec.ofNat 2 (i.toNat / 4096) }
  | .and a b c => { maj := 2, a := a, b := b, c := c }
  | .or a b c => { maj := 2, min := 1, a := a, b := b, c := c }
  | .xor a b c => { maj := 2, min := 2, a := a, b := b, c := c }
  | .andn a b c => { maj := 2, min := 3, a := a, b := b, c := c }
  | .orn a b c => { maj := 2, min := 4, a := a, b := b, c := c }
  | .sll a b c => { maj := 2, min := 5, a := a, b := b, c := c }
  | .srl a b c => { maj := 2, min := 6, a := a, b := b, c := c }
  | .sra a b c => { maj := 2, min := 7, a := a, b := b, c := c }
  | .rol a b c => { maj := 2, min := 8, a := a, b := b, c := c }
  | .ror a b c => { maj := 2, min := 9, a := a, b := b, c := c }
  | .bext a b c => { maj := 2, min := 10, a := a, b := b, c := c }
  | .bins a b c => { maj := 2, min := 11, a := a, b := b, c := c }
  | .clz a b => { maj := 2, min := 16, a := a, b := b }
  | .ctz a b => { maj := 2, min := 17, a := a, b := b }
  | .popc a b => { maj := 2, min := 18, a := a, b := b }
  | .brev a b => { maj := 2, min := 19, a := a, b := b }
  | .sllAmount a b n => { maj := 2, min := 24, a := a, b := b, c := BitVec.ofNat 5 n.toNat, w := BitVec.ofNat 2 (n.toNat / 32) }
  | .srlAmount a b n => { maj := 2, min := 25, a := a, b := b, c := BitVec.ofNat 5 n.toNat, w := BitVec.ofNat 2 (n.toNat / 32) }
  | .sraAmount a b n => { maj := 2, min := 26, a := a, b := b, c := BitVec.ofNat 5 n.toNat, w := BitVec.ofNat 2 (n.toNat / 32) }
  | .rolAmount a b n => { maj := 2, min := 27, a := a, b := b, c := BitVec.ofNat 5 n.toNat, w := BitVec.ofNat 2 (n.toNat / 32) }
  | .rorAmount a b n => { maj := 2, min := 28, a := a, b := b, c := BitVec.ofNat 5 n.toNat, w := BitVec.ofNat 2 (n.toNat / 32) }
  | .andLit a b k => { maj := 2, len := 1, min := 64, a := a, b := b, k := k }
  | .orLit a b k => { maj := 2, len := 1, min := 65, a := a, b := b, k := k }
  | .xorLit a b k => { maj := 2, len := 1, min := 66, a := a, b := b, k := k }
  | .andnLit a b k => { maj := 2, len := 1, min := 67, a := a, b := b, k := k }
  | .ornLit a b k => { maj := 2, len := 1, min := 68, a := a, b := b, k := k }
  | .bextLit a b k => { maj := 2, len := 1, min := 74, a := a, b := b, k := k }
  | .binsLit a b k => { maj := 2, len := 1, min := 75, a := a, b := b, k := k }
  | .andImm a b i => { maj := 9, min := BitVec.ofNat 7 (i.toNat / 32), a := a, b := b, c := BitVec.ofNat 5 i.toNat, w := BitVec.ofNat 2 (i.toNat / 4096) }
  | .orImm a b i => { maj := 10, min := BitVec.ofNat 7 (i.toNat / 32), a := a, b := b, c := BitVec.ofNat 5 i.toNat, w := BitVec.ofNat 2 (i.toNat / 4096) }
  | .xorImm a b i => { maj := 11, min := BitVec.ofNat 7 (i.toNat / 32), a := a, b := b, c := BitVec.ofNat 5 i.toNat, w := BitVec.ofNat 2 (i.toNat / 4096) }
  | .slt a b c => { maj := 3, a := a, b := b, c := c }
  | .sltn a b c => { maj := 3, min := 1, a := a, b := b, c := c }
  | .seq a b c => { maj := 3, min := 2, a := a, b := b, c := c }
  | .mov a b => { maj := 3, min := 3, a := a, b := b }
  | .csel a b c p => { maj := 3, min := 8 + p.setWidth 7, a := a, b := b, c := c }
  | .sltLit a b k => { maj := 3, len := 1, min := 64, a := a, b := b, k := k }
  | .sltnLit a b k => { maj := 3, len := 1, min := 65, a := a, b := b, k := k }
  | .seqLit a b k => { maj := 3, len := 1, min := 66, a := a, b := b, k := k }
  | .liLit a k => { maj := 3, len := 1, min := 67, a := a, k := k }
  | .sltImm a b i => { maj := 12, min := BitVec.ofNat 7 (i.toNat / 32), a := a, b := b, c := BitVec.ofNat 5 i.toNat, w := BitVec.ofNat 2 (i.toNat / 4096) }
  | .sltnImm a b i => { maj := 13, min := BitVec.ofNat 7 (i.toNat / 32), a := a, b := b, c := BitVec.ofNat 5 i.toNat, w := BitVec.ofNat 2 (i.toNat / 4096) }
  | .seqImm a b i => { maj := 14, min := BitVec.ofNat 7 (i.toNat / 32), a := a, b := b, c := BitVec.ofNat 5 i.toNat, w := BitVec.ofNat 2 (i.toNat / 4096) }
  | .liImm a i => { maj := 15, min := BitVec.ofNat 7 (i.toNat / 32), a := a, c := BitVec.ofNat 5 i.toNat, w := BitVec.ofNat 2 (i.toNat / 4096) }
  | .pcmpEq a b c => { maj := 4, a := a.setWidth 5, b := b, c := c }
  | .pcmpNe a b c => { maj := 4, min := 1, a := a.setWidth 5, b := b, c := c }
  | .pcmpLt a b c => { maj := 4, min := 2, a := a.setWidth 5, b := b, c := c }
  | .pcmpGe a b c => { maj := 4, min := 3, a := a.setWidth 5, b := b, c := c }
  | .pcmpLtn a b c => { maj := 4, min := 4, a := a.setWidth 5, b := b, c := c }
  | .pcmpGen a b c => { maj := 4, min := 5, a := a.setWidth 5, b := b, c := c }
  | .pand a b c => { maj := 4, min := 8, a := a.setWidth 5, b := b.setWidth 5, c := c.setWidth 5 }
  | .por a b c => { maj := 4, min := 9, a := a.setWidth 5, b := b.setWidth 5, c := c.setWidth 5 }
  | .pxor a b c => { maj := 4, min := 10, a := a.setWidth 5, b := b.setWidth 5, c := c.setWidth 5 }
  | .pnot a b => { maj := 4, min := 11, a := a.setWidth 5, b := b.setWidth 5 }
  | .pcnt a b => { maj := 4, min := 12, a := a, b := b.setWidth 5 }
  | .pfirst a b => { maj := 4, min := 13, a := a, b := b.setWidth 5 }
  | .beq a b o => { maj := 16, min := BitVec.ofNat 7 (o.toNat / 32), a := a, b := b, c := BitVec.ofNat 5 o.toNat, w := BitVec.ofNat 2 (o.toNat / 4096) }
  | .bne a b o => { maj := 17, min := BitVec.ofNat 7 (o.toNat / 32), a := a, b := b, c := BitVec.ofNat 5 o.toNat, w := BitVec.ofNat 2 (o.toNat / 4096) }
  | .call o => { maj := 18, min := BitVec.ofNat 7 (o.toNat / 32768), a := BitVec.ofNat 5 o.toNat, b := BitVec.ofNat 5 (o.toNat / 32), c := BitVec.ofNat 5 (o.toNat / 1024), w := BitVec.ofNat 2 (o.toNat / 4194304) }
  | .blt a b i => { maj := 19, len := 2, a := a, b := b, w2 := i }
  | .bge a b i => { maj := 19, len := 2, min := 1, a := a, b := b, w2 := i }
  | .bltn a b i => { maj := 19, len := 2, min := 2, a := a, b := b, w2 := i }
  | .bgen a b i => { maj := 19, len := 2, min := 3, a := a, b := b, w2 := i }
  | .beqX a b i => { maj := 19, len := 2, min := 6, a := a, b := b, w2 := i }
  | .bneX a b i => { maj := 19, len := 2, min := 7, a := a, b := b, w2 := i }
  | .bpt a i => { maj := 19, len := 2, min := 4, a := a.setWidth 5, w2 := i }
  | .bpf a i => { maj := 19, len := 2, min := 5, a := a.setWidth 5, w2 := i }
  | .callX i => { maj := 19, len := 2, min := 8, w2 := i }
  | .jr a => { maj := 19, min := 9, a := a }
  | .callr a => { maj := 19, min := 10, a := a }
  | .ret => { maj := 19, min := 11 }
  | .loop a o => { maj := 19, min := 12, a := a, b := BitVec.ofNat 5 o.toNat, c := BitVec.ofNat 5 (o.toNat / 32) }
  | .loopX a i => { maj := 19, len := 2, min := 12, a := a, w2 := i }
  | .lend => { maj := 19, min := 13 }
  | .lbrk => { maj := 19, min := 14 }
  | .lidx a => { maj := 19, min := 15, a := a }
  | .nop => { maj := 19, min := 16 }
  | .lds w q t a b off => { maj := 20, min := memMin 32 (feCode q) (intTyCode t), a := a, b := b, c := off, w := wCode w }
  | .ldsX w q t a b i h => { maj := 20, len := 2, min := memMin 32 (feCode q) (intTyCode t), a := a, b := b, w := wCode w, w1 := XM.word (XM.ofNeed h), w2 := i }
  | .sts w s t a b off => { maj := 21, min := memMin 32 (bCode s) (intTyCode t), a := a, b := b, c := off, w := wCode w }
  | .stsX w s t a b i h => { maj := 21, len := 2, min := memMin 32 (bCode s) (intTyCode t), a := a, b := b, w := wCode w, w1 := XM.word (XM.ofNeed h), w2 := i }
  | .ldp w q t a b c => { maj := 22, min := memMin 16 (feCode q) (intTyCode t), a := a, b := b, c := c, w := wCode w }
  | .ldpX w q t a b c i => { maj := 22, len := 2, min := memMin 16 (feCode q) (intTyCode t), a := a, b := b, c := c, w := wCode w, w2 := i }
  | .stp w s t a b c => { maj := 22, min := 64 + memMin 16 (bCode s) (intTyCode t), a := a, b := b, c := c, w := wCode w }
  | .stpX w s t a b c i => { maj := 22, len := 2, min := 64 + memMin 16 (bCode s) (intTyCode t), a := a, b := b, c := c, w := wCode w, w2 := i }
  | .fes a b => { maj := 23, a := a, b := b }
  | .fec a b => { maj := 23, min := 1, a := a, b := b }
  | .push a => { maj := 23, min := 2, a := a }
  | .pushX mask => { maj := 23, len := 2, min := 2, w2 := mask }
  | .pop a => { maj := 23, min := 3, a := a }
  | .popX mask => { maj := 23, len := 2, min := 3, w2 := mask }
  | .pushV mask => { maj := 23, len := 2, min := 4, w2 := mask }
  | .popV mask => { maj := 23, len := 2, min := 5, w2 := mask }
  | .vadd a b c => { maj := 24, a := a, b := b, c := c }
  | .vsub a b c => { maj := 24, min := 1, a := a, b := b, c := c }
  | .vmul a b c => { maj := 24, min := 2, a := a, b := b, c := c }
  | .vmulh a b c => { maj := 24, min := 3, a := a, b := b, c := c }
  | .vmad a b c => { maj := 24, min := 4, a := a, b := b, c := c }
  | .vmin a b c => { maj := 24, min := 5, a := a, b := b, c := c }
  | .vmax a b c => { maj := 24, min := 6, a := a, b := b, c := c }
  | .vminn a b c => { maj := 24, min := 7, a := a, b := b, c := c }
  | .vmaxn a b c => { maj := 24, min := 8, a := a, b := b, c := c }
  | .vabs a b => { maj := 24, min := 9, a := a, b := b }
  | .vneg a b => { maj := 24, min := 10, a := a, b := b }
  | .vaddX a b c n g => { maj := 24, len := 2, a := a, b := b, c := c, w1 := XM.word { type := nTyCode n, m := govCode g } }
  | .vsubX a b c n g => { maj := 24, len := 2, min := 1, a := a, b := b, c := c, w1 := XM.word { type := nTyCode n, m := govCode g } }
  | .vmulX a b c n g => { maj := 24, len := 2, min := 2, a := a, b := b, c := c, w1 := XM.word { type := nTyCode n, m := govCode g } }
  | .vmulhX a b c n g => { maj := 24, len := 2, min := 3, a := a, b := b, c := c, w1 := XM.word { type := nTyCode n, m := govCode g } }
  | .vmadX a b c n g => { maj := 24, len := 2, min := 4, a := a, b := b, c := c, w1 := XM.word { type := nTyCode n, m := govCode g } }
  | .vminX a b c n g => { maj := 24, len := 2, min := 5, a := a, b := b, c := c, w1 := XM.word { type := nTyCode n, m := govCode g } }
  | .vmaxX a b c n g => { maj := 24, len := 2, min := 6, a := a, b := b, c := c, w1 := XM.word { type := nTyCode n, m := govCode g } }
  | .vminnX a b c n g => { maj := 24, len := 2, min := 7, a := a, b := b, c := c, w1 := XM.word { type := nTyCode n, m := govCode g } }
  | .vmaxnX a b c n g => { maj := 24, len := 2, min := 8, a := a, b := b, c := c, w1 := XM.word { type := nTyCode n, m := govCode g } }
  | .vabsX a b g => { maj := 24, len := 2, min := 9, a := a, b := b, w1 := XM.word { type := 2, m := govCode g } }
  | .vnegX a b n g => { maj := 24, len := 2, min := 10, a := a, b := b, w1 := XM.word { type := nTyCode n, m := govCode g } }
  | .vand a b c => { maj := 25, a := a, b := b, c := c }
  | .vor a b c => { maj := 25, min := 1, a := a, b := b, c := c }
  | .vxor a b c => { maj := 25, min := 2, a := a, b := b, c := c }
  | .vandn a b c => { maj := 25, min := 3, a := a, b := b, c := c }
  | .vlop3 a b c d table n g => { maj := 25, len := 2, min := 4, a := a, b := b, c := c, w1 := XM.word { d2 := d, type := nTyCode n, m := govCode g }, w2 := table.setWidth 32 }
  | .vsll a b c => { maj := 25, min := 5, a := a, b := b, c := c }
  | .vsrl a b c => { maj := 25, min := 6, a := a, b := b, c := c }
  | .vsra a b c => { maj := 25, min := 7, a := a, b := b, c := c }
  | .vrot a b c => { maj := 25, min := 8, a := a, b := b, c := c }
  | .vfsl a b c d n g => { maj := 25, len := 2, min := 9, a := a, b := b, c := c, w1 := XM.word { d2 := d, type := nTyCode n, m := govCode g } }
  | .vfsr a b c d n g => { maj := 25, len := 2, min := 10, a := a, b := b, c := c, w1 := XM.word { d2 := d, type := nTyCode n, m := govCode g } }
  | .vclz a b => { maj := 25, min := 11, a := a, b := b }
  | .vpopc a b => { maj := 25, min := 12, a := a, b := b }
  | .vandX a b c n g => { maj := 25, len := 2, a := a, b := b, c := c, w1 := XM.word { type := nTyCode n, m := govCode g } }
  | .vorX a b c n g => { maj := 25, len := 2, min := 1, a := a, b := b, c := c, w1 := XM.word { type := nTyCode n, m := govCode g } }
  | .vxorX a b c n g => { maj := 25, len := 2, min := 2, a := a, b := b, c := c, w1 := XM.word { type := nTyCode n, m := govCode g } }
  | .vandnX a b c n g => { maj := 25, len := 2, min := 3, a := a, b := b, c := c, w1 := XM.word { type := nTyCode n, m := govCode g } }
  | .vsllX a b c n g => { maj := 25, len := 2, min := 5, a := a, b := b, c := c, w1 := XM.word { type := nTyCode n, m := govCode g } }
  | .vsrlX a b c n g => { maj := 25, len := 2, min := 6, a := a, b := b, c := c, w1 := XM.word { type := nTyCode n, m := govCode g } }
  | .vsraX a b c n g => { maj := 25, len := 2, min := 7, a := a, b := b, c := c, w1 := XM.word { type := nTyCode n, m := govCode g } }
  | .vrotX a b c n g => { maj := 25, len := 2, min := 8, a := a, b := b, c := c, w1 := XM.word { type := nTyCode n, m := govCode g } }
  | .vclzX a b n g => { maj := 25, len := 2, min := 11, a := a, b := b, w1 := XM.word { type := nTyCode n, m := govCode g } }
  | .vpopcX a b n g => { maj := 25, len := 2, min := 12, a := a, b := b, w1 := XM.word { type := nTyCode n, m := govCode g } }
  | .vsllAmount a b k n g => { maj := 25, len := 2, min := 69, a := a, b := b, w1 := XM.word { type := nTyCode n, m := govCode g }, w2 := k.setWidth 32 }
  | .vsrlAmount a b k n g => { maj := 25, len := 2, min := 70, a := a, b := b, w1 := XM.word { type := nTyCode n, m := govCode g }, w2 := k.setWidth 32 }
  | .vsraAmount a b k n g => { maj := 25, len := 2, min := 71, a := a, b := b, w1 := XM.word { type := nTyCode n, m := govCode g }, w2 := k.setWidth 32 }
  | .vrotAmount a b k n g => { maj := 25, len := 2, min := 72, a := a, b := b, w1 := XM.word { type := nTyCode n, m := govCode g }, w2 := k.setWidth 32 }
  | .vfslAmount a b c k n g => { maj := 25, len := 2, min := 73, a := a, b := b, c := c, w1 := XM.word { type := nTyCode n, m := govCode g }, w2 := k.setWidth 32 }
  | .vfsrAmount a b c k n g => { maj := 25, len := 2, min := 74, a := a, b := b, c := c, w1 := XM.word { type := nTyCode n, m := govCode g }, w2 := k.setWidth 32 }
  | .vcmpEq a b c => { maj := 26, a := a.setWidth 5, b := b, c := c }
  | .vcmpNe a b c => { maj := 26, min := 1, a := a.setWidth 5, b := b, c := c }
  | .vcmpLt a b c => { maj := 26, min := 2, a := a.setWidth 5, b := b, c := c }
  | .vcmpGe a b c => { maj := 26, min := 3, a := a.setWidth 5, b := b, c := c }
  | .vcmpLtn a b c => { maj := 26, min := 4, a := a.setWidth 5, b := b, c := c }
  | .vcmpGen a b c => { maj := 26, min := 5, a := a.setWidth 5, b := b, c := c }
  | .vsel a b c p => { maj := 26, min := 8 + p.setWidth 7, a := a, b := b, c := c }
  | .vmov a b => { maj := 26, min := 16, a := a, b := b }
  | .vbcast a b => { maj := 26, min := 17, a := a, b := b }
  | .vlane a b l => { maj := 26, min := 18, a := a, b := b, c := l }
  | .vput a b l => { maj := 26, min := 19, a := a, b := b, c := l }
  | .vcmpX op a b c g => { maj := 26, len := 2, min := cmpCode op, a := a.setWidth 5, b := b, c := c, w1 := XM.word { m := govCode g } }
  | .vselX a b c p g => { maj := 26, len := 2, min := 8 + p.setWidth 7, a := a, b := b, c := c, w1 := XM.word { m := govCode g } }
  | .vmovX a b g => { maj := 26, len := 2, min := 16, a := a, b := b, w1 := XM.word { m := govCode g } }
  | .vbcastX a b g => { maj := 26, len := 2, min := 17, a := a, b := b, w1 := XM.word { m := govCode g } }
  | .vlaneX a b l => { maj := 26, len := 2, min := 18, a := a, b := b, c := l }
  | .vputX a b l g => { maj := 26, len := 2, min := 19, a := a, b := b, c := l, w1 := XM.word { m := govCode g } }
  | .vperm a b c => { maj := 27, a := a, b := b, c := c }
  | .vshuf a b c => { maj := 27, min := 1, a := a, b := b, c := c }
  | .vslide a b c => { maj := 27, min := 2, a := a, b := b, c := c }
  | .vredadd a b => { maj := 27, min := 3, a := a, b := b }
  | .vredmin a b => { maj := 27, min := 4, a := a, b := b }
  | .vredmax a b => { maj := 27, min := 5, a := a, b := b }
  | .vredand a b => { maj := 27, min := 6, a := a, b := b }
  | .vredor a b => { maj := 27, min := 7, a := a, b := b }
  | .vredxor a b => { maj := 27, min := 8, a := a, b := b }
  | .vpermX a b c n g => { maj := 27, len := 2, a := a, b := b, c := c, w1 := XM.word { type := nTyCode n, m := govCode g } }
  | .vshufX a b c n g => { maj := 27, len := 2, min := 1, a := a, b := b, c := c, w1 := XM.word { type := nTyCode n, m := govCode g } }
  | .vslideX a b c n g => { maj := 27, len := 2, min := 2, a := a, b := b, c := c, w1 := XM.word { type := nTyCode n, m := govCode g } }
  | .vredaddX a b n g => { maj := 27, len := 2, min := 3, a := a, b := b, w1 := XM.word { type := nTyCode n, m := govCode g } }
  | .vredminX a b n g => { maj := 27, len := 2, min := 4, a := a, b := b, w1 := XM.word { type := nTyCode n, m := govCode g } }
  | .vredmaxX a b n g => { maj := 27, len := 2, min := 5, a := a, b := b, w1 := XM.word { type := nTyCode n, m := govCode g } }
  | .vredandX a b n g => { maj := 27, len := 2, min := 6, a := a, b := b, w1 := XM.word { type := nTyCode n, m := govCode g } }
  | .vredorX a b n g => { maj := 27, len := 2, min := 7, a := a, b := b, w1 := XM.word { type := nTyCode n, m := govCode g } }
  | .vredxorX a b n g => { maj := 27, len := 2, min := 8, a := a, b := b, w1 := XM.word { type := nTyCode n, m := govCode g } }
  | .vfadd a b c => { maj := 28, a := a, b := b, c := c }
  | .vfsub a b c => { maj := 28, min := 1, a := a, b := b, c := c }
  | .vfmul a b c => { maj := 28, min := 2, a := a, b := b, c := c }
  | .vfma a b c => { maj := 28, min := 3, a := a, b := b, c := c }
  | .vfmin a b c => { maj := 28, min := 4, a := a, b := b, c := c }
  | .vfmax a b c => { maj := 28, min := 5, a := a, b := b, c := c }
  | .vfabs a b => { maj := 28, min := 6, a := a, b := b }
  | .vfneg a b => { maj := 28, min := 7, a := a, b := b }
  | .vfrcp a b => { maj := 28, min := 8, a := a, b := b }
  | .vfrsq a b => { maj := 28, min := 9, a := a, b := b }
  | .vfcmpEq a b c => { maj := 28, min := 16, a := a.setWidth 5, b := b, c := c }
  | .vfcmpNe a b c => { maj := 28, min := 17, a := a.setWidth 5, b := b, c := c }
  | .vfcmpLt a b c => { maj := 28, min := 18, a := a.setWidth 5, b := b, c := c }
  | .vfcmpGe a b c => { maj := 28, min := 19, a := a.setWidth 5, b := b, c := c }
  | .vcvt a b => { maj := 28, min := 24, a := a, b := b }
  | .vcvtX a b dt st g => { maj := 28, len := 2, min := 24, a := a, b := b, w1 := XM.word { type := tyCode dt, m := govCode g }, w2 := (tyCode st).setWidth 32 }
  | .vcvtSat a b dt st g => { maj := 28, len := 2, min := 25, a := a, b := b, w1 := XM.word { type := tyCode dt, m := govCode g }, w2 := (tyCode st).setWidth 32 }
  | .vfaddX a b c t g => { maj := 28, len := 2, a := a, b := b, c := c, w1 := XM.word { type := fTyCode t, m := govCode g } }
  | .vfsubX a b c t g => { maj := 28, len := 2, min := 1, a := a, b := b, c := c, w1 := XM.word { type := fTyCode t, m := govCode g } }
  | .vfmulX a b c t g => { maj := 28, len := 2, min := 2, a := a, b := b, c := c, w1 := XM.word { type := fTyCode t, m := govCode g } }
  | .vfmaX a b c t g => { maj := 28, len := 2, min := 3, a := a, b := b, c := c, w1 := XM.word { type := fTyCode t, m := govCode g } }
  | .vfminX a b c t g => { maj := 28, len := 2, min := 4, a := a, b := b, c := c, w1 := XM.word { type := fTyCode t, m := govCode g } }
  | .vfmaxX a b c t g => { maj := 28, len := 2, min := 5, a := a, b := b, c := c, w1 := XM.word { type := fTyCode t, m := govCode g } }
  | .vfabsX a b t g => { maj := 28, len := 2, min := 6, a := a, b := b, w1 := XM.word { type := fTyCode t, m := govCode g } }
  | .vfnegX a b t g => { maj := 28, len := 2, min := 7, a := a, b := b, w1 := XM.word { type := fTyCode t, m := govCode g } }
  | .vfrcpX a b t g => { maj := 28, len := 2, min := 8, a := a, b := b, w1 := XM.word { type := fTyCode t, m := govCode g } }
  | .vfrsqX a b t g => { maj := 28, len := 2, min := 9, a := a, b := b, w1 := XM.word { type := fTyCode t, m := govCode g } }
  | .vfcmpX op a b c t g => { maj := 28, len := 2, min := fCmpCode op, a := a.setWidth 5, b := b, c := c, w1 := XM.word { type := fTyCode t, m := govCode g } }
  | .vld w a b off => { maj := 29, a := a, b := b, c := off, w := wCode w }
  | .vst w a b off => { maj := 29, min := 1, a := a, b := b, c := off, w := wCode w }
  | .vlds w a b c => { maj := 29, min := 2, a := a, b := b, c := c, w := wCode w }
  | .vsts w a b c => { maj := 29, min := 3, a := a, b := b, c := c, w := wCode w }
  | .vldx w a b c => { maj := 29, min := 4, a := a, b := b, c := c, w := wCode w }
  | .vldxZero w a b c => { maj := 29, min := 5, a := a, b := b, c := c, w := wCode w }
  | .vldX w a b i g h => { maj := 29, len := 2, a := a, b := b, w := wCode w, w1 := XM.word { (XM.ofNeed h) with m := govCode g }, w2 := i }
  | .vstX w a b i g h => { maj := 29, len := 2, min := 1, a := a, b := b, w := wCode w, w1 := XM.word { (XM.ofNeed h) with m := govCode g }, w2 := i }
  | .vldsX w a b c g h => { maj := 29, len := 2, min := 2, a := a, b := b, c := c, w := wCode w, w1 := XM.word { (XM.ofNeed h) with m := govCode g } }
  | .vstsX w a b c g h => { maj := 29, len := 2, min := 3, a := a, b := b, c := c, w := wCode w, w1 := XM.word { (XM.ofNeed h) with m := govCode g } }
  | .vldxX w a b c nb ns g h => { maj := 29, len := 2, min := 4, a := a, b := b, c := c, w := wCode w, w1 := XM.word { (XM.ofNeed h) with m := govCode g }, w2 := pack16 nb ns }
  | .vldxZeroX w a b c nb ns g h => { maj := 29, len := 2, min := 5, a := a, b := b, c := c, w := wCode w, w1 := XM.word { (XM.ofNeed h) with m := govCode g }, w2 := pack16 nb ns }
  | .vbind a b c => { maj := 30, a := a, b := b, c := c }
  | .vunbind a => { maj := 30, min := 1, a := a }
  | .runi o a b c => { maj := 32, min := oMin o 0, a := a.setWidth 5, b := b.setWidth 5, c := c.setWidth 5 }
  | .rint o a b c => { maj := 32, min := oMin o 1, a := a.setWidth 5, b := b.setWidth 5, c := c.setWidth 5 }
  | .rsub o a b c => { maj := 32, min := oMin o 2, a := a.setWidth 5, b := b.setWidth 5, c := c.setWidth 5 }
  | .rhull o a b c => { maj := 32, min := oMin o 3, a := a.setWidth 5, b := b.setWidth 5, c := c.setWidth 5 }
  | .rmove a b => { maj := 32, min := 4, a := a.setWidth 5, b := b.setWidth 5 }
  | .rclip o a b => { maj := 32, min := oMin o 5, a := a.setWidth 5, b := b.setWidth 5 }
  | .rdil o a b c => { maj := 33, min := oMin o 0, a := a.setWidth 5, b := b.setWidth 5, c := c }
  | .rproj o a b mask => { maj := 33, min := oMin o 1, a := a.setWidth 5, b := b.setWidth 5, c := mask.setWidth 5 }
  | .rsplit o a b c => { maj := 33, min := oMin o 2, a := a.setWidth 5, b := b.setWidth 5, c := c }
  | .rdilX o a b c => { maj := 33, len := 2, min := oMin o 0, a := a.setWidth 5, b := b.setWidth 5, c := c }
  | .rprojX o a b mask t => { maj := 33, len := 2, min := oMin o 1, a := a.setWidth 5, b := b.setWidth 5, c := mask.setWidth 5, w1 := XE.word { tid := t } }
  | .rsplitX o a b c => { maj := 33, len := 2, min := oMin o 2, a := a.setWidth 5, b := b.setWidth 5, c := c }
  | .rbox a t b c j s0 s1 => { maj := 34, len := 2, a := a.setWidth 5, b := b, c := c, w1 := XE.word { tid := t }, w2 := boxImm j s0 s1 }
  | .rstr a b c => { maj := 34, min := 1, a := a.setWidth 5, b := b.setWidth 5, c := c }
  | .rrag a b => { maj := 34, min := 2, a := a.setWidth 5, b := b.setWidth 5 }
  | .rtid a t => { maj := 34, len := 2, min := 3, a := a.setWidth 5, w1 := XE.word { tid := t } }
  | .rnbox a b => { maj := 34, min := 4, a := a, b := b.setWidth 5 }
  | .rgetb a b c => { maj := 34, min := 5, a := a, b := b.setWidth 5, c := c }
  | .rcells a b => { maj := 34, min := 6, a := a, b := b.setWidth 5 }
  | .rtest a b c => { maj := 34, min := 7, a := a.setWidth 5, b := b.setWidth 5, c := c }
  | .rstrX a b c => { maj := 34, len := 2, min := 1, a := a.setWidth 5, b := b.setWidth 5, c := c }
  | .rragX a b => { maj := 34, len := 2, min := 2, a := a.setWidth 5, b := b.setWidth 5 }
  | .rnboxX a b => { maj := 34, len := 2, min := 4, a := a, b := b.setWidth 5 }
  | .rgetbX a b c => { maj := 34, len := 2, min := 5, a := a, b := b.setWidth 5, c := c }
  | .rcellsX a b => { maj := 34, len := 2, min := 6, a := a, b := b.setWidth 5 }
  | .rtestX a b c => { maj := 34, len := 2, min := 7, a := a.setWidth 5, b := b.setWidth 5, c := c }
  | .rld w a b off => { maj := 35, a := a.setWidth 5, b := b, c := off, w := wCode w }
  | .rst w a b off => { maj := 35, min := 1, a := a.setWidth 5, b := b, c := off, w := wCode w }
  | .rldX w a b i => { maj := 35, len := 2, a := a.setWidth 5, b := b, w := wCode w, w2 := i }
  | .rstX w a b i => { maj := 35, len := 2, min := 1, a := a.setWidth 5, b := b, w := wCode w, w2 := i }
  | .twIn e b c => { maj := 36, a := e.setWidth 5, b := b.setWidth 5, c := c }
  | .twOut e b c => { maj := 36, min := 1, a := e.setWidth 5, b := b.setWidth 5, c := c }
  | .twInX e b c i => { maj := 36, len := 2, a := e.setWidth 5, b := b.setWidth 5, c := c, w2 := i }
  | .twOutX e b c i => { maj := 36, len := 2, min := 1, a := e.setWidth 5, b := b.setWidth 5, c := c, w2 := i }
  | .twMc e b c d i => { maj := 36, len := 2, min := 2, a := e.setWidth 5, b := b.setWidth 5, c := c, w1 := XE.word { d2 := d }, w2 := i }
  | .twWalk e b h n => { maj := 36, len := 2, min := 3, a := e.setWidth 5, b := b, w1 := XE.word { hnd := h, need := n } }
  | .wcmd a b c => { maj := 36, min := 4, a := a, b := b, c := c }
  | .hdef h a => { maj := 37, a := a, b := BitVec.ofNat 5 (16 * h.toNat), c := BitVec.ofNat 5 (h.toNat / 2) }
  | .hfree h => { maj := 37, min := 1, b := BitVec.ofNat 5 (16 * h.toNat), c := BitVec.ofNat 5 (h.toNat / 2) }
  | .hwait h n => { maj := 37, min := 2, b := BitVec.ofNat 5 (16 * h.toNat + n.toNat), c := BitVec.ofNat 5 (h.toNat / 2) }
  | .hstat a h => { maj := 37, min := 3, a := a, b := BitVec.ofNat 5 (16 * h.toNat), c := BitVec.ofNat 5 (h.toNat / 2) }
  | .advC h n => { maj := 37, min := 4, b := BitVec.ofNat 5 (16 * h.toNat + n.toNat), c := BitVec.ofNat 5 (h.toNat / 2) }
  | .advP h n => { maj := 37, min := 5, b := BitVec.ofNat 5 (16 * h.toNat + n.toNat), c := BitVec.ofNat 5 (h.toNat / 2) }
  | .tlw e b => { maj := 38, a := e.setWidth 5, b := b }
  | .tlwX e b d => { maj := 38, len := 2, a := e.setWidth 5, b := b, w1 := XE.word { d2 := d } }
  | .tlrd a e => { maj := 38, min := 1, a := a, b := e.setWidth 5 }
  | .collRed e b c => { maj := 38, min := 4, a := e.setWidth 5, b := b, c := c }
  | .collAr e b c => { maj := 38, min := 5, a := e.setWidth 5, b := b, c := c }
  | .collRedX e b c t => { maj := 38, len := 2, min := 4, a := e.setWidth 5, b := b, c := c, w1 := XE.word { type := tyCode t } }
  | .collArX e b c t => { maj := 38, len := 2, min := 5, a := e.setWidth 5, b := b, c := c, w1 := XE.word { type := tyCode t } }
  | .collBc e b c t => { maj := 38, len := 2, min := 6, a := e.setWidth 5, b := b, c := c, w1 := XE.word { type := tyCode t } }
  | .ckpt e b c => { maj := 38, min := 7, a := e.setWidth 5, b := b.setWidth 5, c := c }
  | .rwait a => { maj := 39, a := a.setWidth 5 }
  | .rprot a mode => { maj := 39, min := 1, a := a.setWidth 5, c := mode }
  | .mma z va vb b c d2 d3 t s => { maj := 40, len := 2, min := mmMin 0 va vb, a := z.setWidth 5, b := b, c := c, w1 := XE.word { d2 := d2, d3 := d3, type := tyCode t, st := s } }
  | .mmi z va vb b c d2 d3 s => { maj := 40, len := 2, min := mmMin 1 va vb, a := z.setWidth 5, b := b, c := c, w1 := XE.word { d2 := d2, d3 := d3, st := s } }
  | .mmaSp z va vb b c d2 d3 t md s => { maj := 40, len := 2, min := mmMin 2 va vb, a := z.setWidth 5, b := b, c := c, w1 := XE.word { d2 := d2, d3 := d3, type := tyCode t, st := s }, w2 := md }
  | .mmiSp z va vb b c d2 d3 md s => { maj := 40, len := 2, min := mmMin 3 va vb, a := z.setWidth 5, b := b, c := c, w1 := XE.word { d2 := d2, d3 := d3, st := s }, w2 := md }
  | .zcfg z b => { maj := 41, a := z.setWidth 5, b := b }
  | .zcfgKeep z b => { maj := 41, min := 1, a := z.setWidth 5, b := b }
  | .zzero z s => { maj := 41, min := 2, a := z.setWidth 5, c := s }
  | .zld w z b s => { maj := 41, min := 3, a := z.setWidth 5, b := b, c := s, w := wCode w }
  | .zst w z b s => { maj := 41, min := 4, a := z.setWidth 5, b := b, c := s, w := wCode w }
  | .zmov z y => { maj := 41, min := 5, a := z.setWidth 5, b := y.setWidth 5 }
  | .mstat a s => { maj := 41, min := 6, a := a, c := s }
  | .zcfgX z b => { maj := 41, len := 2, a := z.setWidth 5, b := b }
  | .zcfgKeepX z b => { maj := 41, len := 2, min := 1, a := z.setWidth 5, b := b }
  | .zzeroX z s => { maj := 41, len := 2, min := 2, a := z.setWidth 5, c := s }
  | .zldX w z b i s => { maj := 41, len := 2, min := 3, a := z.setWidth 5, b := b, c := s, w := wCode w, w2 := i }
  | .zstX w z b i s => { maj := 41, len := 2, min := 4, a := z.setWidth 5, b := b, c := s, w := wCode w, w2 := i }
  | .zmovX z y => { maj := 41, len := 2, min := 5, a := z.setWidth 5, b := y.setWidth 5 }
  | .mstatX a s => { maj := 41, len := 2, min := 6, a := a, c := s }
  | .mcmd a b c => { maj := 42, a := a, b := b, c := c }
  | .mcap a b => { maj := 42, min := 1, a := a, b := b }
  | .mrev a => { maj := 42, min := 2, a := a }
  | .cvt e b c => { maj := 44, a := e.setWidth 5, b := b.setWidth 5, c := c.setWidth 5 }
  | .cvtSat e b c => { maj := 44, min := 1, a := e.setWidth 5, b := b.setWidth 5, c := c.setWidth 5 }
  | .ccmd a b => { maj := 44, min := 2, a := a, b := b }
  | .tset t b i => { maj := 45, len := 2, b := b, w1 := XE.word { tid := t }, w2 := i }
  | .tget t b i => { maj := 45, len := 2, min := 1, b := b, w1 := XE.word { tid := t }, w2 := i }
  | .ldg w t a b c => { maj := 46, min := gMin 0 (intTyCode t), a := a, b := b, c := c, w := wCode w }
  | .stg w t a b c => { maj := 46, min := gMin 1 (intTyCode t), a := a, b := b, c := c, w := wCode w }
  | .rsv w t a b c => { maj := 46, min := gMin 2 (intTyCode t), a := a, b := b, c := c, w := wCode w }
  | .cmt w t a b c => { maj := 46, min := gMin 3 (intTyCode t), a := a, b := b, c := c, w := wCode w }
  | .pref b c => { maj := 46, min := 32, b := b, c := c }
  | .wcnt w => { maj := 46, min := 33, w := wCode w }
  | .acq s => { maj := 46, min := 34, c := fenceCode s }
  | .rel s => { maj := 46, min := 35, c := fenceCode s }
  | .fence s => { maj := 46, min := 36, c := fenceCode s }
  | .objd a b => { maj := 46, min := 37, a := a, b := b }
  | .objf a => { maj := 46, min := 38, a := a }
  | .ldgX w t a b c sc cp h => { maj := 46, len := 2, min := gMin 0 (intTyCode t), a := a, b := b, c := c, w := wCode w, w1 := XM.word { (XM.ofNeed h) with scope := scopeCode sc, cp := cpCode cp } }
  | .stgX w t a b c sc cp h => { maj := 46, len := 2, min := gMin 1 (intTyCode t), a := a, b := b, c := c, w := wCode w, w1 := XM.word { (XM.ofNeed h) with scope := scopeCode sc, cp := cpCode cp } }
  | .rsvX w t a b c sc cp h => { maj := 46, len := 2, min := gMin 2 (intTyCode t), a := a, b := b, c := c, w := wCode w, w1 := XM.word { (XM.ofNeed h) with scope := scopeCode sc, cp := cpCode cp } }
  | .cmtX w t a b c sc cp h => { maj := 46, len := 2, min := gMin 3 (intTyCode t), a := a, b := b, c := c, w := wCode w, w1 := XM.word { (XM.ofNeed h) with scope := scopeCode sc, cp := cpCode cp } }
  | .prefX b c sc cp => { maj := 46, len := 2, min := 32, b := b, c := c, w1 := XM.word { scope := scopeCode sc, cp := cpCode cp } }
  | .wcntX w => { maj := 46, len := 2, min := 33, w := wCode w }
  | .acqX s => { maj := 46, len := 2, min := 34, c := fenceCode s }
  | .relX s => { maj := 46, len := 2, min := 35, c := fenceCode s }
  | .fenceX s => { maj := 46, len := 2, min := 36, c := fenceCode s }
  | .objdX a b => { maj := 46, len := 2, min := 37, a := a, b := b }
  | .objfX a => { maj := 46, len := 2, min := 38, a := a }
  | .amoAdd w t sc a b c d => { maj := 47, len := 2, a := a, b := b, c := c, w := wCode w, w1 := XM.word { d2 := d, scope := scopeCode sc, type := tyCode t } }
  | .amoMin w t sc a b c d => { maj := 47, len := 2, min := 1, a := a, b := b, c := c, w := wCode w, w1 := XM.word { d2 := d, scope := scopeCode sc, type := tyCode t } }
  | .amoMax w t sc a b c d => { maj := 47, len := 2, min := 2, a := a, b := b, c := c, w := wCode w, w1 := XM.word { d2 := d, scope := scopeCode sc, type := tyCode t } }
  | .amoMinn w t sc a b c d => { maj := 47, len := 2, min := 3, a := a, b := b, c := c, w := wCode w, w1 := XM.word { d2 := d, scope := scopeCode sc, type := tyCode t } }
  | .amoMaxn w t sc a b c d => { maj := 47, len := 2, min := 4, a := a, b := b, c := c, w := wCode w, w1 := XM.word { d2 := d, scope := scopeCode sc, type := tyCode t } }
  | .amoAnd w t sc a b c d => { maj := 47, len := 2, min := 5, a := a, b := b, c := c, w := wCode w, w1 := XM.word { d2 := d, scope := scopeCode sc, type := tyCode t } }
  | .amoOr w t sc a b c d => { maj := 47, len := 2, min := 6, a := a, b := b, c := c, w := wCode w, w1 := XM.word { d2 := d, scope := scopeCode sc, type := tyCode t } }
  | .amoXor w t sc a b c d => { maj := 47, len := 2, min := 7, a := a, b := b, c := c, w := wCode w, w1 := XM.word { d2 := d, scope := scopeCode sc, type := tyCode t } }
  | .amoSwap w t sc a b c d => { maj := 47, len := 2, min := 8, a := a, b := b, c := c, w := wCode w, w1 := XM.word { d2 := d, scope := scopeCode sc, type := tyCode t } }
  | .amoCas w t sc a b c d => { maj := 47, len := 2, min := 9, a := a, b := b, c := c, w := wCode w, w1 := XM.word { d2 := d, scope := scopeCode sc, type := tyCode t } }
  | .jsub a b => { maj := 48, a := a, b := b }
  | .spawn a b m => { maj := 48, min := 1, a := a, b := b, c := m.setWidth 5 }
  | .jnext => { maj := 48, min := 2 }
  | .done => { maj := 48, min := 3 }
  | .yield => { maj := 48, min := 4 }
  | .mset m b => { maj := 49, a := m.setWidth 5, b := b }
  | .join m => { maj := 49, min := 1, a := m.setWidth 5 }
  | .leave m => { maj := 49, min := 2, a := m.setWidth 5 }
  | .bar m => { maj := 49, min := 3, a := m.setWidth 5 }
  | .barA m => { maj := 49, min := 4, a := m.setWidth 5 }
  | .barW m => { maj := 49, min := 5, a := m.setWidth 5 }
  | .watch a b c d k => { maj := 49, len := 3, min := 6, a := a, b := b, c := c, w1 := XM.word { d2 := d }, k := k }
  | .unwatch a => { maj := 49, min := 7, a := a }
  | .phrLead a => { maj := 50, a := a }
  | .phrJoin a => { maj := 50, min := 1, a := a }
  | .phrEnd => { maj := 50, min := 2 }
  | .scope m => { maj := 51, a := m.setWidth 5 }
  | .scopeClose m => { maj := 51, min := 1, a := m.setWidth 5 }
  | .cancel m => { maj := 51, min := 2, a := m.setWidth 5 }
  | .cancelW m => { maj := 51, min := 3, a := m.setWidth 5 }
  | .onc a => { maj := 51, min := 4, a := a }
  | .cancelById a => { maj := 51, min := 5, a := a }
  | .cancelWById a => { maj := 51, min := 6, a := a }
  | .snd a b => { maj := 52, a := a, b := b }
  | .rcv a b => { maj := 52, min := 1, a := a, b := b }
  | .rcvq a => { maj := 52, min := 2, a := a }
  | .step => { maj := 53 }
  | .xtt a => { maj := 53, min := 1, a := a }
  | .xsend slot b off => { maj := 53, min := 2, a := slot, b := b, c := off }
  | .xreq a b c => { maj := 53, min := 3, a := a, b := b, c := c }
  | .xadd a b c => { maj := 53, min := 4, a := a, b := b, c := c }
  | .xcnt a => { maj := 53, min := 5, a := a }
  | .stepX => { maj := 53, len := 2 }
  | .xttX a => { maj := 53, len := 2, min := 1, a := a }
  | .xsendX slot b off16 => { maj := 53, len := 2, min := 2, b := b, w2 := pack8 slot off16 }
  | .xreqX a b c => { maj := 53, len := 2, min := 3, a := a, b := b, c := c }
  | .xaddX a b c => { maj := 53, len := 2, min := 4, a := a, b := b, c := c }
  | .xcntX a => { maj := 53, len := 2, min := 5, a := a }
  | .srd a n => { maj := 54, a := a, b := BitVec.ofNat 5 n.toNat, c := BitVec.ofNat 5 (n.toNat / 32) }
  | .swr n a => { maj := 54, min := 1, a := a, b := BitVec.ofNat 5 n.toNat, c := BitVec.ofNat 5 (n.toNat / 32) }
  | .svc i => { maj := 54, min := 2, b := BitVec.ofNat 5 i.toNat, c := BitVec.ofNat 5 (i.toNat / 32) }
  | .trap i => { maj := 54, min := 3, b := BitVec.ofNat 5 i.toNat, c := BitVec.ofNat 5 (i.toNat / 32) }
  | .brk i => { maj := 54, min := 4, b := BitVec.ofNat 5 i.toNat, c := BitVec.ofNat 5 (i.toNat / 32) }
  | .tret => { maj := 54, min := 5 }
  | .wfe => { maj := 54, min := 6 }
  | .sev a => { maj := 54, min := 7, a := a }
  | .snap => { maj := 54, min := 8 }
  | .idle => { maj := 54, min := 9 }
  | .rsm a => { maj := 54, min := 10, a := a }
  | .fltr a e => { maj := 54, min := 11, a := a, b := e.setWidth 5 }
  | .ctxsave a => { maj := 55, a := a }
  | .ctxload a => { maj := 55, min := 1, a := a }
  | .preempt a => { maj := 55, min := 2, a := a }
  | .factoryTest word => Raw.ofWord0 word
  | .illegalWord _ => {}
  | .ifetchFault _ _ => {}
  | .intrEntry => {}
  | .evDispatch _ => {}
  | .evPlacementRequest _ => {}
  | .evLaunch _ => {}
  | .evTaskStart _ => {}
  | .evPacketArrival _ => {}
  | .evTimetableFlitSend _ _ => {}
  | .evExchangePacketArrival _ => {}
  | .evExchangeEnd _ => {}
  | .evRemoteScratchWrite _ => {}
  | .evGlobalStoreRegister _ => {}
  | .evLlcEvict _ => {}
  | .evPublishApply _ => {}
  | .evSummaryExchange => {}
  | .evPublishResend _ => {}
  | .evEngineOpComplete _ _ => {}
  | .evWalkSlotClaim _ _ _ => {}
  | .evEngineFault _ _ _ => {}
  | .evResumePacket _ => {}
  | .evShootdown _ _ => {}
  | .evCommandArrival _ => {}
  | .evMatrixCommandArrival _ => {}
  | .evPreemption _ => {}
  | .evResumption _ => {}
  | .evPartitionEvict _ => {}
  | .reservationExpiry => {}
  | .evCancelMarkArrival _ => {}
  | .killCountBoundary => {}
  | .cancelHandlerLimit => {}
  | .evEndKilled _ => {}
  | .evScopeCancelled _ => {}
  | .evScopeFreed _ => {}
  | .evDieFence _ => {}
  | .evWatchdogExpiry _ => {}
  | .evThermalThrottle _ => {}
  | .evThermalTrip _ => {}
  | .evSnaptrigEdge => {}
  | .evSnapshotLatch => {}
  | .evPowerGood => {}
  | .evHostLinkUp => {}
  | .hostCtail _ _ => {}
  | .evHostCardRead _ => {}
  | .hostPhead _ _ => {}
  | .hostQenable _ => {}
  | .hostQerror _ => {}
  | .hostVerNeg _ => {}
  | .hostBar0Write _ _ => {}
  | .hostBar2Read _ _ => {}
  | .hostBar2Write _ _ => {}
  | .weltDistctl _ => {}
  | .weltSnapcmd _ => {}
  | .weltDiectlFence _ _ => {}
  | .weltDiectlReset _ _ _ => {}
  | .weltDiscard _ _ => {}
  | .weltNodeBind _ _ _ => {}
  | .weltRegisterWrite _ _ => {}
  | .pktAck _ => {}
  | .pktNak _ => {}
  | .pktLoad _ => {}
  | .pktLoadr _ => {}
  | .pktStore _ => {}
  | .pktStorea _ => {}
  | .pktAtomic _ => {}
  | .pktAtomicr _ => {}
  | .pktRsv _ => {}
  | .pktCmt _ => {}
  | .pktCmtr _ => {}
  | .pktColl _ => {}
  | .pktDrain _ => {}
  | .pktDraina _ => {}
  | .pktHello _ => {}
  | .pktHellor _ => {}
  | .evAckTimer _ => {}
  | .evNakTimer _ => {}
  | .evRetransmitTimer _ _ => {}
  | .evPortLinkDown _ => {}
  | .spdmGetVersion => {}
  | .spdmGetCapabilities => {}
  | .spdmNegotiateAlgorithms => {}
  | .spdmGetDigests => {}
  | .spdmGetCertificate => {}
  | .spdmChallenge _ => {}
  | .spdmGetMeasurements _ _ => {}
  | .tapBypass => {}
  | .tapSamplePreload => {}
  | .tapExtest => {}
  | .tapIdcode => {}
  | .tapFtest _ => {}
  | .dbgOpen => {}
  | .dbgClose => {}
  | .dbgReadctx _ _ _ => {}
  | .dbgWritectx _ _ _ => {}
  | .dbgResume _ => {}
  | .dbgStep _ => {}
  | .dbgReadmem _ _ _ => {}
  | .dbgWritemem _ _ _ => {}
  | .evDebugSessionTimeout => {}
  | .mgmtPowerCap _ => {}
  | .weltTilectl _ _ => {}
  | .evPortLinkTraining _ _ => {}
  | .evNvmeFailure _ => {}

/-! ### The forms each operation has -/

/-- The forms that R64 to R67 and R423 give a major and minor, as a sum of 1 (one word), 2 (L), 4 (X) and 8 (XL);
0 where the pair is reserved. -/
def lens (maj min : Nat) : Nat :=
  match maj with
  | 1 => if min ≤ 12 then 1 else if 64 ≤ min ∧ min ≤ 76 then 2 else 0
  | 2 => if min ≤ 11 ∨ (16 ≤ min ∧ min ≤ 19) ∨ (24 ≤ min ∧ min ≤ 28) then 1
         else if (64 ≤ min ∧ min ≤ 68) ∨ min = 74 ∨ min = 75 then 2 else 0
  | 3 => if min ≤ 3 ∨ (8 ≤ min ∧ min ≤ 15) then 1 else if 64 ≤ min ∧ min ≤ 67 then 2 else 0
  | 4 => if min ≤ 5 ∨ (8 ≤ min ∧ min ≤ 13) then 1 else 0
  | 8 | 9 | 10 | 11 | 12 | 13 | 14 | 15 | 16 | 17 | 18 => 1
  | 19 => if min ≤ 8 then 4 else if min = 12 then 5 else if min ≤ 16 then 1 else 0
  | 20 => if min / 32 < 3 ∧ min % 32 < 8 then 5 else 0
  | 21 => if min / 32 < 2 ∧ min % 32 < 8 then 5 else 0
  | 22 => if min % 16 < 8 ∧ (if min < 64 then min / 16 < 3 else (min - 64) / 16 < 2) then 5 else 0
  | 23 => if min ≤ 1 then 1 else if min ≤ 3 then 5 else if min ≤ 5 then 4 else 0
  | 24 => if min ≤ 10 then 5 else 0
  | 25 => if min = 4 ∨ min = 9 ∨ min = 10 then 4 else if min ≤ 12 then 5 else if 69 ≤ min ∧ min ≤ 74 then 4 else 0
  | 26 => if min ≤ 5 ∨ (8 ≤ min ∧ min ≤ 19) then 5 else 0
  | 27 => if min ≤ 8 then 5 else 0
  | 28 => if min ≤ 9 ∨ (16 ≤ min ∧ min ≤ 19) ∨ min = 24 then 5 else if min = 25 then 4 else 0
  | 29 => if min ≤ 5 then 5 else 0
  | 30 => if min ≤ 1 then 1 else 0
  | 32 => if min ≤ 5 ∨ (64 ≤ min ∧ min ≤ 69 ∧ min ≠ 68) then 1 else 0
  | 33 => if min ≤ 2 ∨ (64 ≤ min ∧ min ≤ 66) then 5 else 0
  | 34 => if min = 0 ∨ min = 3 then 4 else if min ≤ 7 then 5 else 0
  | 35 => if min ≤ 1 then 5 else 0
  | 36 => if min ≤ 1 then 5 else if min ≤ 3 then 4 else if min = 4 then 1 else 0
  | 37 => if min ≤ 5 then 1 else 0
  | 38 => if min = 0 then 5 else if min = 1 then 1 else if min = 4 ∨ min = 5 then 5 else if min = 6 then 4
          else if min = 7 then 1 else 0
  | 39 => if min ≤ 1 then 1 else 0
  | 40 => if min ≤ 15 then 4 else 0
  | 41 => if min ≤ 6 then 5 else 0
  | 42 => if min ≤ 2 then 1 else 0
  | 44 => if min ≤ 2 then 1 else 0
  | 45 => if min ≤ 1 then 4 else 0
  | 46 => if min ≤ 38 then 5 else 0
  | 47 => if min ≤ 9 then 4 else 0
  | 48 => if min ≤ 4 then 1 else 0
  | 49 => if min ≤ 5 ∨ min = 7 then 1 else if min = 6 then 8 else 0
  | 50 => if min ≤ 2 then 1 else 0
  | 51 => if min ≤ 6 then 1 else 0
  | 52 => if min ≤ 2 then 1 else 0
  | 53 => if min ≤ 5 then 5 else 0
  | 54 => if min ≤ 11 then 1 else 0
  | 55 => if min ≤ 2 then 1 else 0
  | _ => 0

/-- Whether `lens` holds the form LEN announces (R51). -/
def lenOk (forms len : Nat) : Bool := decide (forms / 2 ^ len % 2 = 1)

/-! ### The builders -/

/-- Majors 0x14 to 0x16: the type and the full-empty modifier stand in the minor (R65, R96, R100). -/
noncomputable def build20 (r : Raw) : Option Instr :=
  (feOf (r.min.toNat / 32)).bind fun q => (intTyOf (r.min.toNat % 32)).map fun t =>
    if r.len = 0 then .lds (wOf r.w) q t r.a r.b r.c else .ldsX (wOf r.w) q t r.a r.b r.w2 r.xm.needOf

/-- `sts` (R96). -/
noncomputable def build21 (r : Raw) : Option Instr :=
  (bOf (r.min.toNat / 32)).bind fun s => (intTyOf (r.min.toNat % 32)).map fun t =>
    if r.len = 0 then .sts (wOf r.w) s t r.a r.b r.c else .stsX (wOf r.w) s t r.a r.b r.w2 r.xm.needOf

/-- `ldp` and `stp` (R100). -/
noncomputable def build22 (r : Raw) : Option Instr :=
  if r.min.toNat < 64 then
    (feOf (r.min.toNat / 16)).bind fun q => (intTyOf (r.min.toNat % 16)).map fun t =>
      if r.len = 0 then .ldp (wOf r.w) q t r.a r.b r.c else .ldpX (wOf r.w) q t r.a r.b r.c r.w2
  else
    (bOf ((r.min.toNat - 64) / 16)).bind fun s => (intTyOf (r.min.toNat % 16)).map fun t =>
      if r.len = 0 then .stp (wOf r.w) s t r.a r.b r.c else .stpX (wOf r.w) s t r.a r.b r.c r.w2

/-- The instruction, unless its code values are ones R63 or R323 refuses. -/
def typesOnly (i : Instr) : Option Instr := if i.typesOk then some i else none

/-- The matrix products of major 0x28, MIN = 4·K + V (R66, R323). -/
noncomputable def build40 (r : Raw) : Option Instr :=
  let z : ZReg := r.a.setWidth 3
  let va := decide (r.min.toNat % 2 = 1)
  let vb := decide (r.min.toNat / 2 % 2 = 1)
  match r.min.toNat / 4 with
  | 0 => (tyOf r.xe.type).bind fun t => typesOnly (.mma z va vb r.b r.c r.xe.d2 r.xe.d3 t r.xe.st)
  | 1 => if r.xe.type = 0 then some (.mmi z va vb r.b r.c r.xe.d2 r.xe.d3 r.xe.st) else none
  | 2 => (tyOf r.xe.type).bind fun t => typesOnly (.mmaSp z va vb r.b r.c r.xe.d2 r.xe.d3 t r.w2 r.xe.st)
  | _ => if r.xe.type = 0 then typesOnly (.mmiSp z va vb r.b r.c r.xe.d2 r.xe.d3 r.w2 r.xe.st) else none

/-- `ldg`, `stg`, `rsv` and `cmt`: the type is MIN mod 8 (R67). -/
noncomputable def buildGlobal (r : Raw) : Option Instr :=
  (intTyOf (r.min.toNat % 8)).bind fun t =>
    if r.len = 0 then
      match r.min.toNat / 8 with
      | 0 => some (.ldg (wOf r.w) t r.a r.b r.c)
      | 1 => some (.stg (wOf r.w) t r.a r.b r.c)
      | 2 => some (.rsv (wOf r.w) t r.a r.b r.c)
      | 3 => some (.cmt (wOf r.w) t r.a r.b r.c)
      | _ => none
    else (cpOf r.xm.cp).bind fun cp =>
      match r.min.toNat / 8 with
      | 0 => some (.ldgX (wOf r.w) t r.a r.b r.c (scopeOf r.xm.scope) cp r.xm.needOf)
      | 1 => some (.stgX (wOf r.w) t r.a r.b r.c (scopeOf r.xm.scope) cp r.xm.needOf)
      | 2 => some (.rsvX (wOf r.w) t r.a r.b r.c (scopeOf r.xm.scope) cp r.xm.needOf)
      | 3 => some (.cmtX (wOf r.w) t r.a r.b r.c (scopeOf r.xm.scope) cp r.xm.needOf)
      | _ => none

/-- The operation of major 0x1 in each form (R64 to R67); `none` for a reserved code value. -/
noncomputable def build1 (r : Raw) : Option Instr :=
  match r.len.toNat, r.min.toNat with
  | 0, 0 => some (.add r.a r.b r.c)
  | 0, 1 => some (.sub r.a r.b r.c)
  | 0, 2 => some (.mul r.a r.b r.c)
  | 0, 3 => some (.mulh r.a r.b r.c)
  | 0, 4 => some (.mulhn r.a r.b r.c)
  | 0, 5 => some (.div r.a r.b r.c)
  | 0, 6 => some (.divn r.a r.b r.c)
  | 0, 7 => some (.rem r.a r.b r.c)
  | 0, 8 => some (.remn r.a r.b r.c)
  | 0, 9 => some (.min r.a r.b r.c)
  | 0, 10 => some (.max r.a r.b r.c)
  | 0, 11 => some (.minn r.a r.b r.c)
  | 0, 12 => some (.maxn r.a r.b r.c)
  | 1, 64 => some (.addLit r.a r.b r.k)
  | 1, 65 => some (.subLit r.a r.b r.k)
  | 1, 66 => some (.mulLit r.a r.b r.k)
  | 1, 67 => some (.mulhLit r.a r.b r.k)
  | 1, 68 => some (.mulhnLit r.a r.b r.k)
  | 1, 69 => some (.divLit r.a r.b r.k)
  | 1, 70 => some (.divnLit r.a r.b r.k)
  | 1, 71 => some (.remLit r.a r.b r.k)
  | 1, 72 => some (.remnLit r.a r.b r.k)
  | 1, 73 => some (.minLit r.a r.b r.k)
  | 1, 74 => some (.maxLit r.a r.b r.k)
  | 1, 75 => some (.minnLit r.a r.b r.k)
  | 1, 76 => some (.maxnLit r.a r.b r.k)
  | _, _ => none
/-- The operation of major 0x2 in each form (R64 to R67); `none` for a reserved code value. -/
noncomputable def build2 (r : Raw) : Option Instr :=
  match r.len.toNat, r.min.toNat with
  | 0, 0 => some (.and r.a r.b r.c)
  | 0, 1 => some (.or r.a r.b r.c)
  | 0, 2 => some (.xor r.a r.b r.c)
  | 0, 3 => some (.andn r.a r.b r.c)
  | 0, 4 => some (.orn r.a r.b r.c)
  | 0, 5 => some (.sll r.a r.b r.c)
  | 0, 6 => some (.srl r.a r.b r.c)
  | 0, 7 => some (.sra r.a r.b r.c)
  | 0, 8 => some (.rol r.a r.b r.c)
  | 0, 9 => some (.ror r.a r.b r.c)
  | 0, 10 => some (.bext r.a r.b r.c)
  | 0, 11 => some (.bins r.a r.b r.c)
  | 0, 16 => some (.clz r.a r.b)
  | 0, 17 => some (.ctz r.a r.b)
  | 0, 18 => some (.popc r.a r.b)
  | 0, 19 => some (.brev r.a r.b)
  | 0, 24 => some (.sllAmount r.a r.b r.amount)
  | 0, 25 => some (.srlAmount r.a r.b r.amount)
  | 0, 26 => some (.sraAmount r.a r.b r.amount)
  | 0, 27 => some (.rolAmount r.a r.b r.amount)
  | 0, 28 => some (.rorAmount r.a r.b r.amount)
  | 1, 64 => some (.andLit r.a r.b r.k)
  | 1, 65 => some (.orLit r.a r.b r.k)
  | 1, 66 => some (.xorLit r.a r.b r.k)
  | 1, 67 => some (.andnLit r.a r.b r.k)
  | 1, 68 => some (.ornLit r.a r.b r.k)
  | 1, 74 => some (.bextLit r.a r.b r.k)
  | 1, 75 => some (.binsLit r.a r.b r.k)
  | _, _ => none
/-- The operation of major 0x3 in each form (R64 to R67); `none` for a reserved code value. -/
noncomputable def build3 (r : Raw) : Option Instr :=
  match r.len.toNat, r.min.toNat with
  | 0, 0 => some (.slt r.a r.b r.c)
  | 0, 1 => some (.sltn r.a r.b r.c)
  | 0, 2 => some (.seq r.a r.b r.c)
  | 0, 3 => some (.mov r.a r.b)
  | 1, 64 => some (.sltLit r.a r.b r.k)
  | 1, 65 => some (.sltnLit r.a r.b r.k)
  | 1, 66 => some (.seqLit r.a r.b r.k)
  | 1, 67 => some (.liLit r.a r.k)
  | _, _ => some (.csel r.a r.b r.c (BitVec.ofNat 3 (r.min.toNat - 8)))
/-- The operation of major 0x4 in each form (R64 to R67); `none` for a reserved code value. -/
noncomputable def build4 (r : Raw) : Option Instr :=
  match r.len.toNat, r.min.toNat with
  | 0, 0 => some (.pcmpEq (r.a.setWidth 3) r.b r.c)
  | 0, 1 => some (.pcmpNe (r.a.setWidth 3) r.b r.c)
  | 0, 2 => some (.pcmpLt (r.a.setWidth 3) r.b r.c)
  | 0, 3 => some (.pcmpGe (r.a.setWidth 3) r.b r.c)
  | 0, 4 => some (.pcmpLtn (r.a.setWidth 3) r.b r.c)
  | 0, 5 => some (.pcmpGen (r.a.setWidth 3) r.b r.c)
  | 0, 8 => some (.pand (r.a.setWidth 3) (r.b.setWidth 3) (r.c.setWidth 3))
  | 0, 9 => some (.por (r.a.setWidth 3) (r.b.setWidth 3) (r.c.setWidth 3))
  | 0, 10 => some (.pxor (r.a.setWidth 3) (r.b.setWidth 3) (r.c.setWidth 3))
  | 0, 11 => some (.pnot (r.a.setWidth 3) (r.b.setWidth 3))
  | 0, 12 => some (.pcnt r.a (r.b.setWidth 3))
  | 0, 13 => some (.pfirst r.a (r.b.setWidth 3))
  | _, _ => none
/-- The operation of major 0x8 in each form (R64 to R67); `none` for a reserved code value. -/
noncomputable def build8 (r : Raw) : Option Instr :=
  some (.addImm r.a r.b r.imm14)
/-- The operation of major 0x9 in each form (R64 to R67); `none` for a reserved code value. -/
noncomputable def build9 (r : Raw) : Option Instr :=
  some (.andImm r.a r.b r.imm14)
/-- The operation of major 0xa in each form (R64 to R67); `none` for a reserved code value. -/
noncomputable def build10 (r : Raw) : Option Instr :=
  some (.orImm r.a r.b r.imm14)
/-- The operation of major 0xb in each form (R64 to R67); `none` for a reserved code value. -/
noncomputable def build11 (r : Raw) : Option Instr :=
  some (.xorImm r.a r.b r.imm14)
/-- The operation of major 0xc in each form (R64 to R67); `none` for a reserved code value. -/
noncomputable def build12 (r : Raw) : Option Instr :=
  some (.sltImm r.a r.b r.imm14)
/-- The operation of major 0xd in each form (R64 to R67); `none` for a reserved code value. -/
noncomputable def build13 (r : Raw) : Option Instr :=
  some (.sltnImm r.a r.b r.imm14)
/-- The operation of major 0xe in each form (R64 to R67); `none` for a reserved code value. -/
noncomputable def build14 (r : Raw) : Option Instr :=
  some (.seqImm r.a r.b r.imm14)
/-- The operation of major 0xf in each form (R64 to R67); `none` for a reserved code value. -/
noncomputable def build15 (r : Raw) : Option Instr :=
  some (.liImm r.a r.imm14)
/-- The operation of major 0x10 in each form (R64 to R67); `none` for a reserved code value. -/
noncomputable def build16 (r : Raw) : Option Instr :=
  some (.beq r.a r.b r.imm14)
/-- The operation of major 0x11 in each form (R64 to R67); `none` for a reserved code value. -/
noncomputable def build17 (r : Raw) : Option Instr :=
  some (.bne r.a r.b r.imm14)
/-- The operation of major 0x12 in each form (R64 to R67); `none` for a reserved code value. -/
noncomputable def build18 (r : Raw) : Option Instr :=
  some (.call r.off24)
/-- The operation of major 0x13 in each form (R64 to R67); `none` for a reserved code value. -/
noncomputable def build19 (r : Raw) : Option Instr :=
  match r.len.toNat, r.min.toNat with
  | 0, 9 => some (.jr r.a)
  | 0, 10 => some (.callr r.a)
  | 0, 11 => some .ret
  | 0, 12 => some (.loop r.a r.imm10)
  | 0, 13 => some .lend
  | 0, 14 => some .lbrk
  | 0, 15 => some (.lidx r.a)
  | 0, 16 => some .nop
  | 2, 0 => some (.blt r.a r.b r.w2)
  | 2, 1 => some (.bge r.a r.b r.w2)
  | 2, 2 => some (.bltn r.a r.b r.w2)
  | 2, 3 => some (.bgen r.a r.b r.w2)
  | 2, 4 => some (.bpt (r.a.setWidth 3) r.w2)
  | 2, 5 => some (.bpf (r.a.setWidth 3) r.w2)
  | 2, 6 => some (.beqX r.a r.b r.w2)
  | 2, 7 => some (.bneX r.a r.b r.w2)
  | 2, 8 => some (.callX r.w2)
  | 2, 12 => some (.loopX r.a r.w2)
  | _, _ => none
/-- The operation of major 0x17 in each form (R64 to R67); `none` for a reserved code value. -/
noncomputable def build23 (r : Raw) : Option Instr :=
  match r.len.toNat, r.min.toNat with
  | 0, 0 => some (.fes r.a r.b)
  | 0, 1 => some (.fec r.a r.b)
  | 0, 2 => some (.push r.a)
  | 0, 3 => some (.pop r.a)
  | 2, 2 => some (.pushX r.w2)
  | 2, 3 => some (.popX r.w2)
  | 2, 4 => some (.pushV r.w2)
  | 2, 5 => some (.popV r.w2)
  | _, _ => none
/-- The operation of major 0x18 in each form (R64 to R67); `none` for a reserved code value. -/
noncomputable def build24 (r : Raw) : Option Instr :=
  match r.len.toNat, r.min.toNat with
  | 0, 0 => some (.vadd r.a r.b r.c)
  | 0, 1 => some (.vsub r.a r.b r.c)
  | 0, 2 => some (.vmul r.a r.b r.c)
  | 0, 3 => some (.vmulh r.a r.b r.c)
  | 0, 4 => some (.vmad r.a r.b r.c)
  | 0, 5 => some (.vmin r.a r.b r.c)
  | 0, 6 => some (.vmax r.a r.b r.c)
  | 0, 7 => some (.vminn r.a r.b r.c)
  | 0, 8 => some (.vmaxn r.a r.b r.c)
  | 0, 9 => some (.vabs r.a r.b)
  | 0, 10 => some (.vneg r.a r.b)
  | 2, 0 => (nTyOf r.xm.type).bind fun n => (govOf r.xm.m).map fun g => .vaddX r.a r.b r.c n g
  | 2, 1 => (nTyOf r.xm.type).bind fun n => (govOf r.xm.m).map fun g => .vsubX r.a r.b r.c n g
  | 2, 2 => (nTyOf r.xm.type).bind fun n => (govOf r.xm.m).map fun g => .vmulX r.a r.b r.c n g
  | 2, 3 => (nTyOf r.xm.type).bind fun n => (govOf r.xm.m).map fun g => .vmulhX r.a r.b r.c n g
  | 2, 4 => (nTyOf r.xm.type).bind fun n => (govOf r.xm.m).map fun g => .vmadX r.a r.b r.c n g
  | 2, 5 => (nTyOf r.xm.type).bind fun n => (govOf r.xm.m).map fun g => .vminX r.a r.b r.c n g
  | 2, 6 => (nTyOf r.xm.type).bind fun n => (govOf r.xm.m).map fun g => .vmaxX r.a r.b r.c n g
  | 2, 7 => (nTyOf r.xm.type).bind fun n => (govOf r.xm.m).map fun g => .vminnX r.a r.b r.c n g
  | 2, 8 => (nTyOf r.xm.type).bind fun n => (govOf r.xm.m).map fun g => .vmaxnX r.a r.b r.c n g
  | 2, 9 => if r.xm.type = 2 then (govOf r.xm.m).map fun g => .vabsX r.a r.b g else none
  | 2, 10 => (nTyOf r.xm.type).bind fun n => (govOf r.xm.m).map fun g => .vnegX r.a r.b n g
  | _, _ => none
/-- The operation of major 0x19 in each form (R64 to R67); `none` for a reserved code value. -/
noncomputable def build25 (r : Raw) : Option Instr :=
  match r.len.toNat, r.min.toNat with
  | 0, 0 => some (.vand r.a r.b r.c)
  | 0, 1 => some (.vor r.a r.b r.c)
  | 0, 2 => some (.vxor r.a r.b r.c)
  | 0, 3 => some (.vandn r.a r.b r.c)
  | 0, 5 => some (.vsll r.a r.b r.c)
  | 0, 6 => some (.vsrl r.a r.b r.c)
  | 0, 7 => some (.vsra r.a r.b r.c)
  | 0, 8 => some (.vrot r.a r.b r.c)
  | 0, 11 => some (.vclz r.a r.b)
  | 0, 12 => some (.vpopc r.a r.b)
  | 2, 0 => (nTyOf r.xm.type).bind fun n => (govOf r.xm.m).map fun g => .vandX r.a r.b r.c n g
  | 2, 1 => (nTyOf r.xm.type).bind fun n => (govOf r.xm.m).map fun g => .vorX r.a r.b r.c n g
  | 2, 2 => (nTyOf r.xm.type).bind fun n => (govOf r.xm.m).map fun g => .vxorX r.a r.b r.c n g
  | 2, 3 => (nTyOf r.xm.type).bind fun n => (govOf r.xm.m).map fun g => .vandnX r.a r.b r.c n g
  | 2, 5 => (nTyOf r.xm.type).bind fun n => (govOf r.xm.m).map fun g => .vsllX r.a r.b r.c n g
  | 2, 6 => (nTyOf r.xm.type).bind fun n => (govOf r.xm.m).map fun g => .vsrlX r.a r.b r.c n g
  | 2, 7 => (nTyOf r.xm.type).bind fun n => (govOf r.xm.m).map fun g => .vsraX r.a r.b r.c n g
  | 2, 8 => (nTyOf r.xm.type).bind fun n => (govOf r.xm.m).map fun g => .vrotX r.a r.b r.c n g
  | 2, 11 => (nTyOf r.xm.type).bind fun n => (govOf r.xm.m).map fun g => .vclzX r.a r.b n g
  | 2, 12 => (nTyOf r.xm.type).bind fun n => (govOf r.xm.m).map fun g => .vpopcX r.a r.b n g
  | 2, 4 => (nTyOf r.xm.type).bind fun n => (govOf r.xm.m).map fun g => .vlop3 r.a r.b r.c r.xm.d2 (r.w2.setWidth 8) n g
  | 2, 9 => (nTyOf r.xm.type).bind fun n => (govOf r.xm.m).map fun g => .vfsl r.a r.b r.c r.xm.d2 n g
  | 2, 10 => (nTyOf r.xm.type).bind fun n => (govOf r.xm.m).map fun g => .vfsr r.a r.b r.c r.xm.d2 n g
  | 2, 69 => (nTyOf r.xm.type).bind fun n => (govOf r.xm.m).map fun g => .vsllAmount r.a r.b (r.w2.setWidth 5) n g
  | 2, 70 => (nTyOf r.xm.type).bind fun n => (govOf r.xm.m).map fun g => .vsrlAmount r.a r.b (r.w2.setWidth 5) n g
  | 2, 71 => (nTyOf r.xm.type).bind fun n => (govOf r.xm.m).map fun g => .vsraAmount r.a r.b (r.w2.setWidth 5) n g
  | 2, 72 => (nTyOf r.xm.type).bind fun n => (govOf r.xm.m).map fun g => .vrotAmount r.a r.b (r.w2.setWidth 5) n g
  | 2, 73 => (nTyOf r.xm.type).bind fun n => (govOf r.xm.m).map fun g => .vfslAmount r.a r.b r.c (r.w2.setWidth 5) n g
  | 2, 74 => (nTyOf r.xm.type).bind fun n => (govOf r.xm.m).map fun g => .vfsrAmount r.a r.b r.c (r.w2.setWidth 5) n g
  | _, _ => none
/-- The operation of major 0x1a in each form (R64 to R67); `none` for a reserved code value. -/
noncomputable def build26 (r : Raw) : Option Instr :=
  match r.len.toNat, r.min.toNat with
  | 0, 0 => some (.vcmpEq (r.a.setWidth 3) r.b r.c)
  | 0, 1 => some (.vcmpNe (r.a.setWidth 3) r.b r.c)
  | 0, 2 => some (.vcmpLt (r.a.setWidth 3) r.b r.c)
  | 0, 3 => some (.vcmpGe (r.a.setWidth 3) r.b r.c)
  | 0, 4 => some (.vcmpLtn (r.a.setWidth 3) r.b r.c)
  | 0, 5 => some (.vcmpGen (r.a.setWidth 3) r.b r.c)
  | 0, 16 => some (.vmov r.a r.b)
  | 0, 17 => some (.vbcast r.a r.b)
  | 0, 18 => some (.vlane r.a r.b r.c)
  | 0, 19 => some (.vput r.a r.b r.c)
  | 2, 16 => (govOf r.xm.m).map fun g => .vmovX r.a r.b g
  | 2, 17 => (govOf r.xm.m).map fun g => .vbcastX r.a r.b g
  | 2, 18 => some (.vlaneX r.a r.b r.c)
  | 2, 19 => (govOf r.xm.m).map fun g => .vputX r.a r.b r.c g
  | 2, m => if m < 6 then (cmpOf m).bind fun op => (govOf r.xm.m).map fun g => .vcmpX op (r.a.setWidth 3) r.b r.c g else (govOf r.xm.m).map fun g => .vselX r.a r.b r.c (BitVec.ofNat 3 (r.min.toNat - 8)) g
  | _, _ => some (.vsel r.a r.b r.c (BitVec.ofNat 3 (r.min.toNat - 8)))
/-- The operation of major 0x1b in each form (R64 to R67); `none` for a reserved code value. -/
noncomputable def build27 (r : Raw) : Option Instr :=
  match r.len.toNat, r.min.toNat with
  | 0, 0 => some (.vperm r.a r.b r.c)
  | 0, 1 => some (.vshuf r.a r.b r.c)
  | 0, 2 => some (.vslide r.a r.b r.c)
  | 0, 3 => some (.vredadd r.a r.b)
  | 0, 4 => some (.vredmin r.a r.b)
  | 0, 5 => some (.vredmax r.a r.b)
  | 0, 6 => some (.vredand r.a r.b)
  | 0, 7 => some (.vredor r.a r.b)
  | 0, 8 => some (.vredxor r.a r.b)
  | 2, 0 => (nTyOf r.xm.type).bind fun n => (govOf r.xm.m).map fun g => .vpermX r.a r.b r.c n g
  | 2, 1 => (nTyOf r.xm.type).bind fun n => (govOf r.xm.m).map fun g => .vshufX r.a r.b r.c n g
  | 2, 2 => (nTyOf r.xm.type).bind fun n => (govOf r.xm.m).map fun g => .vslideX r.a r.b r.c n g
  | 2, 3 => (nTyOf r.xm.type).bind fun n => (govOf r.xm.m).map fun g => .vredaddX r.a r.b n g
  | 2, 4 => (nTyOf r.xm.type).bind fun n => (govOf r.xm.m).map fun g => .vredminX r.a r.b n g
  | 2, 5 => (nTyOf r.xm.type).bind fun n => (govOf r.xm.m).map fun g => .vredmaxX r.a r.b n g
  | 2, 6 => (nTyOf r.xm.type).bind fun n => (govOf r.xm.m).map fun g => .vredandX r.a r.b n g
  | 2, 7 => (nTyOf r.xm.type).bind fun n => (govOf r.xm.m).map fun g => .vredorX r.a r.b n g
  | 2, 8 => (nTyOf r.xm.type).bind fun n => (govOf r.xm.m).map fun g => .vredxorX r.a r.b n g
  | _, _ => none
/-- The operation of major 0x1c in each form (R64 to R67); `none` for a reserved code value. -/
noncomputable def build28 (r : Raw) : Option Instr :=
  match r.len.toNat, r.min.toNat with
  | 0, 0 => some (.vfadd r.a r.b r.c)
  | 0, 1 => some (.vfsub r.a r.b r.c)
  | 0, 2 => some (.vfmul r.a r.b r.c)
  | 0, 3 => some (.vfma r.a r.b r.c)
  | 0, 4 => some (.vfmin r.a r.b r.c)
  | 0, 5 => some (.vfmax r.a r.b r.c)
  | 0, 6 => some (.vfabs r.a r.b)
  | 0, 7 => some (.vfneg r.a r.b)
  | 0, 8 => some (.vfrcp r.a r.b)
  | 0, 9 => some (.vfrsq r.a r.b)
  | 0, 16 => some (.vfcmpEq (r.a.setWidth 3) r.b r.c)
  | 0, 17 => some (.vfcmpNe (r.a.setWidth 3) r.b r.c)
  | 0, 18 => some (.vfcmpLt (r.a.setWidth 3) r.b r.c)
  | 0, 19 => some (.vfcmpGe (r.a.setWidth 3) r.b r.c)
  | 0, 24 => some (.vcvt r.a r.b)
  | 2, 0 => (fTyOf r.xm.type).bind fun t => (govOf r.xm.m).map fun g => .vfaddX r.a r.b r.c t g
  | 2, 1 => (fTyOf r.xm.type).bind fun t => (govOf r.xm.m).map fun g => .vfsubX r.a r.b r.c t g
  | 2, 2 => (fTyOf r.xm.type).bind fun t => (govOf r.xm.m).map fun g => .vfmulX r.a r.b r.c t g
  | 2, 3 => (fTyOf r.xm.type).bind fun t => (govOf r.xm.m).map fun g => .vfmaX r.a r.b r.c t g
  | 2, 4 => (fTyOf r.xm.type).bind fun t => (govOf r.xm.m).map fun g => .vfminX r.a r.b r.c t g
  | 2, 5 => (fTyOf r.xm.type).bind fun t => (govOf r.xm.m).map fun g => .vfmaxX r.a r.b r.c t g
  | 2, 6 => (fTyOf r.xm.type).bind fun t => (govOf r.xm.m).map fun g => .vfabsX r.a r.b t g
  | 2, 7 => (fTyOf r.xm.type).bind fun t => (govOf r.xm.m).map fun g => .vfnegX r.a r.b t g
  | 2, 8 => (fTyOf r.xm.type).bind fun t => (govOf r.xm.m).map fun g => .vfrcpX r.a r.b t g
  | 2, 9 => (fTyOf r.xm.type).bind fun t => (govOf r.xm.m).map fun g => .vfrsqX r.a r.b t g
  | 2, 24 => (cvtTyOf r.xm.type).bind fun dt => (cvtTyOf (r.w2.setWidth 4)).bind fun st => (govOf r.xm.m).map fun g => .vcvtX r.a r.b dt st g
  | 2, 25 => (cvtTyOf r.xm.type).bind fun dt => (cvtTyOf (r.w2.setWidth 4)).bind fun st => (govOf r.xm.m).map fun g => .vcvtSat r.a r.b dt st g
  | _, m => (fCmpOf m).bind fun op => (fTyOf r.xm.type).bind fun t => (govOf r.xm.m).map fun g => .vfcmpX op (r.a.setWidth 3) r.b r.c t g
/-- The operation of major 0x1d in each form (R64 to R67); `none` for a reserved code value. -/
noncomputable def build29 (r : Raw) : Option Instr :=
  match r.len.toNat, r.min.toNat with
  | 0, 0 => some (.vld (wOf r.w) r.a r.b r.c)
  | 0, 1 => some (.vst (wOf r.w) r.a r.b r.c)
  | 0, 2 => some (.vlds (wOf r.w) r.a r.b r.c)
  | 0, 3 => some (.vsts (wOf r.w) r.a r.b r.c)
  | 0, 4 => some (.vldx (wOf r.w) r.a r.b r.c)
  | 0, 5 => some (.vldxZero (wOf r.w) r.a r.b r.c)
  | 2, 0 => (govOf r.xm.m).map fun g => .vldX (wOf r.w) r.a r.b r.w2 g r.xm.needOf
  | 2, 1 => (govOf r.xm.m).map fun g => .vstX (wOf r.w) r.a r.b r.w2 g r.xm.needOf
  | 2, 2 => (govOf r.xm.m).map fun g => .vldsX (wOf r.w) r.a r.b r.c g r.xm.needOf
  | 2, 3 => (govOf r.xm.m).map fun g => .vstsX (wOf r.w) r.a r.b r.c g r.xm.needOf
  | 2, 4 => (govOf r.xm.m).map fun g => .vldxX (wOf r.w) r.a r.b r.c (r.w2.setWidth 16) (BitVec.ofNat 16 (r.w2.toNat / 65536)) g r.xm.needOf
  | 2, 5 => (govOf r.xm.m).map fun g => .vldxZeroX (wOf r.w) r.a r.b r.c (r.w2.setWidth 16) (BitVec.ofNat 16 (r.w2.toNat / 65536)) g r.xm.needOf
  | _, _ => none
/-- The operation of major 0x1e in each form (R64 to R67); `none` for a reserved code value. -/
noncomputable def build30 (r : Raw) : Option Instr :=
  match r.len.toNat, r.min.toNat with
  | 0, 0 => some (.vbind r.a r.b r.c)
  | 0, 1 => some (.vunbind r.a)
  | _, _ => none
/-- The operation of major 0x20 in each form (R64 to R67); `none` for a reserved code value. -/
noncomputable def build32 (r : Raw) : Option Instr :=
  match r.len.toNat, r.min.toNat with
  | 0, 0 => some (.runi false (r.a.setWidth 4) (r.b.setWidth 4) (r.c.setWidth 4))
  | 0, 64 => some (.runi true (r.a.setWidth 4) (r.b.setWidth 4) (r.c.setWidth 4))
  | 0, 1 => some (.rint false (r.a.setWidth 4) (r.b.setWidth 4) (r.c.setWidth 4))
  | 0, 65 => some (.rint true (r.a.setWidth 4) (r.b.setWidth 4) (r.c.setWidth 4))
  | 0, 2 => some (.rsub false (r.a.setWidth 4) (r.b.setWidth 4) (r.c.setWidth 4))
  | 0, 66 => some (.rsub true (r.a.setWidth 4) (r.b.setWidth 4) (r.c.setWidth 4))
  | 0, 3 => some (.rhull false (r.a.setWidth 4) (r.b.setWidth 4) (r.c.setWidth 4))
  | 0, 67 => some (.rhull true (r.a.setWidth 4) (r.b.setWidth 4) (r.c.setWidth 4))
  | 0, 5 => some (.rclip false (r.a.setWidth 4) (r.b.setWidth 4))
  | 0, 69 => some (.rclip true (r.a.setWidth 4) (r.b.setWidth 4))
  | 0, 4 => some (.rmove (r.a.setWidth 4) (r.b.setWidth 4))
  | _, _ => none
/-- The operation of major 0x21 in each form (R64 to R67); `none` for a reserved code value. -/
noncomputable def build33 (r : Raw) : Option Instr :=
  match r.len.toNat, r.min.toNat with
  | 0, 0 => some (.rdil false (r.a.setWidth 4) (r.b.setWidth 4) r.c)
  | 0, 64 => some (.rdil true (r.a.setWidth 4) (r.b.setWidth 4) r.c)
  | 0, 1 => some (.rproj false (r.a.setWidth 4) (r.b.setWidth 4) (r.c.setWidth 4))
  | 0, 65 => some (.rproj true (r.a.setWidth 4) (r.b.setWidth 4) (r.c.setWidth 4))
  | 0, 2 => some (.rsplit false (r.a.setWidth 4) (r.b.setWidth 4) r.c)
  | 0, 66 => some (.rsplit true (r.a.setWidth 4) (r.b.setWidth 4) r.c)
  | 2, 0 => some (.rdilX false (r.a.setWidth 4) (r.b.setWidth 4) r.c)
  | 2, 64 => some (.rdilX true (r.a.setWidth 4) (r.b.setWidth 4) r.c)
  | 2, 1 => some (.rprojX false (r.a.setWidth 4) (r.b.setWidth 4) (r.c.setWidth 4) r.xe.tid)
  | 2, 65 => some (.rprojX true (r.a.setWidth 4) (r.b.setWidth 4) (r.c.setWidth 4) r.xe.tid)
  | 2, 2 => some (.rsplitX false (r.a.setWidth 4) (r.b.setWidth 4) r.c)
  | 2, 66 => some (.rsplitX true (r.a.setWidth 4) (r.b.setWidth 4) r.c)
  | _, _ => none
/-- The operation of major 0x22 in each form (R64 to R67); `none` for a reserved code value. -/
noncomputable def build34 (r : Raw) : Option Instr :=
  match r.len.toNat, r.min.toNat with
  | 0, 1 => some (.rstr (r.a.setWidth 4) (r.b.setWidth 4) r.c)
  | 0, 2 => some (.rrag (r.a.setWidth 4) (r.b.setWidth 4))
  | 0, 4 => some (.rnbox r.a (r.b.setWidth 4))
  | 0, 5 => some (.rgetb r.a (r.b.setWidth 4) r.c)
  | 0, 6 => some (.rcells r.a (r.b.setWidth 4))
  | 0, 7 => some (.rtest (r.a.setWidth 3) (r.b.setWidth 4) r.c)
  | 2, 0 => some (.rbox (r.a.setWidth 4) r.xe.tid r.b r.c (r.w2.setWidth 2) (BitVec.ofNat 3 (r.w2.toNat / 256)) (BitVec.ofNat 3 (r.w2.toNat / 2048)))
  | 2, 3 => some (.rtid (r.a.setWidth 4) r.xe.tid)
  | 2, 4 => some (.rnboxX r.a (r.b.setWidth 4))
  | 2, 5 => some (.rgetbX r.a (r.b.setWidth 4) r.c)
  | 2, 6 => some (.rcellsX r.a (r.b.setWidth 4))
  | 2, 7 => some (.rtestX (r.a.setWidth 3) (r.b.setWidth 4) r.c)
  | 2, 1 => some (.rstrX (r.a.setWidth 4) (r.b.setWidth 4) r.c)
  | 2, 2 => some (.rragX (r.a.setWidth 4) (r.b.setWidth 4))
  | _, _ => none
/-- The operation of major 0x23 in each form (R64 to R67); `none` for a reserved code value. -/
noncomputable def build35 (r : Raw) : Option Instr :=
  match r.len.toNat, r.min.toNat with
  | 0, 0 => some (.rld (wOf r.w) (r.a.setWidth 4) r.b r.c)
  | 0, 1 => some (.rst (wOf r.w) (r.a.setWidth 4) r.b r.c)
  | 2, 0 => some (.rldX (wOf r.w) (r.a.setWidth 4) r.b r.w2)
  | 2, 1 => some (.rstX (wOf r.w) (r.a.setWidth 4) r.b r.w2)
  | _, _ => none
/-- The operation of major 0x24 in each form (R64 to R67); `none` for a reserved code value. -/
noncomputable def build36 (r : Raw) : Option Instr :=
  match r.len.toNat, r.min.toNat with
  | 0, 0 => some (.twIn (r.a.setWidth 4) (r.b.setWidth 4) r.c)
  | 0, 1 => some (.twOut (r.a.setWidth 4) (r.b.setWidth 4) r.c)
  | 0, 4 => some (.wcmd r.a r.b r.c)
  | 2, 0 => some (.twInX (r.a.setWidth 4) (r.b.setWidth 4) r.c r.w2)
  | 2, 1 => some (.twOutX (r.a.setWidth 4) (r.b.setWidth 4) r.c r.w2)
  | 2, 2 => some (.twMc (r.a.setWidth 4) (r.b.setWidth 4) r.c r.xe.d2 r.w2)
  | 2, 3 => some (.twWalk (r.a.setWidth 4) r.b r.xe.hnd r.xe.need)
  | _, _ => none
/-- The operation of major 0x25 in each form (R64 to R67); `none` for a reserved code value. -/
noncomputable def build37 (r : Raw) : Option Instr :=
  match r.len.toNat, r.min.toNat with
  | 0, 0 => some (.hdef r.hnd r.a)
  | 0, 1 => some (.hfree r.hnd)
  | 0, 2 => some (.hwait r.hnd r.need)
  | 0, 3 => some (.hstat r.a r.hnd)
  | 0, 4 => some (.advC r.hnd r.need)
  | 0, 5 => some (.advP r.hnd r.need)
  | _, _ => none
/-- The operation of major 0x26 in each form (R64 to R67); `none` for a reserved code value. -/
noncomputable def build38 (r : Raw) : Option Instr :=
  match r.len.toNat, r.min.toNat with
  | 0, 0 => some (.tlw (r.a.setWidth 4) r.b)
  | 0, 1 => some (.tlrd r.a (r.b.setWidth 4))
  | 0, 4 => some (.collRed (r.a.setWidth 4) r.b r.c)
  | 0, 5 => some (.collAr (r.a.setWidth 4) r.b r.c)
  | 0, 7 => some (.ckpt (r.a.setWidth 4) (r.b.setWidth 4) r.c)
  | 2, 0 => some (.tlwX (r.a.setWidth 4) r.b r.xe.d2)
  | 2, 4 => (collTyOf r.xe.type).map fun t => .collRedX (r.a.setWidth 4) r.b r.c t
  | 2, 5 => (collTyOf r.xe.type).map fun t => .collArX (r.a.setWidth 4) r.b r.c t
  | 2, 6 => (collTyOf r.xe.type).map fun t => .collBc (r.a.setWidth 4) r.b r.c t
  | _, _ => none
/-- The operation of major 0x27 in each form (R64 to R67); `none` for a reserved code value. -/
noncomputable def build39 (r : Raw) : Option Instr :=
  match r.len.toNat, r.min.toNat with
  | 0, 0 => some (.rwait (r.a.setWidth 4))
  | 0, 1 => some (.rprot (r.a.setWidth 4) r.c)
  | _, _ => none
/-- The operation of major 0x29 in each form (R64 to R67); `none` for a reserved code value. -/
noncomputable def build41 (r : Raw) : Option Instr :=
  match r.len.toNat, r.min.toNat with
  | 0, 0 => some (.zcfg (r.a.setWidth 3) r.b)
  | 0, 1 => some (.zcfgKeep (r.a.setWidth 3) r.b)
  | 0, 2 => some (.zzero (r.a.setWidth 3) r.c)
  | 0, 3 => some (.zld (wOf r.w) (r.a.setWidth 3) r.b r.c)
  | 0, 4 => some (.zst (wOf r.w) (r.a.setWidth 3) r.b r.c)
  | 0, 5 => some (.zmov (r.a.setWidth 3) (r.b.setWidth 3))
  | 0, 6 => some (.mstat r.a r.c)
  | 2, 0 => some (.zcfgX (r.a.setWidth 3) r.b)
  | 2, 1 => some (.zcfgKeepX (r.a.setWidth 3) r.b)
  | 2, 2 => some (.zzeroX (r.a.setWidth 3) r.c)
  | 2, 3 => some (.zldX (wOf r.w) (r.a.setWidth 3) r.b r.w2 r.c)
  | 2, 4 => some (.zstX (wOf r.w) (r.a.setWidth 3) r.b r.w2 r.c)
  | 2, 5 => some (.zmovX (r.a.setWidth 3) (r.b.setWidth 3))
  | 2, 6 => some (.mstatX r.a r.c)
  | _, _ => none
/-- The operation of major 0x2a in each form (R64 to R67); `none` for a reserved code value. -/
noncomputable def build42 (r : Raw) : Option Instr :=
  match r.len.toNat, r.min.toNat with
  | 0, 0 => some (.mcmd r.a r.b r.c)
  | 0, 1 => some (.mcap r.a r.b)
  | 0, 2 => some (.mrev r.a)
  | _, _ => none
/-- The operation of major 0x2c in each form (R64 to R67); `none` for a reserved code value. -/
noncomputable def build44 (r : Raw) : Option Instr :=
  match r.len.toNat, r.min.toNat with
  | 0, 0 => some (.cvt (r.a.setWidth 4) (r.b.setWidth 4) (r.c.setWidth 4))
  | 0, 1 => some (.cvtSat (r.a.setWidth 4) (r.b.setWidth 4) (r.c.setWidth 4))
  | 0, 2 => some (.ccmd r.a r.b)
  | _, _ => none
/-- The operation of major 0x2d in each form (R64 to R67); `none` for a reserved code value. -/
noncomputable def build45 (r : Raw) : Option Instr :=
  match r.len.toNat, r.min.toNat with
  | 2, 0 => some (.tset r.xe.tid r.b r.w2)
  | 2, 1 => some (.tget r.xe.tid r.b r.w2)
  | _, _ => none
/-- The operation of major 0x2e in each form (R64 to R67); `none` for a reserved code value. -/
noncomputable def build46 (r : Raw) : Option Instr :=
  match r.len.toNat, r.min.toNat with
  | 0, 32 => some (.pref r.b r.c)
  | 0, 33 => some (.wcnt (wOf r.w))
  | 0, 34 => (fenceOf r.c).map fun s => .acq s
  | 0, 35 => (fenceOf r.c).map fun s => .rel s
  | 0, 36 => (fenceOf r.c).map fun s => .fence s
  | 0, 37 => some (.objd r.a r.b)
  | 0, 38 => some (.objf r.a)
  | 2, 32 => (cpOf r.xm.cp).map fun cp => .prefX r.b r.c (scopeOf r.xm.scope) cp
  | 2, 33 => some (.wcntX (wOf r.w))
  | 2, 34 => (fenceOf r.c).map fun s => .acqX s
  | 2, 35 => (fenceOf r.c).map fun s => .relX s
  | 2, 36 => (fenceOf r.c).map fun s => .fenceX s
  | 2, 37 => some (.objdX r.a r.b)
  | 2, 38 => some (.objfX r.a)
  | _, _ => buildGlobal r
/-- The operation of major 0x2f in each form (R64 to R67); `none` for a reserved code value. -/
noncomputable def build47 (r : Raw) : Option Instr :=
  match r.len.toNat, r.min.toNat with
  | 2, 0 => (amoTyOf r.xm.type).map fun t => .amoAdd (wOf r.w) t (scopeOf r.xm.scope) r.a r.b r.c r.xm.d2
  | 2, 1 => (amoTyOf r.xm.type).map fun t => .amoMin (wOf r.w) t (scopeOf r.xm.scope) r.a r.b r.c r.xm.d2
  | 2, 2 => (amoTyOf r.xm.type).map fun t => .amoMax (wOf r.w) t (scopeOf r.xm.scope) r.a r.b r.c r.xm.d2
  | 2, 3 => (amoTyOf r.xm.type).map fun t => .amoMinn (wOf r.w) t (scopeOf r.xm.scope) r.a r.b r.c r.xm.d2
  | 2, 4 => (amoTyOf r.xm.type).map fun t => .amoMaxn (wOf r.w) t (scopeOf r.xm.scope) r.a r.b r.c r.xm.d2
  | 2, 5 => (amoTyOf r.xm.type).map fun t => .amoAnd (wOf r.w) t (scopeOf r.xm.scope) r.a r.b r.c r.xm.d2
  | 2, 6 => (amoTyOf r.xm.type).map fun t => .amoOr (wOf r.w) t (scopeOf r.xm.scope) r.a r.b r.c r.xm.d2
  | 2, 7 => (amoTyOf r.xm.type).map fun t => .amoXor (wOf r.w) t (scopeOf r.xm.scope) r.a r.b r.c r.xm.d2
  | 2, 8 => (amoTyOf r.xm.type).map fun t => .amoSwap (wOf r.w) t (scopeOf r.xm.scope) r.a r.b r.c r.xm.d2
  | 2, 9 => (amoTyOf r.xm.type).map fun t => .amoCas (wOf r.w) t (scopeOf r.xm.scope) r.a r.b r.c r.xm.d2
  | _, _ => none
/-- The operation of major 0x30 in each form (R64 to R67); `none` for a reserved code value. -/
noncomputable def build48 (r : Raw) : Option Instr :=
  match r.len.toNat, r.min.toNat with
  | 0, 0 => some (.jsub r.a r.b)
  | 0, 1 => some (.spawn r.a r.b (r.c.setWidth 4))
  | 0, 2 => some .jnext
  | 0, 3 => some .done
  | 0, 4 => some .yield
  | _, _ => none
/-- The operation of major 0x31 in each form (R64 to R67); `none` for a reserved code value. -/
noncomputable def build49 (r : Raw) : Option Instr :=
  match r.len.toNat, r.min.toNat with
  | 0, 0 => some (.mset (r.a.setWidth 4) r.b)
  | 0, 1 => some (.join (r.a.setWidth 4))
  | 0, 2 => some (.leave (r.a.setWidth 4))
  | 0, 3 => some (.bar (r.a.setWidth 4))
  | 0, 4 => some (.barA (r.a.setWidth 4))
  | 0, 5 => some (.barW (r.a.setWidth 4))
  | 0, 7 => some (.unwatch r.a)
  | 3, 6 => some (.watch r.a r.b r.c r.xm.d2 r.k)
  | _, _ => none
/-- The operation of major 0x32 in each form (R64 to R67); `none` for a reserved code value. -/
noncomputable def build50 (r : Raw) : Option Instr :=
  match r.len.toNat, r.min.toNat with
  | 0, 0 => some (.phrLead r.a)
  | 0, 1 => some (.phrJoin r.a)
  | 0, 2 => some .phrEnd
  | _, _ => none
/-- The operation of major 0x33 in each form (R64 to R67); `none` for a reserved code value. -/
noncomputable def build51 (r : Raw) : Option Instr :=
  match r.len.toNat, r.min.toNat with
  | 0, 0 => some (.scope (r.a.setWidth 4))
  | 0, 1 => some (.scopeClose (r.a.setWidth 4))
  | 0, 2 => some (.cancel (r.a.setWidth 4))
  | 0, 3 => some (.cancelW (r.a.setWidth 4))
  | 0, 4 => some (.onc r.a)
  | 0, 5 => some (.cancelById r.a)
  | 0, 6 => some (.cancelWById r.a)
  | _, _ => none
/-- The operation of major 0x34 in each form (R64 to R67); `none` for a reserved code value. -/
noncomputable def build52 (r : Raw) : Option Instr :=
  match r.len.toNat, r.min.toNat with
  | 0, 0 => some (.snd r.a r.b)
  | 0, 1 => some (.rcv r.a r.b)
  | 0, 2 => some (.rcvq r.a)
  | _, _ => none
/-- The operation of major 0x35 in each form (R64 to R67); `none` for a reserved code value. -/
noncomputable def build53 (r : Raw) : Option Instr :=
  match r.len.toNat, r.min.toNat with
  | 0, 0 => some .step
  | 0, 1 => some (.xtt r.a)
  | 0, 2 => some (.xsend r.a r.b r.c)
  | 0, 3 => some (.xreq r.a r.b r.c)
  | 0, 4 => some (.xadd r.a r.b r.c)
  | 0, 5 => some (.xcnt r.a)
  | 2, 0 => some .stepX
  | 2, 1 => some (.xttX r.a)
  | 2, 2 => some (.xsendX (r.w2.setWidth 8) r.b (BitVec.ofNat 24 (r.w2.toNat / 256)))
  | 2, 3 => some (.xreqX r.a r.b r.c)
  | 2, 4 => some (.xaddX r.a r.b r.c)
  | 2, 5 => some (.xcntX r.a)
  | _, _ => none
/-- The operation of major 0x36 in each form (R64 to R67); `none` for a reserved code value. -/
noncomputable def build54 (r : Raw) : Option Instr :=
  match r.len.toNat, r.min.toNat with
  | 0, 0 => some (.srd r.a r.imm10)
  | 0, 1 => some (.swr r.imm10 r.a)
  | 0, 2 => some (.svc r.imm10)
  | 0, 3 => some (.trap r.imm10)
  | 0, 4 => some (.brk r.imm10)
  | 0, 5 => some .tret
  | 0, 6 => some .wfe
  | 0, 7 => some (.sev r.a)
  | 0, 8 => some .snap
  | 0, 9 => some .idle
  | 0, 10 => some (.rsm r.a)
  | 0, 11 => some (.fltr r.a (r.b.setWidth 4))
  | _, _ => none
/-- The operation of major 0x37 in each form (R64 to R67); `none` for a reserved code value. -/
noncomputable def build55 (r : Raw) : Option Instr :=
  match r.len.toNat, r.min.toNat with
  | 0, 0 => some (.ctxsave r.a)
  | 0, 1 => some (.ctxload r.a)
  | 0, 2 => some (.preempt r.a)
  | _, _ => none

/-- The operation the fields name; `none` where a code value is reserved (R63). -/
noncomputable def build (r : Raw) : Option Instr :=
  match r.maj.toNat with
  | 1 => build1 r
  | 2 => build2 r
  | 3 => build3 r
  | 4 => build4 r
  | 8 => build8 r
  | 9 => build9 r
  | 10 => build10 r
  | 11 => build11 r
  | 12 => build12 r
  | 13 => build13 r
  | 14 => build14 r
  | 15 => build15 r
  | 16 => build16 r
  | 17 => build17 r
  | 18 => build18 r
  | 19 => build19 r
  | 20 => build20 r
  | 21 => build21 r
  | 22 => build22 r
  | 23 => build23 r
  | 24 => build24 r
  | 25 => build25 r
  | 26 => build26 r
  | 27 => build27 r
  | 28 => build28 r
  | 29 => build29 r
  | 30 => build30 r
  | 32 => build32 r
  | 33 => build33 r
  | 34 => build34 r
  | 35 => build35 r
  | 36 => build36 r
  | 37 => build37 r
  | 38 => build38 r
  | 39 => build39 r
  | 40 => build40 r
  | 41 => build41 r
  | 42 => build42 r
  | 44 => build44 r
  | 45 => build45 r
  | 46 => build46 r
  | 47 => build47 r
  | 48 => build48 r
  | 49 => build49 r
  | 50 => build50 r
  | 51 => build51 r
  | 52 => build52 r
  | 53 => build53 r
  | 54 => build54 r
  | 55 => build55 r
  | _ => none

/-- The fields with the one operand whose limit R63 checks on the raw word brought inside it: the amount I of the
immediate vector shifts, which is below 32 (R139). -/
def Raw.inRange (r : Raw) : Raw :=
  if r.maj = 25 ∧ 69 ≤ r.min.toNat then { r with w2 := BitVec.ofNat 32 (r.w2.toNat % 32) } else r

/-- The fields without the literal (R69 check 4). -/
def Raw.bare (r : Raw) : Raw :=
  if r.len = 1 then { r with len := 0, k := 0 } else if r.len = 3 then { r with len := 2, k := 0 } else r

/-- Checks 5 and 6 of R69 on an operation whose form is right: must-be-zero bits, then operand limits. -/
def checkRaw (r : Raw) (i : Instr) : Decoded :=
  if encodeRaw i ≠ r.inRange ∨ i.unusedZero = false then .reject .mbz
  else if r.inRange ≠ r ∨ i.limitsOk = false then .reject .value
  else .instr i

/-- Decoding in the order of R69, checks 1 and 3 to 6. Check 2 (factory test) depends on STATUS.FT, and checks 7 and 8
on the core and the mode: the step makes them. -/
noncomputable def decodeRaw (r : Raw) : Decoded :=
  if r.maj = 0 then .reject (if r.word0 = 0 then .zero else .opcode)
  else if r.maj = 0x3F then .instr (.factoryTest r.word0)
  else
    let forms := lens r.maj.toNat r.min.toNat
    if forms = 0 then .reject .opcode
    else if lenOk forms r.len.toNat then
      match build r with
      | none => .reject .opcode
      | some i => checkRaw r i
    else if (r.len = 1 ∨ r.len = 3) ∧ lenOk forms r.bare.len.toNat = true then
      match build r.bare with
      | none => .reject .opcode
      | some _ => .reject .literal
    else .reject .length

/-- How many words LEN announces (R51). -/
def lenWords (w0 : BitVec 32) : Nat :=
  match w0.toNat % 4 with
  | 0 => 1
  | 1 => 3
  | 2 => 3
  | _ => 5

/-- The fields of the words at an instruction's address, in address order (R51); words LEN does not announce are not
looked at. -/
def Raw.ofWords (w0 w1 w2 w3 w4 : BitVec 32) : Raw :=
  let r := Raw.ofWord0 w0
  match w0.toNat % 4 with
  | 0 => r
  | 1 => { r with k := BitVec.ofNat 64 (w1.toNat + 4294967296 * w2.toNat) }
  | 2 => { r with w1 := w1, w2 := w2 }
  | _ => { r with w1 := w1, w2 := w2, k := BitVec.ofNat 64 (w3.toNat + 4294967296 * w4.toNat) }

/-- The words of the fields, in address order. -/
def Raw.words (r : Raw) : List (BitVec 32) :=
  let lo := BitVec.ofNat 32 r.k.toNat
  let hi := BitVec.ofNat 32 (r.k.toNat / 4294967296)
  match r.len.toNat with
  | 0 => [r.word0]
  | 1 => [r.word0, lo, hi]
  | 2 => [r.word0, r.w1, r.w2]
  | _ => [r.word0, r.w1, r.w2, lo, hi]

/-- The encoder: the words of an instruction, in address order. -/
def encode (i : Instr) : List (BitVec 32) := (encodeRaw i).words

/-- The decoder on the words at an address: total, refusing by name. Missing words read as zero; the fetch never leaves
one missing (R69). -/
noncomputable def decodeWords (ws : List (BitVec 32)) : Decoded :=
  decodeRaw (Raw.ofWords (ws.getD 0 0) (ws.getD 1 0) (ws.getD 2 0) (ws.getD 3 0) (ws.getD 4 0))

/-- A little-endian word of four bytes (R7). -/
def wordOfBytes (b0 b1 b2 b3 : Byte) : BitVec 32 :=
  BitVec.ofNat 32 (b0.toNat + 256 * b1.toNat + 65536 * b2.toNat + 16777216 * b3.toNat)

/-- The words of a byte string, four bytes to a word; a tail shorter than a word is dropped. -/
def wordsOfBytes : List Byte → List (BitVec 32)
  | b0 :: b1 :: b2 :: b3 :: rest => wordOfBytes b0 b1 b2 b3 :: wordsOfBytes rest
  | _ => []

/-- The decoder on bytes: the outcome and the bytes after the instruction. -/
noncomputable def decodeBytes (bs : List Byte) : Decoded × List Byte :=
  (decodeWords (wordsOfBytes bs), bs.drop (4 * lenWords ((wordsOfBytes bs).getD 0 0)))

/-- The `n` low bytes of a number, least significant first (R7). -/
def bytesOfNat : Nat → Nat → List Byte
  | 0, _ => []
  | n + 1, x => BitVec.ofNat 8 x :: bytesOfNat n (x / 256)

/-- The instruction the decoder reads from an instruction whose bits are `w`, numbered as the opcode table numbers
them; the bits at and above `nbits` are zero, up to the longest instruction, 20 bytes. -/
noncomputable def decodeTableWord (nbits w : Nat) : Option Instr :=
  match decodeBytes (bytesOfNat 20 (w % 2 ^ nbits)) with
  | (.instr i, _) => some i
  | (.reject _, _) => none

/-- An instruction's length in bytes (R51). -/
def Instr.byteLen (i : Instr) : Nat := 4 * (encode i).length

end Sys2Proof
end

