-- ==== Sys2Proof/Machine/Engine.lean ====
section
/-! DEFINITION. The engines' shared operations (R285 to R287, R295, R298, R302, R313, R318, R328, R343 to R347, R371, R401):
timelines, the indivisible actions of an operation, completion, faults and cuts. -/

namespace Sys2Proof.Machine

/-! ### Contexts and timelines (R285, R122) -/

/-- The number of an engine context of the device. -/
def engKey (tile ctx : Nat) : Nat := 16 * tile + ctx
/-- An engine context's timeline. -/
def engCtx (s : State) (tile ctx : Nat) : EngCtx := (lookup (engKey tile ctx) s.eng.ctxs).getD {}
/-- A change to an engine context. -/
def onCtx (tile ctx : Nat) (f : EngCtx → EngCtx) (s : State) : State :=
  s.onEng fun e => { e with ctxs := insert (engKey tile ctx) (f (engCtx s tile ctx)) e.ctxs }

/-- The operations of a context that have not completed, in timeline order. -/
def inFlight (s : State) (tile ctx : Nat) : List EngOp := s.eng.ops.filter fun o => o.tile = tile && o.ctx = ctx

/-- Whether every operation of a context numbered `n` or below has completed (R288). -/
def isCompleted (s : State) (tile ctx n : Nat) : Bool :=
  n ≤ (engCtx s tile ctx).issued && !(inFlight s tile ctx).any fun o => o.num ≤ n

/-- Whether what a wait for operations numbered `n` or below waits for is the task's own (R369). -/
def waitsForOwn (s : State) (tile ctx n : Nat) : Bool :=
  n ≤ (engCtx s tile ctx).issued && (inFlight s tile ctx).all fun o => n < o.num || o.task = s.th.taskid

/-- An operation in flight. -/
def opAt (s : State) (tile ctx num : Nat) : Option EngOp := (inFlight s tile ctx).find? fun o => o.num = num

/-- An operation replaced by its new self. -/
def putOp (o : EngOp) (s : State) : State :=
  s.onEng fun e => { e with ops := e.ops.map fun x => if x.tile = o.tile && x.ctx = o.ctx && x.num = o.num then o else x }

/-- The live or pre-empted context of a task in a slot. -/
def contextOf (s : State) (num task : Nat) : Option Thread :=
  if s.th.live ∧ s.th.num = num ∧ s.th.taskid = task then some s.th
  else match s.others.find? fun t => t.live && t.num = num && t.taskid = task with
    | some t => some t
    | none => s.parked.find? fun t => t.num = num && t.taskid = task

/-- A change to a die's record. -/
def onDie (die : Nat) (f : DieRec → DieRec) (s : State) : State := { s with dies := onVec s.dies die f }

/-- An interrupt addressed to a thread (R338). -/
def interruptThread (num vector : Nat) (s : State) : State :=
  s.onThread num fun t => { t with intrs := t.intrs ++ [vector] }

/-! ### Handles (R297, R298) -/

/-- A change to a buffer-table entry. -/
def onHandle (k : Nat) (f : HandleEnt → HandleEnt) (s : State) : State :=
  match lookup k s.eng.handles with
  | none => s
  | some e => s.onEng fun g => { g with handles := insert k (f e) g.handles }

/-- The slots from an index, as many as a count, round the ring. -/
def ringSlots (e : HandleEnt) (first n : Nat) : List Nat := (List.range n).map fun i => (first + i) % e.slots.length

/-- Whether every one of the slots is in a state. -/
def slotsAre (e : HandleEnt) (is : List Nat) (x : SlotState) : Bool := is.all fun i => e.slots[i]? = some x

/-- Slots put in a state. -/
def HandleEnt.put (e : HandleEnt) (is : List Nat) (x : SlotState) : HandleEnt :=
  { e with slots := is.foldl (fun ss i => ss.set i x) e.slots }

/-! ### Global accesses of an engine (R286, R304, R342, R343) -/

/-- Why an action of an operation cannot be made now: it waits, it faults in a streaming window with a cause of R344 at an
address, or it ends the operation with a status of R287. -/
inductive EngStop where
  | stall
  | fault (cause va : Nat)
  | fail (status : Nat)
  deriving DecidableEq, Repr

/-- A computation of an engine action. -/
abbrev EngRun (α : Type) := Except EngStop α

/-- Where a page lies for the issuing task. -/
inductive PageUse where
  | leased | window | outside
  deriving DecidableEq, Repr

/-- The page of `n` bytes: in the lease, in a streaming window, or in neither (R286, R342). Without a lease list every
mapped page is leased (R191). -/
def pageUse (s : State) (task va n : Nat) : PageUse :=
  if 2 ^ 56 < va + n then .outside
  else match lookup task s.tasks with
    | none => .leased
    | some k =>
      if !k.leased || inRanges (leaseRanges k) va n then .leased
      else if inRanges (streamWindows k) va n then .window else .outside

/-- The physical place of an access, and whether its page refuses it. A refused access to a leased page counts as met by a
protection [DEDUCED, log 33], and no engine reaches the Welt register space [DESIGN CHOICE, log 99]. -/
def engPlace (o : EngOp) (writes : Bool) (va n : Nat) (s : State) : EngRun (Nat × Bool × State) :=
  let use := pageUse s o.task va n
  if use = .outside then .error (.fail 4)
  else
    let isWindow := use = .window
    match translate (1024 + o.tile) o.tile o.asid va s with
    | (.page pa rd wr _, s) =>
      if isWelt pa then .error (if isWindow then .fault 1 va else .fail 4)
      else if !writes && !rd then (if isWindow then .error (.fault 2 va) else .ok (pa, true, s))
      else if writes && !wr then (if isWindow then .error (.fault 3 va) else .ok (pa, true, s))
      else .ok (pa, false, s)
    | (.stalled, _) => .error .stall
    | (.absent, _) => .error (if isWindow then .fault 0 va else .fail 4)
    | (.bad, _) => .error (if isWindow then .fault 1 va else .fail 4)

/-- What an engine read gives: the bytes, whether they are poisoned, and whether a protection refused them (R304). -/
structure EngData where
  bytes : List Byte
  poison : Bool := false
  refused : Bool := false

/-- Waiting where a step of the memory system gives none. -/
def orStall {α : Type} (r : Option α) : EngRun α := match r with | some x => .ok x | none => .error .stall

/-- A read of `n` bytes inside one line at the bank (R286). Poisoned data of a leased page travels on [DEDUCED, log 33]. -/
def engReadAt (o : EngOp) (va n pa : Nat) (refused : Bool) (s : State) : EngRun (EngData × State) :=
  if refused || protectedBy s 1 o.asid va n then .ok (⟨List.replicate n 0, false, true⟩, s)
  else do
    let s ← orStall (bankRead o.tile (pa / 128) none s)
    let poison := (List.range ((pa % 4 + n + 3) / 4)).any fun i => isPoisoned s (pa / 4 + i)
    if poison ∧ pageUse s o.task va n = .window then .error (.fault 4 va)
    else .ok (⟨readBytes s.mem.dram pa n, poison, false⟩, s)

/-- A read of `n` bytes of local memory inside one line. -/
def engRead (o : EngOp) (va n : Nat) (s : State) : EngRun (EngData × State) := do
  let (pa, refused, s) ← engPlace o false va n s
  if isRemote pa then .error (.fail 5) else engReadAt o va n pa refused s

/-- A read of any length, line by line. -/
def engReadLong (o : EngOp) (va n : Nat) (s : State) : EngRun (List Byte × State) :=
  (List.range ((va % 8 + n + 7) / 8)).foldlM (fun r i => do
    let lo := max va (va / 8 * 8 + 8 * i)
    let hi := min (va + n) (va / 8 * 8 + 8 * i + 8)
    let (d, s) ← engRead o lo (hi - lo) r.2
    .ok (r.1 ++ d.bytes, s)) ([], s)

/-- The code under which a store or drain packet of an operation is counted on a connection. -/
def opCode (o : EngOp) : Nat := 16384 * (o.num + 1) + engKey o.tile o.ctx

/-- A packet of an operation that another device acknowledges (R399); a peer that is down ends the operation (R400). -/
def engSend (o : EngOp) (peer op : Nat) (flags : BitVec 16) (aux : BitVec 32) (tag addr : Nat) (bs : List Byte) (s : State) :
    EngRun State :=
  if ((lookup peer s.fab.conns).getD { up := false }).up then
    let r := fabSend peer op flags aux tag addr (beats bs) s
    .ok (r.1.onFab fun f =>
      { f with conns := f.conns.map fun c =>
          if c.1 = peer ∧ op = 0x12 then (c.1, { c.2 with stores := c.2.stores ++ [(r.2, .op (opCode o))] }) else c })
  else .error (.fail 5)

/-- Bytes of one granule that an engine writes together. -/
structure GranuleBytes where
  va : Nat
  bytes : List Byte
  poison : Bool

/-- The place of a write of bytes inside one granule; none where the write is refused (R287, R304). -/
def engTarget (o : EngOp) (x : GranuleBytes) (s : State) : EngRun (Option Nat × State) := do
  let n := x.bytes.length
  let (pa, refused, s) ← engPlace o true x.va n s
  if refused || protectedBy s 0 o.asid x.va n || protectedBy s 1 o.asid x.va n || classAt s o.asid x.va = 3 then .ok (none, s)
  else if writeStalls s o.asid x.va n then .error .stall
  else .ok (some pa, s)

/-- A bank's word once bytes have been written into it, with its poison: one that is not wholly overwritten stays poisoned (R245). -/
def mergeBytes (s : State) (xs : List (Nat × GranuleBytes)) (w : Nat) : BankWord :=
  let xs := xs.filter fun x => (wordsOf x.1 x.2.bytes.length).contains w
  let isWhole := (List.range 4).all fun k => xs.any fun x => x.1 ≤ 4 * w + k && 4 * w + k < x.1 + x.2.bytes.length
  (w, xs.foldl (fun v x => mergeWord x.1 x.2.bytes.length (natOfBytes x.2.bytes) w v) (bankWord s w),
    (xs.any fun x => x.2.poison) || (!isWhole && isPoisoned s w))

/-- Writes inside one granule, made at the bank as one action and published by the tile's die (R286, R391): narrow words are collected
first, and every copy is invalidated. Refused writes are not made (R287). -/
def engWrites (o : EngOp) (xs : List GranuleBytes) (s : State) : EngRun (EngOp × State) := do
  let (ps, s) ← xs.foldlM (fun (r : List (Option Nat) × State) x => do
    let (p, s) ← engTarget o x r.2
    .ok (r.1 ++ [p], s)) ([], s)
  let good := (ps.zip xs).filterMap fun x => x.1.map fun pa => (pa, x.2)
  let o := if good.length < xs.length then { o with status := some 3 } else o
  match good with
  | [] => .ok (o, s)
  | (pa, _) :: _ =>
    if isRemote pa then
      good.foldlM (fun (r : EngOp × State) x => do
        let s ← engSend o (remoteDevice x.1) 0x12 (BitVec.ofNat 16 (accessFlags x.2.bytes.length o.topinf)) 0 0 (x.1 % 2 ^ 40) x.2.bytes r.2
        .ok ({ r.1 with sent := r.1.sent + 1 }, s)) (o, s)
    else
      let s ← orStall ((bankMiss o.tile (pa / 128) s).bind (forcedPublish (pa / 128) none))
      let words := ((good.flatMap fun x => wordsOf x.1 x.2.bytes.length).eraseDups).map (mergeBytes s good)
      let s ← orStall (publishNow (dieOfTile o.tile) words s)
      .ok (o, words.foldl (fun s w => dropCopies w.1 s) s)

/-- One such write. -/
def engWrite (o : EngOp) (va : Nat) (bs : List Byte) (s : State) : EngRun (EngOp × State) := engWrites o [⟨va, bs, false⟩] s

/-! ### Elements (R292, R306) -/

/-- A type from its code (R60). -/
def tyOfCode (n : Nat) : Ty :=
  [Ty.s8, .s16, .s32, .s64, .n8, .n16, .n32, .n64, .f32, .f16, .bf16, .t8, .t6].getD n .s8

/-- An element's bytes as they arrive at the destination, and the flags of its conversion (R306). -/
def convertElem (o : EngOp) (conv : Option Conv) (e : Elem) (bs : List Byte) : List Byte × Flags :=
  match conv with
  | none => (bs, {})
  | some c =>
    if c.copy then (bs, {})
    else
      let r := convert (tyOfCode c.dt) (tyOfCode c.st) (roundOf (BitVec.ofNat 64 o.rm)) o.topinf c.sat (c.sscale - c.dscale)
        (natOfBytes bs)
      (bytesOf e.dsize r.bits, r.flags)

/-- The conversion of an operation. -/
def EngOp.conv (o : EngOp) : Option Conv := match o.kind with | .transfer c => c | _ => none

/-- The granule an element is written to, a number of its own for each space. -/
def Elem.granule (e : Elem) : Nat :=
  match e.dst with
  | .glob va => 4 * (va / 16)
  | .scr key => 4 * (key / 16) + 1
  | .out _ => 2
  | _ => 3

/-- The granule an element is read from, in the same numbering. -/
def Elem.source (e : Elem) : Nat :=
  match e.src with
  | .glob va => 4 * (va / 16)
  | .scr key => 4 * (key / 16) + 1
  | _ => 3

/-- An element added to the group of its key. -/
def addToGroup (k : Nat) (e : Elem) : List (Nat × List Elem) → List (Nat × List Elem)
  | [] => [(k, [e])]
  | (j, es) :: rest => if j = k then (j, es ++ [e]) :: rest else (j, es) :: addToGroup k e rest

/-- Elements in groups of equal keys, in the order of their first members. -/
def groupElems (key : Elem → Nat) (es : List Elem) : List (Nat × List Elem) :=
  es.foldl (fun gs e => addToGroup (key e) e gs) []

/-- The actions that move elements: one for each destination granule. -/
def granuleJobs (es : List Elem) : List Job := (groupElems Elem.granule es).map fun g => .granule g.2 none

/-- The scratch granules that elements write, by a byte of each. -/
def scratchMarks (es : List Elem) : List Nat :=
  (es.filterMap fun e => match e.dst with | .scr key => some (key / 16 * 16) | _ => none).eraseDups

/-- The value of a source; a value that another device has to send is asked for. -/
inductive Fetched where
  | data (d : EngData)
  | asked (loc : Loc)

/-- What the sources of an action give: their values, or, where another device was asked for some, their places now. -/
inductive Gathered where
  | data (ds : List EngData)
  | asked (locs : List Loc)

/-- Raw words of a tile register (R314). -/
def TileReg.get (z : TileReg) (w : Nat) : Lane := (lookup w z.words).getD 0
@[inherit_doc TileReg.get] def TileReg.put (z : TileReg) (w : Nat) (x : Lane) : TileReg :=
  { z with words := if x = 0 then remove w z.words else insert w x z.words }

/-- A source of `n` bytes read. -/
def fetchLoc (o : EngOp) (l : Loc) (n : Nat) (s : State) : EngRun (Fetched × State) :=
  match l with
  | .imm bs poison refused => .ok (.data ⟨bs, poison, refused⟩, s)
  | .scr key => .ok (.data ⟨scratchBytes s key n, scratchPoisoned s key n, false⟩, s)
  | .tileWord z w =>
    let x := match contextOf s o.thread o.home with | some t => ((t.z[z]?).getD {}).get w | none => 0
    .ok (.data ⟨bytesOf 4 x.toNat, false, false⟩, s)
  | .out _ => .ok (.data ⟨[], false, false⟩, s)
  | .result index =>
    match lookup (index / 32 * 32) o.results with
    | some ls =>
      let l := (ls.getD (index % 32) 0).toNat
      .ok (.data ⟨bytesOf n (if n = 2 then l / 65536 else l), false, false⟩, s)
    | none => .error .stall
  | .reply tag peer va =>
    match s.fab.replies.find? fun r => r.1 = tag with
    | some (_, st, bs) =>
      let s := s.onFab fun f => { f with replies := f.replies.filter fun r => r.1 ≠ tag }
      if st = 0 then .ok (.data ⟨bs.take n, false, false⟩, s)
      else if st = statusPoison then
        if pageUse s o.task va n = .window then .error (.fault 4 va) else .ok (.data ⟨List.replicate n 0, true, false⟩, s)
      else if st = statusRegionProt then .ok (.data ⟨List.replicate n 0, false, true⟩, s)
      else .error (.fail 5)
    | none => .error (if ((lookup peer s.fab.conns).getD { up := false }).up then .stall else .fail 5)
  | .glob va => do
    let (pa, refused, s) ← engPlace o false va n s
    if isRemote pa && !refused && !protectedBy s 1 o.asid va n then
      let tag := s.fab.tag
      let s ← engSend o (remoteDevice pa) 0x10 (BitVec.ofNat 16 (accessFlags n o.topinf)) 0 tag (pa % 2 ^ 40) [] s
      .ok (.asked (.reply tag (remoteDevice pa) va), s.onFab fun f => { f with tag := tag + 1 })
    else
      let (d, s) ← engReadAt o va n pa refused s
      .ok (.data d, s)

/-- Whether another device holds a source. -/
def isFarSource (o : EngOp) (s : State) (x : Loc × Nat) : Bool :=
  match x.1 with
  | .glob va => match engPlace o false va x.2 s with
    | .ok (pa, refused, _) => isRemote pa && !refused && !protectedBy s 1 o.asid va x.2
    | _ => false
  | _ => false

/-- Sources of one action, each with its size, read in turn and each once (R294); what another device holds is asked for first. -/
def gatherSources (o : EngOp) (ls : List (Loc × Nat)) (s : State) : EngRun (Gathered × State) := do
  let srcs := ls.eraseDups
  let far := srcs.filter (isFarSource o s)
  let (fs, s) ← (if far.isEmpty then srcs else far).foldlM (fun (r : List ((Loc × Nat) × Fetched) × State) x => do
    let (f, s) ← fetchLoc o x.1 x.2 r.2
    .ok (r.1 ++ [(x, f)], s)) ([], s)
  let got (x : Loc × Nat) : Option Fetched := (fs.find? fun y => y.1 = x).map Prod.snd
  .ok (if far.isEmpty then .data (ls.map fun x => match got x with | some (.data d) => d | _ => ⟨[], false, false⟩)
    else .asked (ls.map fun x => match got x with | some (.asked l) => l | _ => x.1), s)

/-- One element written that goes to no global address. A partition of a fenced die discards it (R389). -/
def storeElem (o : EngOp) (e : Elem) (bs : List Byte) (poison : Bool) (s : State) : EngOp × State :=
  match e.dst with
  | .scr key =>
    if ((s.dies[dieOfCore (key / 327680)]?).getD {}).fenced then (o, s)
    else
      let s := scratchPut key bs s
      (o, if poison then s.onMem fun m => { m with poison := insertKey (scratchPoison key) m.poison } else s)
  | .out pos =>
    match o.kind with
    | .drain kind target addr out sent =>
      ({ o with kind := .drain kind target addr (out.take pos ++ bs ++ out.drop (pos + bs.length)) sent }, s)
    | _ => (o, s)
  | _ => (o, s)

/-- The draining marks that an operation set are cleared (R309). -/
def clearDrains (o : EngOp) (s : State) : State :=
  s.onMem fun m => { m with drains := m.drains.filter fun d => d.op ≠ (o.tile, o.ctx, o.num) }

/-- One action on a granule: every source is read, and the granule is written whole. Elements of several granules are read once and
then written granule by granule (R286, R294, R296). [DESIGN CHOICE, log 51] -/
def moveGranule (o : EngOp) (es : List Elem) (mark : Option Nat) (s : State) : EngRun (List Job × EngOp × State) := do
  let (got, s) ← gatherSources o (es.map fun e => (e.src, e.ssize)) s
  match got with
  | .asked locs => .ok ([.granule ((es.zip locs).map fun x => { x.1 with src := x.2 }) mark], o, s)
  | .data got =>
    let ds := es.zip got
    match groupElems Elem.granule es with
    | _ :: _ :: _ =>
      .ok (granuleJobs (ds.map fun x => { x.1 with src := .imm x.2.bytes x.2.poison x.2.refused }), o, s)
    | _ =>
      let o := if ds.any fun x => x.2.refused then { o with status := some 3 } else o
      let cs := ds.map fun x => (x.1, convertElem o o.conv x.1 x.2.bytes, x.2.poison)
      let o := { o with flags := cs.foldl (fun f c => f ||| c.2.1.2.bits) o.flags }
      let (o, s) ← engWrites o (cs.filterMap fun c => match c.1.dst with
        | .glob va => some ⟨va, c.2.1.1, c.2.2⟩
        | _ => none) s
      let (o, s) := cs.foldl (fun (r : EngOp × State) c => storeElem r.1 c.1 c.2.1.1 c.2.2 r.2) (o, s)
      let gs := scratchMarks es
      let s := (gs.filter fun g => o.marks.contains g).foldl (fun s g => endPending g s) s
      .ok ([], { o with marks := o.marks.filter fun g => !gs.contains g }, s)

/-- Whether an element's source has not been read. -/
def Elem.isOpen (e : Elem) : Bool := match e.src with | .glob _ => true | .scr _ => true | _ => false

/-- Some wanted source of an action read ahead of the rest, as the engine's reads are made in no defined order (R293), for every element
that takes it (R294). -/
def captureOne (o : EngOp) (wanted : Elem → Bool) (es : List Elem) (mark : Option Nat) (s : State) : EngRun (List Job × EngOp × State) :=
  match es.find? fun e => e.isOpen && wanted e with
  | none => .error .stall
  | some e => do
    let (f, s) ← fetchLoc o e.src e.ssize s
    let next (x : Elem) : Elem := if x.src = e.src ∧ x.ssize = e.ssize then
        match f with
        | .data d => { x with src := .imm d.bytes d.poison d.refused }
        | .asked loc => { x with src := loc }
      else x
    .ok ([.granule (es.map next) mark], o, s)

/-! ### Stream operations (R318, R324) -/

/-- One element's accumulation of a whole operation (R129 to R133). -/
def accumulate (ty : Nat) (topinf : Bool) (c : Lane) (ps : List (Nat × Nat)) : LaneResult :=
  let num (x : Nat) : Num := sourceNum (tyOfCode ty) topinf x
  if ty = 0 then accumulateInt c ((ps.map fun p => intOfBits 8 true p.1 * intOfBits 8 true p.2).foldl (· + ·) 0)
  else if ty = 11 ∨ ty = 12 then accumulateBlock c (ps.map fun p => (num p.1, num p.2))
  else ps.foldl (fun r p =>
    let x := accumulateFma r.lane (num p.1) (num p.2)
    ⟨x.lane, r.flags.or x.flags⟩) ⟨c, {}⟩

/-- The logical k of a kept value (R326). -/
def selected (word t : Nat) : Nat := 4 * (t / 2) + word / 2 ^ (2 * t) % 4

/-- The products of element (i, j) of an operation whose rows hold `ka` values (R324). -/
def productsOf (sparse : Bool) (a b metas : List Nat) (ka cols i j : Nat) : List (Nat × Nat) :=
  (List.range ka).map fun t =>
    (a.getD (i * ka + t) 0, b.getD ((if sparse then selected (metas.getD i 0) t else t) * cols + j) 0)

/-- One tile element's update (R318). -/
def updateTile (o : EngOp) (i : Nat) (s : State) : EngOp × State :=
  match o.kind, contextOf s o.thread o.home with
  | .stream kind z rows cols, some t =>
    let reg := (t.z[z]?).getD {}
    let r : LaneResult := match kind with
      | .product ty sparse a b metas =>
        accumulate ty o.topinf (reg.get i) (productsOf sparse a b metas (a.length / rows) cols (i / cols) (i % cols))
      | .zero => ⟨0, {}⟩
      | .load ws => ⟨ws.getD i 0, {}⟩
      | .store => ⟨reg.get i, {}⟩
    ({ o with flags := o.flags ||| r.flags.bits },
      s.onThreads (isContext o.thread o.home) fun t => { t with z := onVec t.z z fun x => x.put i r.lane })
  | _, _ => (o, s)

/-! ### Collectives (R307, R401) -/

/-- The device's rank in a group and the group's members. -/
def groupRank (s : State) (group : Nat) : Option (Nat × List Nat) :=
  match lookup group s.eng.groups with
  | none => none
  | some ms => if ms.contains s.fab.device then some (ms.findIdx (· = s.fab.device), ms) else none

/-- Bytes of a source and of a destination element (R307). -/
def collSizes (ty : Nat) : Nat × Nat := if ty = 10 then (2, 2) else if ty = 11 then (1, 4) else (4, 4)

/-- An own source element as f32, its exact value (R401): f32 and bf16 elements keep their bits. -/
def collSource (ty : Nat) (topinf : Bool) (bs : List Byte) : Lane :=
  if ty = 11 then BitVec.ofNat 32 (Ieee.f32.ofNum .rne false (sourceNum (tyOfCode ty) topinf (natOfBytes bs))).bits
  else BitVec.ofNat 32 (natOfBytes bs * if ty = 10 then 65536 else 1)

/-- A rank's element joined to the flit that passes (R307). -/
def collJoin (red : Nat) (acc own : Lane) : LaneResult :=
  match red with
  | 0 => laneFadd .f32 .rne acc own
  | 1 => laneFminmax false .f32 acc own
  | _ => laneFminmax true .f32 acc own

/-- What the end of a reduction makes of an f32 element: a bf16 result is rounded once more (R307). -/
def collFinal (ty : Nat) (l : Lane) : LaneResult :=
  if ty ≠ 10 then ⟨l, {}⟩
  else
    let r := Ieee.bf16.ofNum .rne false (Ieee.f32.lane l)
    ⟨BitVec.ofNat 32 (r.bits * 65536), r.flags⟩

/-- A flit to another member; to this device it is put with those that arrived, where an operation holds at most 16 (R401). -/
def sendFlit (o : EngOp) (peer : Nat) (f : Flit) (s : State) : EngRun State :=
  if peer = s.fab.device then
    if 16 ≤ o.results.length + (s.eng.flits.filter fun x => x.group = f.group && x.src = f.src).length then .error .stall
    else .ok (s.onEng fun e => { e with flits := e.flits ++ [f] })
  else engSend o peer 0x20 (BitVec.ofNat 16 (7 + (if f.topinf then 8 else 0)))
    (BitVec.ofNat 32 f.group) 0 f.index (f.lanes.flatMap fun l => bytesOf 4 l.toNat) s

/-- The group of a collective and the device from which a chunk of it takes a flit: its lower neighbour for a part, the end of the chain
or the neighbour nearer to it for a result. -/
def flitSource (s : State) (o : EngOp) (result : Bool) : Option (Nat × Nat) :=
  match o.kind with
  | .collective op _ _ _ _ _ group root =>
    match groupRank s group with
    | none => none
    | some (rank, ms) =>
      let member (r : Nat) : Nat := ms.getD r 0
      if !result then (if rank = 0 ∨ op = 2 then none else some (group, member (rank - 1)))
      else if op = 0 then some (group, member (ms.length - 1))
      else if op = 1 then some (group, if rank + 1 = ms.length then s.fab.device else member (rank + 1))
      else some (group, if rank = root then s.fab.device else if root < rank then member (rank - 1) else member (rank + 1))
  | _ => none

/-- The group of a collective and the devices to which a chunk of it sends a flit: the next rank of the chain, or the member at which the
chain ends, for a part; the neighbours that are to have a result after this member (R401). -/
def flitTargets (s : State) (o : EngOp) (result : Bool) : List (Nat × Nat) :=
  match o.kind with
  | .collective op _ _ _ _ _ group root =>
    match groupRank s group with
    | none => []
    | some (rank, ms) =>
      let rankIf (ok : Bool) (r : Nat) : List (Nat × Nat) := if ok then [(group, ms.getD r 0)] else []
      if result then
        rankIf (op = 2 && root ≤ rank && rank + 1 < ms.length) (rank + 1) ++
          rankIf (if op = 1 then 0 < rank else op = 2 && rank ≤ root && 0 < rank) (rank - 1)
      else if op = 2 then [(group, s.fab.device)]
      else if rank + 1 < ms.length then [(group, ms.getD (rank + 1) 0)]
      else [(group, if op = 0 then ms.getD root 0 else s.fab.device)]
  | _ => []

/-- The operations issued before another, in the order of issue. -/
def opsBefore (s : State) (o : EngOp) : List EngOp :=
  s.eng.ops.takeWhile fun p => !(p.tile = o.tile && p.ctx = o.ctx && p.num = o.num)

/-- Whether an operation does not know yet what it does: a collective whose record, or another whose lengths, are not read. -/
def EngOp.isUnread (o : EngOp) : Bool :=
  o.jobs.any fun j => match j with
    | .record _ _ => (match o.kind with | .collective .. => true | _ => false)
    | .lengths _ _ => true
    | _ => false

/-- Whether an operation still has to take a flit of a source for an index. -/
def takesFlit (s : State) (x : Nat × Nat) (index : Nat) (p : EngOp) : Bool :=
  p.jobs.any fun j => match j with | .chunk r i _ => i = index && flitSource s p r = some x | _ => false

/-- Whether an operation still has to send a flit to one of some members for an index. -/
def sendsFlit (s : State) (xs : List (Nat × Nat)) (index : Nat) (p : EngOp) : Bool :=
  p.jobs.any fun j => match j with | .chunk r i _ => i = index && (flitTargets s p r).any xs.contains | _ => false

/-- Whether an operation that may be a collective has not read its record. -/
def EngOp.isUnknown (o : EngOp) : Bool := o.isUnread && match o.kind with | .collective .. => true | _ => false

/-- Whether a chunk may send its flits: those of its index that earlier operations send to the same members have gone (R401). -/
def maySend (s : State) (o : EngOp) (result : Bool) (index : Nat) : Bool :=
  !(opsBefore s o).any fun p => p.isUnknown || sendsFlit s (flitTargets s o result) index p

/-- The flit that an operation takes for a chunk: the first of its source for the index that has arrived, once no operation issued
earlier still has to take one like it. -/
def flitFor (s : State) (o : EngOp) (result : Bool) (index : Nat) : Option Flit :=
  match flitSource s o result with
  | none => none
  | some x =>
    if (opsBefore s o).any fun p => p.isUnknown || takesFlit s x index p then none
    else s.eng.flits.find? fun f => f.group = x.1 && f.index = index && f.src = x.2

/-- A flit that arrives is kept, unless it belongs to a collective that has ended here (R401). -/
def arriveFlit (f : Flit) (s : State) : State :=
  let keep (s : State) : State := s.onEng fun e => { e with flits := e.flits ++ [f] }
  match s.eng.ghosts.find? fun g => g.group = f.group && g.src = f.src with
  | none => keep s
  | some g =>
    let ahead := s.eng.ops.filter fun p => g.ahead.contains (16384 * (p.num + 1) + engKey p.tile p.ctx) && takesFlit s (g.group, g.src) f.index p
    let here := s.eng.flits.filter fun x => x.group = f.group && x.src = f.src && x.index = f.index
    if here.length < ahead.length then keep s
    else
      let gone (s : State) : State := s.onEng fun e => { e with ghosts := e.ghosts.erase g }
      if f.index < g.next then keep (gone s)
      else if g.last ≤ f.index then gone s
      else s.onEng fun e => { e with ghosts := e.ghosts.map fun x => if x = g then { g with next := f.index + 1 } else x }

/-- The flits that a collective would still take are forgotten with it: those that have arrived, and those of other devices as they arrive.
A packet names no operation: a flit of index 0 begins the next one. [DESIGN CHOICE, log 52] -/
def forgetFlits (o : EngOp) (s : State) : State :=
  let takes := o.jobs.filterMap fun j => match j with | .chunk r i _ => (flitSource s o r).map fun x => (x, i) | _ => none
  let ghosts := ((takes.map Prod.fst).eraseDups).map fun x =>
    let is := (takes.filter fun t => t.1 = x).map Prod.snd
    (⟨x.1, x.2, is.foldl min (is.headD 0), is.foldl max 0,
      (opsBefore s o).map fun p => 16384 * (p.num + 1) + engKey p.tile p.ctx⟩ : Ghost)
  if ghosts.isEmpty then s
  else
    let s' := s.onEng fun e => { e with flits := [], ghosts := e.ghosts ++ ghosts }
    (s.eng.flits.foldl (fun s f => arriveFlit f s) s').onEng fun e =>
      { e with ghosts := e.ghosts.filter fun g => g.src ≠ s.fab.device }

/-- A flit taken up. -/
def dropFlit (f : Flit) (s : State) : State := s.onEng fun e => { e with flits := e.flits.erase f }

/-- The results of a reduction rounded where its chain ends: at the root, or at the last rank when every member receives them (R401). -/
def collRound (ty : Nat) (xs : List LaneResult) : List LaneResult :=
  xs.map fun x => ⟨(collFinal ty x.lane).lane, x.flags.or (collFinal ty x.lane).flags⟩

/-- A rank's part of a chunk (R401): its own elements are joined to the passing flit, and it goes on along the chain. The flags of a join
reach a member that writes a result. [DESIGN CHOICE, log 52] -/
def collPart (o : EngOp) (op red ty group root index rank : Nat) (ms : List Nat) (own : List Lane) (s : State) :
    EngRun (List Job × EngOp × State) := do
  let joins := rank ≠ 0 && op ≠ 2
  let flit := flitFor s o false index
  if (joins && flit.isNone) || !maySend s o false index then .error .stall
  if joins && flit.any fun f => f.topinf ≠ o.topinf then .error (.fail 2)
  let xs : List LaneResult := match joins, flit with
    | true, some f => (f.lanes.zip own).map fun x => collJoin red x.1 x.2
    | _, _ => own.map fun x => ⟨x, {}⟩
  let s := match joins, flit with | true, some f => dropFlit f s | _, _ => s
  let ys := if op = 1 && rank + 1 = ms.length then collRound ty xs else xs
  let fl := ys.foldl (fun (f : Flags) y => f.or y.flags) {}
  let s ← (flitTargets s o false).foldlM (fun s x =>
    sendFlit o x.2 ⟨group, index, s.fab.device, o.topinf, ys.map fun y => y.lane⟩ s) s
  .ok ([], { o with flags := if op ≠ 0 ∨ rank = root then o.flags ||| fl.bits else o.flags }, s)

/-- A result of a chunk: it goes on to the members that are to have it after this one, and is held until its elements are written. -/
def collResult (o : EngOp) (op ty index : Nat) (s : State) : EngRun (List Job × EngOp × State) := do
  match flitFor s o true index with
  | none => .error .stall
  | some f =>
    if !maySend s o true index then .error .stall
    if f.topinf ≠ o.topinf then .error (.fail 2)
    let s := dropFlit f s
    let ys := if op = 0 then collRound ty (f.lanes.map fun l => ⟨l, {}⟩) else f.lanes.map fun l => ⟨l, {}⟩
    let fl := ys.foldl (fun (f : Flags) y => f.or y.flags) {}
    let s ← (flitTargets s o true).foldlM (fun s x => sendFlit o x.2 { f with src := s.fab.device } s) s
    .ok ([], { o with flags := o.flags ||| fl.bits, results := o.results ++ [(index, ys.map fun y => y.lane)] }, s)

/-- One action of a collective on the elements of a flit (R401). -/
def moveChunk (o : EngOp) (result : Bool) (index : Nat) (srcs : List Loc) (s : State) : EngRun (List Job × EngOp × State) :=
  match o.kind with
  | .collective op red ty count src _ group root =>
    match groupRank s group with
    | none => .error (.fail 5)
    | some (rank, ms) => do
      let len := min 32 (count - index)
      if result then collResult o op ty index s
      else
        let ss := (collSizes ty).1
        let locs := if srcs.isEmpty then (List.range len).map fun i => Loc.glob (src + ss * (index + i)) else srcs
        let (got, s) ← gatherSources o (locs.map fun l => (l, ss)) s
        match got with
        | .asked locs => .ok ([.chunk false index locs], o, s)
        | .data ds =>
          let o := if ds.any fun d => d.refused then { o with status := some 3 } else o
          collPart o op red ty group root index rank ms (ds.map fun d => collSource ty o.topinf d.bytes) s
  | _ => .ok ([], o, s)

/-! ### Records of collectives and drains (R307, R308) -/

/-- Bytes of a record from a place up, as a number. -/
def recordField (bs : List Byte) (k n : Nat) : Nat := natOfBytes ((bs.drop k).take n)

/-- The granules of a collective's destination, each with the index of its last element. -/
def resultJobs (ty count dst : Nat) : List (Nat × Job) :=
  let ds := (collSizes ty).2
  let elem (i : Nat) : Elem := ⟨.result i, ds, .glob (dst + ds * i), ds⟩
  (groupElems Elem.granule ((List.range count).map elem)).map fun g =>
    ((match g.2.getLast? with | some ⟨.result i, _, _, _⟩ => i | _ => 0), .granule g.2 none)

/-- A collective that keeps its record (R307): its chunks follow each other in order, each with its result and the granules that this
completes. A bad record, or an own device outside the group, ends it with REMOTE. [DESIGN CHOICE, log 50] -/
def startCollective (o : EngOp) (op ty count : Nat) (bs : List Byte) (s : State) : EngRun (List Job × EngOp) :=
  let field := recordField bs
  let group := field 16 2
  let red := field 18 1
  let root := field 20 2
  match groupRank s group with
  | none => .error (.fail 5)
  | some (rank, ms) =>
    if field 19 1 ≠ 0 ∨ field 22 10 ≠ 0 ∨ 2 < red ∨ (op = 2 ∧ red ≠ 0) ∨ (op = 1 ∧ root ≠ 0) ∨ ms.length ≤ root then .error (.fail 5)
    else
      let idx := (List.range ((count + 31) / 32)).map fun k => 32 * k
      let hasPart : Bool := op ≠ 2 || rank = root
      let hasResult : Bool := op ≠ 0 || rank = root
      let gs := if hasResult then resultJobs ty count (field 8 8) else []
      .ok (idx.flatMap fun k => (if hasPart then [.chunk false k []] else []) ++
          if hasResult then .chunk true k [] :: (gs.filter fun g => g.1 / 32 = k / 32).map Prod.snd else [],
        { o with kind := .collective op red ty count (field 0 8) (field 8 8) group root })

/-- A drain that keeps its target record (R308); a bad one ends it with MEDIA. -/
def startDrain (o : EngOp) (bs out : List Byte) : EngRun (List Job × EngOp) :=
  let field := recordField bs
  if 1 < field 0 1 ∨ field 1 3 ≠ 0 ∨ field 16 16 ≠ 0 then .error (.fail 6)
  else .ok ([], { o with kind := .drain (field 0 1) (field 4 4) (field 8 8) out false })

/-- The record of an operation read by its engine. -/
def readRecord (o : EngOp) (va : Nat) (srcs : List Loc) (s : State) : EngRun (List Job × EngOp × State) := do
  let locs := if srcs.isEmpty then (List.range 4).map fun i => Loc.glob (va + 8 * i) else srcs
  let (got, s) ← gatherSources o (locs.map fun l => (l, 8)) s
  match got with
  | .asked locs => .ok ([.record va locs], o, s)
  | .data ds =>
    let o := if ds.any fun d => d.refused then { o with status := some 3 } else o
    let bs := ds.flatMap fun d => d.bytes
    let (js, o) ← match o.kind with
      | .collective op _ ty count _ _ _ _ => startCollective o op ty count bs s
      | .drain _ _ _ out _ => startDrain o bs out
      | _ => .ok ([], o)
    .ok (js, o, s)

/-! ### Running an operation -/

/-- The actions an operation can make now: a walk whose lengths are not read has those to read. -/
def EngOp.todo (o : EngOp) : List Job :=
  match o.kind with | .walk _ _ _ _ claimed => if o.jobs.isEmpty then claimed.flatMap (·.2) else o.jobs | _ => o.jobs

/-- The action at an index replaced by what is left of it. -/
def replaceAt (j : Nat) (rep : List Job) (js : List Job) : List Job := js.take j ++ rep ++ js.drop (j + 1)

/-- The same over the claimed slots of a walk. -/
def replaceIn : List (Nat × List Job) → Nat → List Job → List (Nat × List Job)
  | [], _, _ => []
  | (sl, js) :: rest, j, rep =>
    if j < js.length then (sl, replaceAt j rep js) :: rest else (sl, js) :: replaceIn rest (j - js.length) rep

/-- An operation after one of its actions; a granule written counts (R344). -/
def EngOp.after (o : EngOp) (j : Nat) (rep : List Job) : EngOp :=
  let isGranule : Bool := match o.todo[j]? with | some (.granule _ _) => true | _ => false
  let o := if rep.isEmpty && isGranule then { o with made := o.made + 1 } else o
  match o.kind with
  | .walk h wb need steps claimed =>
    if o.jobs.isEmpty then { o with kind := .walk h wb need steps (replaceIn claimed j rep) } else { o with jobs := replaceAt j rep o.jobs }
  | _ =>
    let js := replaceAt j rep o.jobs
    let isHeld (x : Nat × List Lane) : Bool := js.any fun j => match j with
      | .granule es _ => es.any fun e => match e.src with | .result i => i / 32 * 32 = x.1 | _ => false
      | _ => false
    { o with jobs := js, results := o.results.filter isHeld }

/-- The claimed slots of a walk that are finished are marked in step order: full after a fetch, free after a write-back
(R302). -/
def settleSlots (handle : Nat) (writesBack : Bool) : List (Nat × List Job) → State → List (Nat × List Job) × State
  | [], s => ([], s)
  | (sl, js) :: rest, s =>
    if js.isEmpty then
      settleSlots handle writesBack rest (onHandle handle (fun e => e.put [sl] (if writesBack then .free else .full)) s)
    else ((sl, js) :: rest, s)

/-- A walk's finished slots marked. -/
def settle (o : EngOp) (s : State) : EngOp × State :=
  match o.kind with
  | .walk h wb need steps claimed =>
    let (c, s) := settleSlots (64 * o.tile + h) wb claimed s
    ({ o with kind := .walk h wb need steps c }, s)
  | _ => (o, s)

/-- An element's slot-relative place in a slot. -/
def placeInSlot (base : Nat) (e : Elem) : Elem :=
  let f (l : Loc) : Loc := match l with | .scr o => .scr (base + o) | l => l
  { e with src := f e.src, dst := f e.dst }

/-- The actions of a walk's steps whose slots are not claimed, in the slots that they will claim (R302). -/
def EngOp.unclaimed (o : EngOp) (s : State) : List Job :=
  match o.kind with
  | .walk h wb _ steps _ =>
    match lookup (64 * o.tile + h) s.eng.handles with
    | none => []
    | some e => match contextOf s e.holder e.task with
      | none => []
      | some t => (steps.zip (ringSlots e (if wb then e.cons else e.prod) steps.length)).flatMap fun x =>
        granuleJobs (x.1.map (placeInSlot (scratchKey t (e.base + 16 * e.ssize * x.2))))
  | _ => []

/-- The granules of a range of global bytes, in the numbering of `Elem.granule`. -/
def globalGranules (va n : Nat) : List Nat := (List.range ((va % 16 + n + 15) / 16)).map fun i => 4 * (va / 16 + i)

/-- The granules that an action writes and reads, for R295. -/
def EngOp.writes (o : EngOp) (j : Job) : List Nat :=
  match j, o.kind with
  | .granule es _, _ => (es.map Elem.granule).filter fun g => g % 4 < 2
  | _, _ => []
@[inherit_doc EngOp.writes] def EngOp.reads (o : EngOp) (j : Job) : List Nat :=
  match j, o.kind with
  | .granule es _, _ => (es.map Elem.source).filter fun g => g % 4 < 2
  | .chunk false i _, .collective _ _ ty count src _ _ _ =>
    globalGranules (src + (collSizes ty).1 * i) ((collSizes ty).1 * min 32 (count - i))
  | .record va _, _ => globalGranules va 32
  | .lengths srcs _, _ => srcs.filterMap fun l => match l with | .glob va => some (4 * (va / 16)) | _ => none
  | _, _ => []

/-- A granule by its place, which is one by whatever address it is reached (R240); one of a page that is not mapped by its address. -/
def granulePlace (s : State) (asid g : Nat) : Nat :=
  if g % 4 ≠ 0 then g else match walk s asid (4 * g) with | .page pa _ _ _ _ _ _ => 4 * (pa / 16) + 2 | _ => g

/-- Whether an action keeps its place behind the earlier operations of its context: in a stream they are all complete, else
none of them still has to write what it touches, or to read what it writes (R295, R311 note (d), R318). -/
def inOrder (s : State) (o : EngOp) (j : Job) : Bool :=
  let before := (inFlight s o.tile o.ctx).filter fun x => x.num < o.num
  if 8 ≤ o.ctx ∧ o.ctx < 12 then before.isEmpty
  else if before.isEmpty then true
  else
    let ws := (o.writes j).map (granulePlace s o.asid)
    let rs := (o.reads j).map (granulePlace s o.asid)
    before.all fun x => !x.isUnread && (x.todo ++ x.unclaimed s).all fun k =>
      !((x.writes k).any fun g => ws.contains (granulePlace s x.asid g) || rs.contains (granulePlace s x.asid g)) &&
        !((x.reads k).any fun g => ws.contains (granulePlace s x.asid g))

/-! ### Lengths of ragged regions (R170, R292, R306) -/

/-- Whether the bytes of two places meet. -/
def Loc.meets (a : Loc) (n : Nat) (b : Loc) (m : Nat) : Bool :=
  match a, b with
  | .glob x, .glob y => x < y + m && y < x + n
  | .scr x, .scr y => x < y + m && y < x + n
  | _, _ => false

/-- The address of a place, in its space. -/
def Loc.addr : Loc → Nat | .glob va => va | .scr key => key | _ => 0

/-- Whether the source hull and the destination hull of a conversion lie in one space and intersect (R296). -/
def hullsMeet (es : List Elem) : Bool :=
  let isGlob (l : Loc) : Bool := match l with | .glob _ => true | _ => false
  match es with
  | [] => false
  | e :: _ =>
    let lo (f : Elem → Loc) : Nat := (es.map fun e => (f e).addr).foldl min (f e).addr
    let hi (f : Elem → Loc) : Nat := (es.map fun e => (f e).addr).foldl max 0
    isGlob e.src = isGlob e.dst && lo Elem.dst < hi Elem.src + e.ssize && lo Elem.src < hi Elem.dst + e.dsize

/-- The cells of each list that count under some lengths. -/
def cellsBelow (lens : List Nat) (lists : List (List LenCell)) : List (List (List Elem)) :=
  lists.map fun cs => (cs.filter fun c => match c.entry with
    | some i => c.last < ((lens.getD i 0 : Nat) : Int)
    | none => true).map LenCell.elems

/-- The elements of cells grouped by the granule of each cell's first element, which for several targets is read once (R294). -/
def cellJobs (cells : List (List Elem)) : List Job :=
  (cells.foldl (fun gs es => match es with
    | [] => gs
    | e :: _ => es.foldl (fun gs x => addToGroup e.granule x gs) gs) ([] : List (Nat × List Elem))).map fun g => .granule g.2 none

/-- What an operation does once it is known which cells count: the two lists of a conversion are paired, and a copy onto itself needs one
distance (R296, R306); a walk has one list a step; a drain packs its cells, and without one has nothing to do (R308, R312). -/
def expandCells (o : EngOp) (lists : List (List (List Elem))) : Run (List Job × EngOp) :=
  match o.kind with
  | .transfer (some conv) => do
    let ds := (lists.headD []).flatten
    let ss := ((lists.drop 1).headD []).flatten
    require (ds.length = ss.length) clsEngine 0x15
    let es := (ds.zip ss).map fun x => (⟨x.2.src, x.2.ssize, x.1.dst, x.1.dsize⟩ : Elem)
    let shift := es.map fun e => (e.dst.addr : Int) - e.src.addr
    require (!hullsMeet es || (conv.copy && shift.all fun x => x = shift.headD 0)) clsCopyOverlap 0
    .ok (granuleJobs es, o)
  | .walk h wb need _ claimed => .ok ([], { o with kind := .walk h wb need (lists.map List.flatten) claimed })
  | .drain kind target addr _ sent =>
    let es := lists.flatten.flatten
    if es.isEmpty then .ok ([], { o with kind := .transfer none, jobs := [] })
    else
      let z := (es.map Elem.ssize).headD 0
      let es := (es.zip (List.range es.length)).map fun x => { x.1 with dst := .out (z * x.2) }
      .ok ((groupElems Elem.source es).map fun g => .granule g.2 (some (g.1 / 4)),
        { o with kind := .drain kind target addr (List.replicate (z * es.length) 0) sent })
  | _ => .ok (cellJobs lists.flatten, o)

/-- The table entries of an operation read by its engine, and what it does then. One that cannot pair its cells any more, when its issue
could not read the lengths, ends with FAULT [DESIGN CHOICE, log 36]. -/
def readLengths (o : EngOp) (srcs : List Loc) (lists : List (List LenCell)) (s : State) : EngRun (List Job × EngOp × State) := do
  let (got, s) ← gatherSources o (srcs.map fun l => (l, 4)) s
  match got with
  | .asked locs => .ok ([.lengths locs lists], o, s)
  | .data ds =>
    let o := if ds.any fun d => d.refused then { o with status := some 3 } else o
    match expandCells o (cellsBelow (ds.map fun d => natOfBytes d.bytes) lists) with
    | .error _ => .error (.fail 8)
    | .ok (js, o) =>
      let kept := scratchMarks (js.flatMap fun j => match j with | .granule es _ => es | _ => [])
      let gone := o.marks.filter fun g => !kept.contains g
      .ok (js, { o with marks := o.marks.filter kept.contains }, gone.foldl (fun s g => endPending g s) s)

/-- One action. -/
def moveJob (o : EngOp) (j : Job) (s : State) : EngRun (List Job × EngOp × State) :=
  match j with
  | .granule es mark => moveGranule o es mark s
  | .tile i => let r := updateTile o i s; .ok ([], r.1, r.2)
  | .chunk result index srcs => moveChunk o result index srcs s
  | .record va srcs => readRecord o va srcs s
  | .lengths srcs lists => readLengths o srcs lists s

/-- The first action of a conversion, other than one, with a source not yet read that the one would overwrite, and what of it (R296). -/
def overwritten (o : EngOp) (i : Nat) : Option (Nat × List Elem × Option Nat × (Elem → Bool)) :=
  match o.kind, o.jobs[i]? with
  | .transfer (some _), some (.granule ws _) =>
    let isHit (e : Elem) : Bool := e.isOpen && ws.any fun w => e.src.meets e.ssize w.dst w.dsize
    (o.jobs.zip (List.range o.jobs.length)).findSome? fun x => match x.1 with
      | .granule es mark => if x.2 ≠ i && es.any isHit then some (x.2, es, mark, isHit) else none
      | _ => none
  | _, _ => none

/-- What an operation does for its action `i`, with the index of the action that it replaces: a source that another action still needs is
read before it is overwritten (R296). -/
def tryJob (o : EngOp) (i : Nat) (j : Job) (s : State) : EngRun (Nat × List Job × EngOp × State) :=
  match overwritten o i with
  | some (k, es, mark, isHit) =>
    if inOrder s o (.granule es mark) then (captureOne o isHit es mark s).map fun r => (k, r) else .error .stall
  | none => (moveJob o j s).map fun r => (i, r)

/-- An operation that a status ends early: nothing further is written, and the full bits it holds are set (R286, R313,
R347). `cut` leaves the bytes of its unwritten scratch granules unspecified; CANCELLED gives back the slots that a walk holds (R371). What it has sent to other devices it still waits for. -/
def stopOp (o : EngOp) (status : Nat) (cut : Bool) (s : State) : State :=
  let scr := o.todo.flatMap fun j => match j with
    | .granule es _ => es.flatMap fun e => match e.dst with | .scr key => (List.range e.dsize).map (key + ·) | _ => []
    | _ => []
  let isWalk := match o.kind with | .walk .. => true | _ => false
  let s := if cut && !isWalk then scr.foldl (fun s k => scratchPut k [Config.cutByte s.fresh k] s) s else s
  let s := clearDrains o (o.marks.foldl (fun s g => endPending g s) s)
  let s := match o.kind with
    | .walk h wb _ _ claimed =>
      if status = 1 then claimed.foldl (fun s c => onHandle (64 * o.tile + h) (fun e => e.put [c.1] (if wb then .full else .free)) s) s else s
    | _ => s
  let s := forgetFlits o s
  putOp { o with
    status := some status, jobs := [], marks := [], halt := none, flits := 0, caught := false, results := []
    kind := match o.kind with | .walk h wb need _ _ => .walk h wb need [] [] | .drain k t a bs _ => .drain k t a bs true | k => k } s

/-- Whether the operation's task has streaming windows, so that its granules are written in the order of cells (R343). -/
def usesWindows (o : EngOp) (s : State) : Bool := (lookup o.task s.tasks).any fun k => k.leased && !(streamWindows k).isEmpty

/-- An operand flit of a stream operation reaches the matrix unit: the flits of a tile keep the order in which they left the core, and
those caught in a spill ring stay there (R354). -/
def flitStep (o : EngOp) (s : State) : Option State :=
  if o.caught || (opsBefore s o).any fun p => p.tile = o.tile && 0 < p.flits && !p.caught then none
  else some (putOp { o with flits := o.flits - 1 } s)

/-- Action `j` of an operation, or, past their number, a source of one read ahead. None where it cannot be made now. -/
def granuleStep (o : EngOp) (j : Nat) (s : State) : Option State :=
  let js := o.todo
  let i := if j < js.length then j else j - js.length
  if 0 < o.flits then flitStep o s
  else match js[i]? with
  | none => none
  | some job =>
    if o.halt.isSome || o.status.any (· ≠ 3) || !inOrder s o job || (j ≠ 0 && usesWindows o s) then none
    else
      let r := if j < js.length then tryJob o i job s
        else match job with | .granule es mark => (captureOne o (fun _ => true) es mark s).map fun r => (i, r) | _ => .error .stall
      match r with
      | .ok (k, rep, o', s') =>
        let x := settle (o'.after k rep) s'
        some (putOp x.1 x.2)
      | .error (.fail st) => some (stopOp o st false s)
      | .error _ => none

/-- The actions of an operation made in order, as long as they can be; the first argument bounds them. -/
def runJobs (tile ctx num : Nat) : Nat → State → State
  | 0, s => s
  | f + 1, s =>
    match opAt s tile ctx num with
    | none => s
    | some o => match granuleStep o 0 s with
      | some s' => runJobs tile ctx num f s'
      | none => s

/-! ### Completion (R285, R287, R29, R298, R310) -/

/-- The flags of an operation reach its issuer, or wait on the Welt while the context is away (R29). [DEDUCED, log 70] -/
def deliverFlags (o : EngOp) (s : State) : State :=
  if o.command || o.flags = 0 then s
  else if (s.thread? o.thread).any fun t => t.taskid = o.task then
    s.onThread o.thread fun t => { t with fmode := t.fmode ||| o.flags }
  else if s.parked.any (isContext o.thread o.task) then s.onTask o.task fun k => { k with flags := k.flags ||| o.flags }
  else s

/-- A handle let go by its operation, with the status that failed it (R298 to R300). -/
def releaseHandle (o : EngOp) (status : Nat) (s : State) : State :=
  match o.kind with
  | .walk h _ _ _ _ =>
    onHandle (64 * o.tile + h) (fun e =>
      if e.producer = some (o.ctx, o.num) ∨ e.consumer = some (o.ctx, o.num) then
        { e with
          producer := if e.producer = some (o.ctx, o.num) then none else e.producer
          consumer := if e.consumer = some (o.ctx, o.num) then none else e.consumer
          fail := if status = 0 then e.fail else status
          failNum := if status = 0 then e.failNum else o.num }
      else if status = 2 then { e with fail := status, failNum := o.num } else e) s
  | _ => s

/-- An operation leaves its timeline with a status. The record of R287 takes every abnormal status but ACHK, whose record is made when
the stream halts (R328). The model ends a launch whose footprint fetch completes abnormally with CARD_FORM, or LEASE_OUT for that status
[DESIGN CHOICE, log 41]. -/
def retireOp (o : EngOp) (status : Nat) (s : State) : State :=
  let s := s.onEng fun e => { e with ops := e.ops.filter fun x => !(x.tile = o.tile && x.ctx = o.ctx && x.num = o.num) }
  let s := if status = 0 ∨ 16 ≤ o.ctx ∨ status = 7 then s
    else onCtx o.tile o.ctx (fun c => { c with abn := o.num, abnStatus := status, abnAddr := o.addr }) s
  let s := releaseHandle o status (deliverFlags o s)
  if status = 4 then endTask o.task statusLeaseOut s
  else if 16 ≤ o.ctx ∧ status ≠ 0 then endTask o.task statusCardForm s else s

/-- The DONE word of a command incremented with a device-scope atomic, on another device by a request whose answer is awaited (R310):
whether that is done, with the operation. -/
def bumpDone (o : EngOp) (s : State) : EngRun (Bool × EngOp × State) :=
  if o.doneWord = 0 then .ok (true, o, s)
  else match o.doneReply with
  | some (tag, peer) =>
    if s.fab.replies.any fun r => r.1 = tag then
      .ok (true, o, s.onFab fun f => { f with replies := f.replies.filter fun r => r.1 ≠ tag })
    else if isPeerUp s peer then .error .stall else .error (.fail 5)
  | none => do
    let (pa, _, s) ← engPlace o true o.doneWord 8 s
    if isRemote pa then
      let tag := s.fab.tag
      let s ← engSend o (remoteDevice pa) 0x14 (BitVec.ofNat 16 (accessFlags 8 o.topinf + 768)) 0 tag (pa % 2 ^ 40)
        (bytesOf 8 1 ++ bytesOf 8 0) s
      .ok (false, { o with doneReply := some (tag, remoteDevice pa) }, s.onFab fun f => { f with tag := tag + 1 })
    else
      let (d, s) ← engReadAt o o.doneWord 8 pa false s
      let (o, s) ← engWrite o o.doneWord (bytesOf 8 (natOfBytes d.bytes + 1)) s
      .ok (true, o, s)

/-- A drain's data handed to its target (R308): blocks of an NVMe namespace, padded with zeros, or packets to a device. A
block has 512 bytes [PRESUMED, log 34]. None where the target fails. -/
def sendDrain (o : EngOp) (s : State) : Option (EngOp × State) :=
  match o.kind with
  | .drain 0 target addr bs false =>
    match (lookup (o.asid * 4294967296 + target) s.mgmt.grants).bind fun k => s.mgmt.nvme[k]?.map fun c => (k, c) with
    | none => none
    | some (ctrl, c) =>
        if !c.ok then none
        else
          let n := (bs.length + 511) / 512
          let all := bs ++ List.replicate (512 * n - bs.length) 0
          let c' := { c with blocks := (List.range n).foldl (fun b i =>
            insert (target * 2 ^ 64 + addr + i) ((all.drop (512 * i)).take 512) b) c.blocks }
          some ({ o with kind := .drain 0 target addr bs true },
            { s with mgmt := { s.mgmt with nvme := s.mgmt.nvme.setIfInBounds ctrl c' } })
  | .drain k target addr bs false =>
    match lookup target s.mgmt.drainTargets with
    | none => none
    | some asid =>
      let n := (bs.length + 4095) / 4096
      let r := (List.range n).foldl (fun (r : EngRun (EngOp × State)) i => do
        let (o, s) ← r
        let tag := s.fab.tag
        let s ← engSend o target 0x30 (if o.topinf then 15 else 7) (BitVec.ofNat 32 asid) tag (addr + 4096 * i) ((bs.drop (4096 * i)).take 4096) s
        .ok ({ o with sent := o.sent + 1 },
          s.onFab fun f => { f with tag := tag + 1, drains := f.drains ++ [(tag, opCode o)] })) (.ok (o, s))
      match r with
      | .ok (o, s) => some ({ o with kind := .drain k target addr bs true }, s)
      | .error _ => none
  | _ => some (o, s)

/-- Whether an operation has nothing left to do. -/
def EngOp.isSpent (o : EngOp) : Bool :=
  o.flits = 0 && o.todo.isEmpty && o.jobs.isEmpty && match o.kind with | .walk _ _ _ steps claimed => steps.isEmpty && claimed.isEmpty | _ => true

/-- A spent operation hands over what it drained, after which its marks are cleared (R308, R309); a target that fails ends it with
MEDIA. -/
def handOver (o : EngOp) (s : State) : EngOp × State :=
  match sendDrain o s with
  | some (o, s) => (o, clearDrains o s)
  | none => ({ o with status := some (o.status.getD 6), kind := .transfer none }, clearDrains o s)

/-- The operand flits on their way to a tile's matrix unit arrive (R354). -/
def bringFlits (tile : Nat) (s : State) : State :=
  s.onEng fun e => { e with ops := e.ops.map fun o => if o.tile = tile && !o.caught then { o with flits := 0 } else o }

/-- The oldest operation of a context completes: what it has left to do is done in order, and it leaves its timeline with
its status (the row ENGINE_OP_COMPLETE). None where something of it must wait. -/
def completeOp (tile ctx : Nat) (s : State) : Option State :=
  let s := if 8 ≤ ctx ∧ ctx < 12 then bringFlits tile s else s
  match inFlight s tile ctx with
  | [] => none
  | o :: _ =>
    let s := runJobs tile ctx o.num (2 * o.todo.length + 64) s
    match opAt s tile ctx o.num with
    | none => none
    | some o =>
      if !o.isSpent || o.halt.isSome then none
      else
        let (o, s) := handOver o s
        if o.sent ≠ 0 then some (putOp o s)
        else match bumpDone o s with
          | .ok (true, o, s) => some (retireOp o (o.status.getD 0) s)
          | .ok (false, o, s) => some (putOp o s)
          | .error (.fail st) => some (retireOp o (o.status.getD st) s)
          | .error _ => none

/-! ### Faults in streaming windows (R343 to R345) -/

/-- The fault that the next access of an operation meets now: the cause and the address. Its first action comes first in the order of
cells; with nothing left to do it is the access to its DONE word. -/
def faultOf (o : EngOp) (s : State) : Option (Nat × Nat) :=
  match o.todo with
  | j :: _ => match tryJob o 0 j s with
    | .error (.fault cause va) => some (cause, va)
    | _ => none
  | [] =>
    if !o.isSpent || o.sent ≠ 0 then none
    else match bumpDone o s with
      | .error (.fault cause va) => some (cause, va)
      | _ => none

/-- KIND of a fault record. -/
def faultKind (ctx : Nat) : Nat :=
  if ctx < 4 ∨ 16 ≤ ctx then 0 else if ctx < 6 then 1 else if ctx < 8 then 2 else 3

/-- A fault record (R344). -/
def faultRecord (o : EngOp) (cause va seq : Nat) : List Byte :=
  bytesOf 2 1 ++ bytesOf 1 (faultKind o.ctx) ++ bytesOf 1 (o.ctx % 16) ++ bytesOf 2 o.tile ++ bytesOf 1 cause ++ bytesOf 1 1
    ++ bytesOf 4 0 ++ bytesOf 2 o.asid ++ bytesOf 2 0 ++ bytesOf 8 o.num ++ bytesOf 8 (va / 16 * 16) ++ bytesOf 8 o.made
    ++ bytesOf 8 o.task ++ bytesOf 8 seq ++ bytesOf 8 0

/-- A fault reported (R343, R345): the engine's translations are dropped, a record goes into the die's ring, and the supervisor thread is
interrupted. None while the ring has no free slot [DEDUCED, log 39]: one slot stays empty, so that a full ring differs from an empty
one, and what faulted waits, neither halted nor reported [DESIGN CHOICE, log 95]. -/
def reportFault (o : EngOp) (cause va : Nat) (s : State) : Option (Halt × State) :=
  let die := dieOfTile o.tile
  let d := (s.dies[die]?).getD {}
  let n := d.frslots.toNat
  if n = 0 ∨ (d.frtail.toNat + 1) % n = d.frhead.toNat % n then none
  else
    let seq := d.recSeq + 1
    let at' := d.frbase.toNat + 64 * d.frtail.toNat
    let s := s.onMem fun m =>
      { m with
        tlb := m.tlb.filter fun e => e.unit ≠ 1024 + o.tile
        dram := writeBytes m.dram at' (faultRecord o cause va seq) }
    let s := onDie die (fun d =>
      { d with recSeq := seq, fault := BitVec.ofNat 64 at', frtail := BitVec.ofNat 64 ((d.frtail.toNat + 1) % n) }) s
    some ({ record := at', seq := seq, die := die }, interruptThread (bits d.super.toNat 13 0) (bits d.super.toNat 23 16) s)

/-- The places of an action changed. -/
def Job.mapSources (f : Loc → Loc) (j : Job) : Job :=
  match j with
  | .granule es mark => .granule (es.map fun e => { e with src := f e.src }) mark
  | .chunk result index srcs => .chunk result index (srcs.map f)
  | .record va srcs => .record va (srcs.map f)
  | .lengths srcs lists => .lengths (srcs.map f) lists
  | .tile i => .tile i

/-- An operation halts on a fault (R343). What another device answered as poisoned is asked for anew when it goes on. -/
def haltOp (o : EngOp) (cause va : Nat) (s : State) : State :=
  match reportFault o cause va s with
  | none => s
  | some (h, s) =>
    let bad := (s.fab.replies.filter fun r => r.2.1 = statusPoison).map fun r => r.1
    let asks : List Nat := o.todo.flatMap fun j => (match j with
      | .granule es _ => es.map Elem.src | .chunk _ _ ls => ls | .record _ ls => ls | .lengths ls _ => ls | .tile _ => []).filterMap fun l =>
        match l with | Loc.reply tag _ _ => if bad.contains tag then some tag else none | _ => none
    let again (l : Loc) : Loc := match l with | .reply tag _ va => if bad.contains tag then .glob va else l | _ => l
    let go := List.map (Job.mapSources again)
    let o := { o with
      halt := some h, jobs := go o.jobs
      kind := match o.kind with | .walk h wb need steps claimed => .walk h wb need steps (claimed.map fun c => (c.1, go c.2)) | k => k }
    putOp o (s.onFab fun f => { f with replies := f.replies.filter fun r => !asks.contains r.1 })

/-- An operation is cut (R371): it stops at a granule boundary and will complete with CANCELLED, whatever status it had before, but for
ACHK, with which it has completed. A halted one ends and its fault record receives STATE 4. -/
def cutOp (o : EngOp) (s : State) : State :=
  let s := match o.halt with
    | some h => s.onMem fun m => { m with dram := writeByte m.dram (h.record + 7) 4 }
    | none => s
  if o.status = some 7 then s else stopOp o 1 true s

/-- Another member of an operation's collective has been cut: this one completes with REMOTE (R371). -/
def memberCut (o : EngOp) (s : State) : State :=
  match o.kind with
  | .collective .. => if o.status.any (· ≠ 3) || o.jobs.isEmpty then s else stopOp o 5 false s
  | _ => s

/-! ### Residue checks and halts of matrix streams (R327, R328) -/

/-- The blocks that one element's products form: one for t8, t6 and s8, else one for each product (R327). -/
def blocksPer (ty ka : Nat) : Nat := if ty = 0 ∨ ty = 11 ∨ ty = 12 then 1 else ka

/-- Whether a value has an integer significand, so that a residue path can check its products (R327). -/
def hasSignificand (ty : Nat) (topinf : Bool) (x : Nat) : Bool :=
  ty = 0 || match sourceNum (tyOfCode ty) topinf x with | .nan _ => false | .inf _ => false | _ => true

/-- Whether a block of a product operation is checked: it is one of its blocks and holds no NaN or infinity (R327). -/
def isCheckedBlock (o : EngOp) (block : Nat) : Bool :=
  match o.kind with
  | .stream (.product ty sparse a b metas) _ rows cols =>
    let ka := a.length / rows
    let n := blocksPer ty ka
    let e := block / n
    let ps := productsOf sparse a b metas ka cols (e / cols) (e % cols)
    let qs := if n = 1 then ps else (ps.drop (block % n)).take 1
    e < rows * cols && qs.all fun p => hasSignificand ty o.topinf p.1 && hasSignificand ty o.topinf p.2
  | _ => false

/-- The operations of a context that can complete do so, from the oldest on; the first argument bounds them. -/
def completeAll (tile ctx : Nat) : Nat → State → State
  | 0, s => s
  | f + 1, s => match completeOp tile ctx s with
    | some s => completeAll tile ctx f s
    | none => s

/-- A block of the oldest product of a stream fails its residue check. A recomputation that matches counts a retry for that block. One
that fails again ends the operation with ACHK, halts the stream and counts against the tile's health; every later operation of the stream
completes with it. The model lets a check fail only before an element that its block belongs to, or for a halt any element, has been
updated [DEDUCED, log 35]. -/
def residueStep (o : EngOp) (block : Nat) (fails : Bool) (s : State) : State :=
  let onTile (f : TileRec → TileRec) (s : State) : State :=
    s.onEng fun e => { e with tiles := insert o.tile (f ((lookup o.tile e.tiles).getD {})) e.tiles }
  match o.kind with
  | .stream (.product ty _ a _ _) _ rows cols =>
    if !(inFlight s o.tile o.ctx).head?.any (fun x => x.num = o.num) || o.status.isSome || o.flits ≠ 0 || !isCheckedBlock o block ||
        o.checked.contains block || !o.jobs.contains (.tile (block / blocksPer ty (a.length / rows))) then s
    else if !fails then
      putOp { o with checked := o.checked ++ [block] }
        (onTile (fun t => { t with retry := min 255 (t.retry + 1), retries := t.retries + 1 }) s)
    else if o.jobs.length ≠ rows * cols then s
    else
      let s := onTile (fun t => { t with health := min 255 (t.health + 1), achks := t.achks + 1 }) s
      let s := onCtx o.tile o.ctx (fun c => { c with halted := true, abn := o.num, abnStatus := 7, abnAddr := o.addr }) s
      let ops := inFlight s o.tile o.ctx
      completeAll o.tile o.ctx ops.length (ops.foldl (fun s x => stopOp x 7 false s) s)
  | _ => s

/-! ### Issue (R285, R122, R328, R354) -/

/-- A context accepts an operation only while fewer than 16 are in flight; the wait is blocking. -/
def needRoom (tile ctx : Nat) (s : State) : Run Unit := blockUntil ((inFlight s tile ctx).length < 16)

/-- The bytes that a stream operation's operands take on their way to the matrix unit: A, then B, then the metadata, or the words of a
load; the spec does not say how they lie in the flits [DESIGN CHOICE, log 37]. -/
def operandBytes (k : StreamKind) : List Byte :=
  match k with
  | .product ty _ a b metas =>
    let size := tySize (tyOfCode ty)
    (a ++ b).flatMap (bytesOf size) ++ metas.flatMap (bytesOf 4)
  | .load ws => ws.flatMap fun w => bytesOf 4 w.toNat
  | _ => []

/-- The operand flits of a stream operation. -/
def operandFlits (k : StreamKind) : Nat := ((operandBytes k).length + 127) / 128

/-- At most 64 operand flits are between a core 3 and its matrix unit: an issue that would exceed that waits, and blocks (R354). -/
def needFlits (tile n : Nat) (s : State) : Run Unit :=
  blockUntil (((s.eng.ops.filter fun o => o.tile = tile && !o.caught).map EngOp.flits).foldl (· + ·) n ≤ 64)

/-- An operation takes its number. One whose TOPINF differs from that in flight, or that meets a halted stream, takes its
number and has no effect; else what its issue does comes about. -/
def enterOp (o : EngOp) (effect : State → State) (s : State) : State :=
  let c := engCtx s o.tile o.ctx
  let busy := !(inFlight s o.tile o.ctx).isEmpty
  let o := { o with num := c.issued + 1 }
  let s := onCtx o.tile o.ctx (fun c => { c with issued := c.issued + 1, topinf := if busy then c.topinf else o.topinf }) s
  let add (o : EngOp) (s : State) : State := s.onEng fun e => { e with ops := e.ops ++ [o] }
  let idle : EngOp := { o with
    jobs := [], marks := [], flits := 0, targets := []
    kind := match o.kind with | .walk h wb need _ _ => .walk h wb need [] [] | .drain .. => .transfer none | k => k }
  if c.halted then completeAll o.tile o.ctx (inFlight s o.tile o.ctx).length.succ (add { idle with status := some 7 } s)
  else if busy && c.topinf ≠ o.topinf then add { idle with status := some 2 } s
  else
    let s := effect (add o s)
    o.marks.foldl (fun s g => addPending g s) s

end Sys2Proof.Machine
end

