-- ==== Sys2Proof/Machine/Local.lean ====
section
/-! DEFINITION. The meanings of majors 0x14 to 0x17 (R96 to R104): scratch loads and stores, peer accesses, full bits, and
the stack with its overflow. -/

namespace Sys2Proof.Machine

/-- A loaded value extended by its type (R96). -/
def extend (t : IntTy) (x : Nat) : Word := BitVec.ofInt 64 (intOfBits (8 * intSize t) (intSigned t) x)

/-- The low bytes that a store of a type writes. -/
def storeBytes (t : IntTy) (v : Word) : List Byte := bytesOf (intSize t) v.toNat

/-- The offset of a scratch operand, modulo 2⁶⁴. -/
def scratchOffset (s : State) (b : DReg) (off : Word) : Nat := (s.getD b + off).toNat

/-! ### The thread's own partition (R96 to R98) -/

/-- `lds` (R96): the checks, the waits through the handle, W and the full bit, then the read. A load that finds its full bit set
acquires at cluster scope (R272). -/
def loadScratch (len : Nat) (w : WClass) (q : FE) (t : IntTy) (a : DReg) (o : Nat) (h : HNeed) (s : State) : Run State := do
  checkHandle h s
  needAligned o (intSize t)
  needBound s.th o (intSize t)
  let s ← waitHandle true h s
  waitClass w s
  blockUntil (q = .plain || isFull s (scratchKey s.th o))
  let bs ← readScratch o (intSize t) s
  let s := if q = .fullClear then clearFull (scratchKey s.th o) s else s
  let s := if q = .plain then s else acquire 3 s
  .ok ((s.setD a (extend t (natOfBytes bs))).advance len)

/-- `sts` (R96). -/
def storeScratch (len : Nat) (w : WClass) (sets : Bool) (t : IntTy) (a : DReg) (o : Nat) (h : HNeed) (s : State) :
    Run State := do
  checkHandle h s
  needAligned o (intSize t)
  needBound s.th o (intSize t)
  let s ← waitHandle false h s
  waitClass w s
  let s := writeScratch o (storeBytes t (s.getD a)) s
  .ok ((if sets then setFull (scratchKey s.th o) s else s).advance len)

/-- `lds` (R96). -/
def execLds (w : WClass) (q : FE) (t : IntTy) (a b : DReg) (off : BitVec 5) (s : State) : Host.Outcome State Fault Refusal :=
  finishRun s (loadScratch 4 w q t a (scratchOffset s b (off.zeroExtend 64)) none s)

/-- `lds` in the X form (R96, R59). -/
def execLdsX (w : WClass) (q : FE) (t : IntTy) (a b : DReg) (i : BitVec 32) (h : HNeed) (s : State) :
    Host.Outcome State Fault Refusal :=
  finishRun s (loadScratch 12 w q t a (scratchOffset s b (imm32 i)) h s)

/-- `sts` (R96). -/
def execSts (w : WClass) (sets : Bool) (t : IntTy) (a b : DReg) (off : BitVec 5) (s : State) :
    Host.Outcome State Fault Refusal :=
  finishRun s (storeScratch 4 w sets t a (scratchOffset s b (off.zeroExtend 64)) none s)

/-- `sts` in the X form (R96, R59). -/
def execStsX (w : WClass) (sets : Bool) (t : IntTy) (a b : DReg) (i : BitVec 32) (h : HNeed) (s : State) :
    Host.Outcome State Fault Refusal :=
  finishRun s (storeScratch 12 w sets t a (scratchOffset s b (imm32 i)) h s)

/-! ### Peer partitions (R100, R101) -/

/-- The thread number that a value in the layout of CORENUM names (R30, R100). -/
def peerThread (v : Word) : Nat := 4 * bits v.toNat 11 0 + bits v.toNat 17 16

/-- The checks of a peer access (R100): alignment, cluster, partition. The answer is the target context. -/
def checkPeer (v : Word) (o n : Nat) (s : State) : Run Thread := do
  require (o % n = 0) clsAlign 1 (BitVec.ofNat 64 o)
  require (clusterOfCore (coreOf (peerThread v)) = clusterOfCore (coreOf s.th.num)) clsScratch 2 (BitVec.ofNat 64 o)
  match s.thread? (peerThread v) with
  | some t => if o + n ≤ t.spsize.toNat then .ok t else .error (.trap clsScratch 1 (BitVec.ofNat 64 o))
  | none => .error (.trap clsScratch 1 (BitVec.ofNat 64 o))

/-- Where a peer access lies: its checks and its wait on W, then the array byte of the partition in force at issue, which a wait
after the issue keeps (R100). -/
def peerKey (w : WClass) (v : Word) (o n : Nat) (s : State) : Run Nat :=
  match s.th.kept with
  | some (k :: _) => .ok k
  | _ => do
    let u ← checkPeer v o n s
    waitClass w s
    .ok (scratchKey u o)

/-- `ldp` (R100, R101): after every earlier `stp` of the thread to that target. A load that finds its full bit set acquires at cluster
scope (R272). -/
def loadPeer (len : Nat) (w : WClass) (q : FE) (t : IntTy) (a b : DReg) (o : Nat) (s : State) : Run State := do
  let k ← peerKey w (s.getD b) o (intSize t) s
  let stay : Stop := .waitAfter fun s => { s with th := { s.th with kept := some [k] } }
  if s.stores.any fun r => r.sender = s.th.num && r.slot = peerThread (s.getD b) then .error stay
  if q ≠ .plain && !isFull s k then .error (if s.th.inHandler then .block else stay)
  if scratchPoisoned s k (intSize t) then .error (.endTask statusPoison)
  let x := scratchNat s k (intSize t)
  let s := if q = .fullClear then clearFull k s else s
  let s := if q = .plain then s else acquire 3 s
  .ok (({ s with th := { s.th with kept := none } }.setD a (extend t x)).advance len)

/-- `stp` (R100, R101): posted, counted in the remote-scratch class. -/
def storePeer (len : Nat) (w : WClass) (sets : Bool) (t : IntTy) (a b : DReg) (o : Nat) (s : State) : Run State := do
  let u ← checkPeer (s.getD b) o (intSize t) s
  waitClass w s
  let r : RemoteStore :=
    { sender := s.th.num, task := s.th.taskid, slot := u.num, key := scratchKey u o
      bytes := storeBytes t (s.getD a), full := sets, step := s.fresh }
  .ok ({ s with stores := s.stores ++ [r], th := { s.th with cntRemote := s.th.cntRemote + 1 } }.advance len)

/-- `ldp` (R100). -/
def execLdp (w : WClass) (q : FE) (t : IntTy) (a b c : DReg) (s : State) : Host.Outcome State Fault Refusal :=
  finishRun s (loadPeer 4 w q t a b (s.getD c).toNat s)

/-- `ldp` in the X form (R100). -/
def execLdpX (w : WClass) (q : FE) (t : IntTy) (a b c : DReg) (i : BitVec 32) (s : State) :
    Host.Outcome State Fault Refusal :=
  finishRun s (loadPeer 12 w q t a b (scratchOffset s c (imm32 i)) s)

/-- `stp` (R100). -/
def execStp (w : WClass) (sets : Bool) (t : IntTy) (a b c : DReg) (s : State) : Host.Outcome State Fault Refusal :=
  finishRun s (storePeer 4 w sets t a b (s.getD c).toNat s)

/-- `stp` in the X form (R100). -/
def execStpX (w : WClass) (sets : Bool) (t : IntTy) (a b c : DReg) (i : BitVec 32) (s : State) :
    Host.Outcome State Fault Refusal :=
  finishRun s (storePeer 12 w sets t a b (scratchOffset s c (imm32 i)) s)

/-- A posted store into a partition can land: no earlier store of its sender goes to the same slot, nor, from a slot of
the sender's own tile, to any slot of that tile (R101). One that sets the full bit releases at cluster scope (R272): it lands
after everything that its sender posted before it. -/
def storeFirst (s : State) (i : Nat) (r : RemoteStore) : Bool :=
  !((s.stores.take i).any fun q => q.sender = r.sender && q.task = r.task &&
    (r.full || q.slot = r.slot || (q.slot / 16 = r.sender / 16 && r.slot / 16 = r.sender / 16))) &&
    !(r.full && s.mem.posted.any fun p => p.thread = r.sender && p.taskid = r.task && p.step < r.step)

/-- A posted store lands in the partition: the row REMOTE_SCRATCH_WRITE (R101). -/
def landStore (i : Nat) (r : RemoteStore) (s : State) : State :=
  let s := scratchPut r.key r.bytes { s with stores := dropAt i s.stores }
  let s := if r.full then setFull r.key s else s
  s.onThreads (isContext r.sender r.task) fun t => { t with cntRemote := t.cntRemote - 1 }

/-! ### Full bits (R99) -/

/-- `fes` and `fec`: the bits of every granule of a range. -/
def fullRange (sets : Bool) (a b : DReg) (s : State) : Run State := do
  let o := (s.getD a).toNat
  let n := (s.getD b).toNat
  require (o % 16 = 0) clsAlign 0 (s.getD a)
  require (n % 16 = 0) clsAlign 0 (s.getD b)
  require (o + n ≤ s.th.spsize.toNat) clsScratch 0 (s.getD a)
  let k := scratchKey s.th o
  .ok (((List.range (n / 16)).foldl (fun s i => if sets then setFull (k + 16 * i) s else clearFull (k + 16 * i) s) s).advance 4)

/-- `fes` (R99). -/
def execFes (a b : DReg) (s : State) : Host.Outcome State Fault Refusal := finishRun s (fullRange true a b s)

/-- `fec` (R99). -/
def execFec (a b : DReg) (s : State) : Host.Outcome State Fault Refusal := finishRun s (fullRange false a b s)

/-! ### The stack (R103, R104) -/

/-- The registers of a mask, lowest first. -/
def maskRegs (m : BitVec 32) : List Nat := (List.range 32).filter fun i => m.getLsbD i

/-- One slot of a push or pop: the register, its stack offset, whether it lies in the overflow area, and the overflow
pointer before it. -/
structure StackSlot where
  reg : Nat
  off : Word
  beyond : Bool
  ovf : Word

/-- The slots that a push takes, highest register first, or a pop, lowest first (R104). -/
def stackSlots (pushes : Bool) (z : Nat) (top : Word) : List Nat → Word → Word → List StackSlot
  | [], _, _ => []
  | r :: rest, sp, ovf =>
    let zz := BitVec.ofNat 64 z
    let off := if pushes then sp - zz else sp
    let beyond := off.toInt < top.toInt
    let sp' := if pushes then sp - zz else sp + zz
    let ovf' := if beyond then (if pushes then ovf + zz else ovf - zz) else ovf
    ⟨r, off, beyond, ovf⟩ :: stackSlots pushes z top rest sp' ovf'

/-- The checks of R104 in their order; `streams` is the fourth of them. -/
def checkStack (z : Nat) (slots : List StackSlot) (us : List StreamUse) (s : State) : Run Unit := do
  require ((s.getD 2).toNat % z = 0) clsAlign 0 (s.getD 2)
  require (!slots.any (fun x => x.beyond) || s.th.spillovf.toNat % z = 0) clsAlign 2 s.th.spillovf
  slots.forM fun x =>
    require (x.beyond || (0 ≤ x.off.toInt && x.off.toInt + z ≤ s.th.spsize.toNat)) clsScratch 0 x.off
  checkStreams us s.th
  slots.forM fun x => require (!x.beyond || x.ovf ≠ 0) clsSpill 0
  waitPops us s
  poisonPops us s

/-- Bytes to the overflow area: stores of thread scope, 8 bytes at a time (R104). -/
def overflowWrite (va : Nat) (bs : List Byte) (s : State) : Run State :=
  (List.range (bs.length / 8)).foldlM (fun s i =>
    storeGlobal 1 .normal (va + 8 * i) 8 (natOfBytes ((bs.drop (8 * i)).take 8)) s) s

/-- Bytes from the overflow area. -/
def overflowRead (va n : Nat) (s : State) : Run (List Byte × State) :=
  (List.range (n / 8)).foldlM (fun r i => do
    let (x, s) ← loadGlobal 1 .normal (va + 8 * i) 8 r.2
    .ok (r.1 ++ bytesOf 8 x, s)) ([], s)

/-- One slot of a push; the value is read when its turn comes. -/
def pushSlot (value : Nat → State → List Byte) (pops : Nat → State → State) (s : State) (x : StackSlot) : Run State := do
  let bs := value x.reg s
  let s := pops x.reg s
  let s := s.setD 2 x.off
  if x.beyond then
    let s ← overflowWrite x.ovf.toNat bs s
    .ok { s with th := { s.th with spillovf := x.ovf + BitVec.ofNat 64 bs.length } }
  else .ok (writeScratch x.off.toNat bs s)

/-- One slot of a pop. -/
def popSlot (z : Nat) (put : Nat → List Byte → State → State) (s : State) (x : StackSlot) : Run State := do
  let (bs, s) ←
    if x.beyond then
      let at' := x.ovf - BitVec.ofNat 64 z
      let (bs, s) ← overflowRead at'.toNat z s
      .ok (bs, { s with th := { s.th with spillovf := at' } })
    else do
      let bs ← readScratch x.off.toNat z s
      .ok (bs, s)
  .ok ((put x.reg bs s).setD 2 (x.off + BitVec.ofNat 64 z))

/-- A push of scalar registers. -/
def pushD (len : Nat) (mask : BitVec 32) (s : State) : Run State := do
  let slots := stackSlots true 8 s.th.spilltop (maskRegs mask).reverse (s.getD 2) s.th.spillovf
  checkStack 8 slots [] s
  let s ← slots.foldlM (pushSlot (fun r s => bytesOf 8 (s.getD (BitVec.ofNat 5 r)).toNat) (fun _ s => s)) s
  .ok (s.advance len)

/-- A pop of scalar registers. -/
def popD (len : Nat) (mask : BitVec 32) (s : State) : Run State := do
  let slots := stackSlots false 8 s.th.spilltop (maskRegs mask) (s.getD 2) s.th.spillovf
  checkStack 8 slots [] s
  let s ← slots.foldlM (popSlot 8 fun r bs s => s.setD (BitVec.ofNat 5 r) (BitVec.ofNat 64 (natOfBytes bs))) s
  .ok (s.advance len)

/-- The stream uses of a `push.v` or `pop.v`, in the order the registers are taken (R103). -/
def stackStreams (pushes : Bool) (slots : List StackSlot) (t : Thread) : List StreamUse :=
  slots.filterMap fun x =>
    (bindingOf t (BitVec.ofNat 5 x.reg)).map fun b => ⟨BitVec.ofNat 5 x.reg, b, b.pos, !pushes⟩

/-- `push` (R103, R104): one register. -/
def execPush (a : DReg) (s : State) : Host.Outcome State Fault Refusal := finishRun s (pushD 4 (bit32 a.toNat) s)

/-- `push` of a mask (R103, R104). -/
def execPushX (mask : BitVec 32) (s : State) : Host.Outcome State Fault Refusal := finishRun s (pushD 12 mask s)

/-- `pop` (R103, R104): one register. -/
def execPop (a : DReg) (s : State) : Host.Outcome State Fault Refusal := finishRun s (popD 4 (bit32 a.toNat) s)

/-- `pop` of a mask (R103, R104). -/
def execPopX (mask : BitVec 32) (s : State) : Host.Outcome State Fault Refusal := finishRun s (popD 12 mask s)

/-- `push.v` (R103, R104): a bound register is popped and its element pushed. -/
def execPushV (mask : BitVec 32) (s : State) : Host.Outcome State Fault Refusal :=
  finishRun s (do
    let slots := stackSlots true 128 s.th.spilltop (maskRegs mask).reverse (s.getD 2) s.th.spillovf
    checkStack 128 slots (stackStreams true slots s.th) s
    let s ← slots.foldlM (pushSlot (fun r s => bytesOfLanes (readVec s (BitVec.ofNat 5 r)))
      (fun r s => if (bindingOf s.th (BitVec.ofNat 5 r)).isSome then stepBinding (BitVec.ofNat 5 r) s else s)) s
    .ok (s.advance 12))

/-- `pop.v` (R103, R104): the value is appended to a bound register's pattern. -/
def execPopV (mask : BitVec 32) (s : State) : Host.Outcome State Fault Refusal :=
  finishRun s (do
    let slots := stackSlots false 128 s.th.spilltop (maskRegs mask) (s.getD 2) s.th.spillovf
    checkStack 128 slots (stackStreams false slots s.th) s
    let s ← slots.foldlM (popSlot 128 fun r bs s =>
      writeVec (BitVec.ofNat 5 r) (BitVec.allOnes 32) (lane (lanesOfBytes bs)) s) s
    .ok (s.advance 12))

end Sys2Proof.Machine
end

