-- ==== Sys2Proof/Machine/Regions.lean ====
section
/-! DEFINITION. The meanings of majors 0x20 to 0x23 (R169 to R189): set operations, dilation, projection, splitting,
construction, inspection, and region loads and stores. -/

namespace Sys2Proof.Machine

/-! ### Checks shared by the region instructions (R169, R172, R173) -/

/-- REGION_FORM on a register. -/
def regionForm (ok : Bool) (q : QReg) : Run Unit := require ok clsRegionForm q.toNat
/-- REGION_OVF on a register. -/
def regionOvf (s : State) (q : QReg) : Run Unit := require (!(s.getQ q).ovf) clsRegionOvf q.toNat
/-- REGION_APX on a register. -/
def regionApx (s : State) (q : QReg) : Run Unit := require (!(s.getQ q).apx) clsRegionApx q.toNat

/-- The entry of the thread's tensor table, if it is not empty (R289). -/
def tensorAt (t : Thread) (n : Nat) : Option Tensor := (lookup n t.tensors).filter fun d => d.rank ≠ 0

/-- The extents that an operation over a region reads; none where TV = 0 or the entry is empty (R172). -/
def regionExtents (s : State) (q : Region) : Option (List Int) :=
  if q.tv then (tensorAt s.th q.tid).map fun d => (List.range q.rank).map fun j => ((d.ext.getD j 1 : Nat) : Int) else none

/-- A set operation on two sources (R175): the FORM and OVF checks, then the result. -/
def regionTwo (a b c : QReg) (f : Region → Region → Region) (s : State) : Run State := do
  let x := s.getQ b
  let y := s.getQ c
  regionForm (!x.rag) b
  regionForm (!y.rag && compatible x y) c
  regionOvf s b
  regionOvf s c
  .ok ((s.setQ a (f x y)).advance 4)

/-- A set of four signed 16-bit fields (R178, R187). -/
def s16Fields (w : Word) : List Int := (List.range 4).map fun j => (BitVec.ofNat 16 (w.toNat / 2 ^ (16 * j))).toInt
/-- A set of four unsigned 16-bit fields (R179). -/
def n16Fields (w : Word) : List Nat := (List.range 4).map fun j => w.toNat / 2 ^ (16 * j) % 65536

/-! ### Set operations (R175 to R177) -/

/-- `runi` (R175). -/
def execRuni (o : Bool) (a b c : QReg) (s : State) : Host.Outcome State Fault Refusal :=
  finishRun s (regionTwo a b c (regionUnion o) s)

/-- `rint` (R175, R171): one ragged operand is accepted beside a plain box. -/
def execRint (o : Bool) (a b c : QReg) (s : State) : Host.Outcome State Fault Refusal :=
  finishRun s (do
    let x := s.getQ b
    let y := s.getQ c
    regionForm (compatible x y && (!x.rag || y.isPlainBox) && (!y.rag || x.isPlainBox)) c
    regionOvf s b
    regionOvf s c
    .ok ((s.setQ a (regionInter o x y)).advance 4))

/-- `rsub` (R175): an approximate subtrahend traps. -/
def execRsub (o : Bool) (a b c : QReg) (s : State) : Host.Outcome State Fault Refusal :=
  finishRun s (do
    let x := s.getQ b
    let y := s.getQ c
    regionForm (!x.rag) b
    regionForm (!y.rag && compatible x y) c
    regionOvf s b
    regionOvf s c
    regionApx s c
    .ok ((s.setQ a (regionDiff o x y)).advance 4))

/-- `rhull` (R175). -/
def execRhull (o : Bool) (a b c : QReg) (s : State) : Host.Outcome State Fault Refusal :=
  finishRun s (regionTwo a b c (regionHull o) s)

/-- `rmove` (R176). -/
def execRmove (a b : QReg) (s : State) : Host.Outcome State Fault Refusal :=
  finishRun s (.ok ((s.setQ a (s.getQ b)).advance 4))

/-- `rclip` (R177). -/
def execRclip (o : Bool) (a b : QReg) (s : State) : Host.Outcome State Fault Refusal :=
  finishRun s (do
    let x := s.getQ b
    regionForm (!x.rag && (regionExtents s x).isSome) b
    regionOvf s b
    .ok ((s.setQ a (regionClip o ((regionExtents s x).getD []) x)).advance 4))

/-! ### Dilation, projection, splitting (R179 to R181) -/

/-- `rdil` (R179). -/
def dilateWith (len : Nat) (o : Bool) (a b : QReg) (c : DReg) (s : State) : Run State := do
  let x := s.getQ b
  regionForm (!x.rag && (regionExtents s x).isSome) b
  regionOvf s b
  .ok ((s.setQ a (regionDilate o ((regionExtents s x).getD []) (n16Fields (s.getD c)) x)).advance len)

/-- The check of `rproj`'s source (R180). -/
def projectOk (mask : Nat) (x : Region) : Bool :=
  !x.rag && decide (mask / 2 ^ x.rank = 0) && (mask = 0 || popCount (BitVec.ofNat 4 mask) < x.rank)

/-- `rproj` without a tensor (R180). -/
def execRproj (o : Bool) (a b : QReg) (mask : BitVec 4) (s : State) : Host.Outcome State Fault Refusal :=
  finishRun s (do
    let x := s.getQ b
    regionForm (projectOk mask.toNat x) b
    regionOvf s b
    .ok ((s.setQ a (if x.isBlank then Region.blank else regionProject o mask.toNat none x)).advance 4))

/-- `rproj` onto tensor N (R180). -/
def execRprojX (o : Bool) (a b : QReg) (mask : BitVec 4) (t : TReg) (s : State) : Host.Outcome State Fault Refusal :=
  finishRun s (do
    let x := s.getQ b
    let rank := match tensorAt s.th t.toNat with | some d => d.rank | none => 0
    regionForm (projectOk mask.toNat x) b
    regionForm (rank ≠ 0 && (x.isBlank || rank = x.rank - popCount mask)) a
    regionOvf s b
    .ok ((s.setQ a (if x.isBlank then { tid := t.toNat, tv := true, rank := rank }
      else regionProject o mask.toNat (some t.toNat) x)).advance 12))

/-- `rsplit` (R181). -/
def splitWith (len : Nat) (o : Bool) (a b : QReg) (c : DReg) (s : State) : Run State := do
  let x := s.getQ b
  let k := (s.getD c).toNat % 65536
  let i := (s.getD c).toNat / 65536
  require (k ≠ 0 && i < k) clsIll illValue
  regionForm (!x.rag) b
  regionOvf s b
  .ok ((s.setQ a (regionSplit o i k x)).advance len)

/-- `rsplit` (R181). -/
def execRsplit (o : Bool) (a b : QReg) (c : DReg) (s : State) : Host.Outcome State Fault Refusal :=
  finishRun s (splitWith 4 o a b c s)

/-- `rdil` (R179). -/
def execRdil (o : Bool) (a b : QReg) (c : DReg) (s : State) : Host.Outcome State Fault Refusal :=
  finishRun s (dilateWith 4 o a b c s)

/-- `rdil` in the X form (R423). -/
def execRdilX (o : Bool) (a b : QReg) (c : DReg) (s : State) : Host.Outcome State Fault Refusal :=
  finishRun s (dilateWith 12 o a b c s)

/-- `rsplit` in the X form (R423). -/
def execRsplitX (o : Bool) (a b : QReg) (c : DReg) (s : State) : Host.Outcome State Fault Refusal :=
  finishRun s (splitWith 12 o a b c s)

/-! ### Construction (R178, R182 to R184) -/

/-- `rbox` (R182). -/
def execRbox (a : QReg) (t : TReg) (b c : DReg) (j : BitVec 2) (s0 s1 : BitVec 3) (s : State) :
    Host.Outcome State Fault Refusal :=
  finishRun s (do
    match tensorAt s.th t.toNat with
    | none => .error (.trap clsRegionForm a.toNat 0)
    | some d =>
      regionForm (j.toNat < d.rank) a
      let lo (n : Nat) : Int := s32 ((s.getD b).toNat / n)
      let hi (n : Nat) : Int := s32 ((s.getD c).toNat / n)
      let dim (i : Nat) : Dim :=
        if i = j.toNat then ⟨lo 1, hi 1, s0.toNat⟩
        else if i = j.toNat + 1 then ⟨lo 4294967296, hi 4294967296, s1.toNat⟩
        else ⟨0, ((d.ext.getD i 1 : Nat) : Int), 0⟩
      .ok ((s.setQ a (regionBox t.toNat ((List.range d.rank).map dim))).advance 12))

/-- `rstr` (R178). -/
def translateWith (len : Nat) (a b : QReg) (c : DReg) (s : State) : Run State := do
  let x := s.getQ b
  require (((s16Fields (s.getD c)).drop x.rank).all fun v => v = 0) clsIll illValue
  regionForm (!x.rag) b
  regionOvf s b
  .ok ((s.setQ a (regionTranslate (s16Fields (s.getD c)) x)).advance len)

/-- `rrag` (R183). -/
def raggedWith (len : Nat) (a b : QReg) (s : State) : Run State := do
  let x := s.getQ b
  regionForm (x.tv && 2 ≤ x.rank) b
  regionOvf s b
  .ok ((s.setQ a { x with rag := true }).advance len)

/-- `rstr` (R178). -/
def execRstr (a b : QReg) (c : DReg) (s : State) : Host.Outcome State Fault Refusal := finishRun s (translateWith 4 a b c s)

/-- `rrag` (R183). -/
def execRrag (a b : QReg) (s : State) : Host.Outcome State Fault Refusal := finishRun s (raggedWith 4 a b s)

/-- `rtid` (R184). -/
def execRtid (a : QReg) (t : TReg) (s : State) : Host.Outcome State Fault Refusal :=
  finishRun s (do
    let x := s.getQ a
    let rank := match tensorAt s.th t.toNat with | some d => d.rank | none => 0
    regionForm (rank ≠ 0 && !x.rag && (x.isBlank || x.rank = rank)) a
    regionOvf s a
    .ok ((s.setQ a { x with tv := true, tid := t.toNat, rank := rank }).advance 12))

/-! ### Inspection (R185 to R187) -/

/-- `rnbox` (R185). -/
def headerTo (len : Nat) (a : DReg) (b : QReg) (s : State) : Run State :=
  .ok ((s.setD a (s.getQ b).header).advance len)

/-- `rgetb` (R185). -/
def fieldTo (len : Nat) (a : DReg) (b : QReg) (c : DReg) (s : State) : Run State := do
  let v := (s.getD c).toNat
  let item := v / 65536
  require (item < 3 && v % 16 ≤ 7 && v % 65536 / 16 % 16 = 0 && v % 65536 / 1024 = 0) clsIll illValue
  let d := (s.getQ b).slotDim (v % 16) (v / 256 % 4)
  .ok ((s.setD a (BitVec.ofInt 64 (if item = 0 then d.lo else if item = 1 then d.hi else d.sc))).advance len)

/-- `rcells` (R186). -/
def cellsTo (len : Nat) (a : DReg) (b : QReg) (s : State) : Run State := do
  let x := s.getQ b
  regionForm (!x.rag) b
  regionOvf s b
  .ok ((s.setD a (BitVec.ofNat 64 (min (countCells x.rank x.cells) (2 ^ 64 - 1)))).advance len)

/-- `rtest` (R187). -/
def testTo (len : Nat) (a : PReg) (b : QReg) (c : DReg) (s : State) : Run State := do
  let x := s.getQ b
  regionForm (!x.rag) b
  regionOvf s b
  .ok ((s.setP a (if hasCell (s16Fields (s.getD c)) x then 1 else 0)).advance len)

/-- `rnbox` (R185). -/
def execRnbox (a : DReg) (b : QReg) (s : State) : Host.Outcome State Fault Refusal := finishRun s (headerTo 4 a b s)

/-- `rgetb` (R185). -/
def execRgetb (a : DReg) (b : QReg) (c : DReg) (s : State) : Host.Outcome State Fault Refusal :=
  finishRun s (fieldTo 4 a b c s)

/-- `rcells` (R186). -/
def execRcells (a : DReg) (b : QReg) (s : State) : Host.Outcome State Fault Refusal := finishRun s (cellsTo 4 a b s)

/-- `rtest` (R187). -/
def execRtest (a : PReg) (b : QReg) (c : DReg) (s : State) : Host.Outcome State Fault Refusal :=
  finishRun s (testTo 4 a b c s)

/-- `rstr` in the X form (R178). -/
def execRstrX (a b : QReg) (c : DReg) (s : State) : Host.Outcome State Fault Refusal :=
  finishRun s (translateWith 12 a b c s)

/-- `rrag` in the X form (R423). -/
def execRragX (a b : QReg) (s : State) : Host.Outcome State Fault Refusal := finishRun s (raggedWith 12 a b s)

/-- `rnbox` in the X form (R185). -/
def execRnboxX (a : DReg) (b : QReg) (s : State) : Host.Outcome State Fault Refusal := finishRun s (headerTo 12 a b s)

/-- `rgetb` in the X form (R185). -/
def execRgetbX (a : DReg) (b : QReg) (c : DReg) (s : State) : Host.Outcome State Fault Refusal :=
  finishRun s (fieldTo 12 a b c s)

/-- `rcells` in the X form (R423). -/
def execRcellsX (a : DReg) (b : QReg) (s : State) : Host.Outcome State Fault Refusal := finishRun s (cellsTo 12 a b s)

/-- `rtest` in the X form (R423). -/
def execRtestX (a : PReg) (b : QReg) (c : DReg) (s : State) : Host.Outcome State Fault Refusal :=
  finishRun s (testTo 12 a b c s)

/-! ### Loading and storing (R188, R189) -/

/-- Bytes as 64-bit words (R7). -/
def wordsOf64 (bs : List Byte) : List Word :=
  (List.range (bs.length / 8)).map fun i => BitVec.ofNat 64 (natOfBytes ((bs.drop (8 * i)).take 8))

/-- The 320 bytes of a region's save slot (R162). -/
def Region.slotBytes (q : Region) : List Byte := q.slotWords.flatMap fun w => bytesOf 8 w.toNat

/-- `rld` (R188): with W ≠ 00 the slot is checked after the wait, on the bytes loaded; with W = 00 the two are one. -/
def loadRegion (len : Nat) (w : WClass) (a : QReg) (o : Nat) (s : State) : Run State := do
  needAligned o 16
  needBound s.th o 320
  waitClass w s
  let bs ← readScratch o 320 s
  let ws := wordsOf64 bs
  regionForm (slotOk ws) a
  .ok ((s.setQ a (regionOfSlot ws)).advance len)

/-- `rst` (R189). -/
def storeRegion (len : Nat) (w : WClass) (a : QReg) (o : Nat) (s : State) : Run State := do
  needAligned o 16
  needBound s.th o 320
  waitClass w s
  .ok ((writeScratch o (s.getQ a).slotBytes s).advance len)

/-- `rld` (R188). -/
def execRld (w : WClass) (a : QReg) (b : DReg) (off : BitVec 5) (s : State) : Host.Outcome State Fault Refusal :=
  finishRun s (loadRegion 4 w a (s.getD b + off.zeroExtend 64).toNat s)

/-- `rst` (R189). -/
def execRst (w : WClass) (a : QReg) (b : DReg) (off : BitVec 5) (s : State) : Host.Outcome State Fault Refusal :=
  finishRun s (storeRegion 4 w a (s.getD b + off.zeroExtend 64).toNat s)

/-- `rld` in the X form (R188). -/
def execRldX (w : WClass) (a : QReg) (b : DReg) (i : BitVec 32) (s : State) : Host.Outcome State Fault Refusal :=
  finishRun s (loadRegion 12 w a (s.getD b + imm32 i).toNat s)

/-- `rst` in the X form (R189). -/
def execRstX (w : WClass) (a : QReg) (b : DReg) (i : BitVec 32) (s : State) : Host.Outcome State Fault Refusal :=
  finishRun s (storeRegion 12 w a (s.getD b + imm32 i).toNat s)

end Sys2Proof.Machine
end

