-- ==== Sys2Proof/Machine/Engines.lean ====
section
/-! DEFINITION. The meanings of majors 0x24 to 0x27, 0x2C and 0x2D (R284 to R313): transfers, walks, the converter, the
collective and drain engines, timelines, handles, waits, protections, the tensor table, and the acceptance of commands. -/

namespace Sys2Proof.Machine

/-! ### Who issues (R285, R310) -/

/-- The issuer of an engine operation: the engine's tile, the context whose partition the scratch operands address, the
address space, the task and its scope, the captured modes, and for a command its completion word. -/
structure Issuer where
  tile : Nat
  part : Thread
  asid : Nat
  task : Nat
  scope : Nat := 0
  topinf : Bool
  rm : Nat
  command : Bool := false
  doneWord : Nat := 0
  addr : Nat := 0

/-- The thread in focus as an issuer. -/
def issuerOf (s : State) : Issuer :=
  { tile := tileOfCore (coreOf s.th.num), part := s.th, asid := s.th.asid, task := s.th.taskid, scope := s.th.scopeid
    topinf := topinfOf s.th.fmode, rm := s.th.fmode.toNat % 4, addr := s.th.pc.toNat }

/-- An operation of an issuer. The operands of a thread's stream operation set out as flits (R354); those of a command are read by the
matrix unit that accepts it [DESIGN CHOICE, log 37]. -/
def Issuer.op (i : Issuer) (ctx : Nat) (kind : OpKind) (jobs : List Job) (marks : List Nat) : EngOp :=
  { tile := i.tile, ctx := ctx, num := 0, thread := i.part.num, home := i.part.taskid, task := i.task, scope := i.scope, asid := i.asid
    topinf := i.topinf, rm := i.rm, kind := kind, jobs := jobs, marks := marks, doneWord := i.doneWord, command := i.command
    addr := i.addr
    flits := match kind with | .stream k _ _ _ => if i.command then 0 else operandFlits k | _ => 0 }

/-- What a launch's own read of a record gives: a wait, or LEASE_OUT for a place that is not readable [DESIGN CHOICE, log 90]. -/
def atIssue {α : Type} (r : EngRun α) : Run α :=
  match r with
  | .ok x => .ok x
  | .error .stall => .error .block
  | .error _ => .error (.endTask statusLeaseOut)

/-! ### Tensors and cells (R289, R292, R170, R181) -/

/-- Bytes of one element of a tensor (R289). -/
def Tensor.size (d : Tensor) : Nat := tySize (tyOfCode d.format)
/-- Off(c) (R289). -/
def Tensor.off (d : Tensor) (c : List Int) : Int := ((c.zip d.pitch).map fun x => x.1 * x.2).foldl (· + ·) 0
/-- The global address of a cell; one outside the address space lies in no lease. -/
def Tensor.addr (d : Tensor) (c : List Int) : Nat := (((d.base : Int) + d.off c) % (2 ^ 64 : Nat)).toNat

/-- Every cell of a union of products, in lexicographic order (R181). -/
def cellsInOrder : Nat → Prods → List (List Int)
  | 0, ps => if ps.isEmpty then [] else [[]]
  | n + 1, ps => (heads ps).flatMap fun v => (cellsInOrder n (fibre ps v)).map fun t => v :: t

/-- Least and greatest Off over the bounds of stored boxes (R292); none for an empty region. -/
def offSpan (d : Tensor) (bs : List Box) : Option (Int × Int) :=
  let one (b : Box) : Int × Int := (b.zip d.pitch).foldl (fun r x =>
    let p := x.1.lo * x.2
    let q := (x.1.hi - 1) * x.2
    (r.1 + (if p ≤ q then p else q), r.2 + (if p ≤ q then q else p))) (0, 0)
  bs.foldl (fun r b =>
    let o := one b
    match r with
    | none => some o
    | some (a, z) => some (if o.1 < a then o.1 else a, if z < o.2 then o.2 else z)) none

/-- The first three checks of R292 on a region: its tensor, OVF and APX. `code` is the subcode that names the region. -/
def regionChecks (code : Nat) (q : Region) (d : Option Tensor) (globalOnly exact : Bool) : Run Tensor := do
  let form : Stop := .trap clsRegionForm code 0
  match d with
  | none => .error form
  | some d =>
    if !q.tv || d.rank = 0 || (globalOnly && d.loc) then .error form
    require (!q.ovf) clsRegionOvf code
    require (!(exact && q.apx)) clsRegionApx code
    .ok d

/-- ENGINE EXTENT: a stored box reaches outside its tensor (R292). -/
def extentCheck (d : Tensor) (bs : List Box) : Run Unit :=
  require (bs.all fun b => (b.zip (List.range b.length)).all fun x =>
    0 ≤ x.1.lo && x.1.hi ≤ ((d.ext.getD x.2 1 : Nat) : Int)) clsEngine 0x12

/-- The alignment and bound checks of R292 on images at offset `o` in partitions; an empty region has none (R312). -/
def imageChecks (d : Tensor) (q : Region) (o : Nat) (parts : List Thread) : Run Unit :=
  match offSpan d q.boxes with
  | none => .ok ()
  | some (lo, hi) => do
    require (o % d.size = 0) clsAlign 0 (BitVec.ofNat 64 o)
    parts.forM fun t =>
      require (0 ≤ (o : Int) + lo && (o : Int) + hi + d.size ≤ t.spsize.toNat) clsScratch 0 (BitVec.ofNat 64 o)

/-- The length-table entries of some first coordinates, read by the thread itself (R170, R289, R342). -/
def readLens (d : Tensor) (cs : List Int) (s : State) : Run (List (Int × Nat) × State) :=
  cs.foldlM (fun r c =>
    if c < 0 ∨ (d.ltlen : Int) ≤ c then .ok (r.1 ++ [(c, 0)], r.2)
    else do
      let (n, s) ← readCell (d.ltab + 4 * c.toNat) 4 r.2
      .ok (r.1 ++ [(c, n)], s)) ([], s)

/-- The cells of a list that a ragged region counts (R170). -/
def belowLen (lens : List (Int × Nat)) (cs : List (List Int)) : List (List Int) :=
  cs.filter fun c => match lens.find? fun l => l.1 = c.headD 0 with
    | some (_, n) => c.getLastD 0 < n
    | none => false

/-- The lengths that a ragged region of a waiting instruction counts by. The table is read once, when the instruction issues (R170): a
thread that waits keeps what it has read. [DEDUCED, log 36] -/
def ownLens (q : Region) (d : Tensor) (s : State) : Run (List (Int × Nat) × State) :=
  let firsts := if q.rag then heads q.cells else []
  match s.th.kept with
  | some (n :: ns) => .ok (firsts.zip (n :: ns), s)
  | _ => readLens d firsts s

/-- A blocking wait that keeps the lengths read at issue. -/
def waitKeeping {α : Type} (lens : List (Int × Nat)) (s : State) : Run α :=
  let ns := lens.map Prod.snd
  if s.th.inHandler || ns.isEmpty then .error .block
  else .error (.waitAfter fun s => let s := forgetWaits s; { s with th := { s.th with kept := some ns } })

/-- The cells of a region, in order, those of a ragged one below their lengths (R170, R181). -/
def countedCells (q : Region) (lens : List (Int × Nat)) : List (List Int) :=
  let cs := cellsInOrder q.rank q.cells
  if q.rag then belowLen lens cs else cs

/-- The first coordinates of a ragged region whose lengths its tensor's table gives; the others have length 0 (R170). -/
def tableCoords (q : Region) (d : Tensor) (firsts : List Int) : List Int :=
  if q.rag then firsts.filter fun c => 0 ≤ c && c < (d.ltlen : Int) else []

/-- The addresses of their entries (R289). -/
def tableEntries (d : Tensor) (cs : List Int) : List Nat := cs.map fun c => d.ltab + 4 * c.toNat

/-- A cell of a region as an operation takes it, `k` being the place of the first of its table's entries; none where its length is 0. -/
def lenCell (q : Region) (cs : List Int) (k : Nat) (c : List Int) (es : List Elem) : Option LenCell :=
  if !q.rag then some ⟨none, 0, es⟩
  else if cs.contains (c.headD 0) then some ⟨some (k + cs.findIdx (· = c.headD 0)), c.getLastD 0, es⟩
  else none

/-- An operation with the cells it takes. The length table is read as it issues (R170); where that cannot be done at once, because another
device has the table, its page faults or has left the lease, or a protection or a moving page holds it up, the operation issues and its
engine reads the table first, the granules of every cell counting as pending until then. [DESIGN CHOICE, log 36] -/
def planCells (o : EngOp) (table : List Nat) (lists : List (List LenCell)) (s : State) : Run (EngOp × State) :=
  let later (srcs : List Loc) (s : State) : Run (EngOp × State) :=
    .ok ({ o with jobs := o.jobs ++ [.lengths srcs lists]
                  marks := scratchMarks (lists.flatten.flatMap LenCell.elems) }, s)
  match if table.isEmpty then .ok (.data [], s) else gatherSources o (table.map fun va => (.glob va, 4)) s with
  | .ok (.data ds, s) => do
    let o := if ds.any fun d => d.refused then { o with status := some 3 } else o
    let (js, o) ← expandCells o (cellsBelow (ds.map fun d => natOfBytes d.bytes) lists)
    .ok ({ o with jobs := o.jobs ++ js
                  marks := scratchMarks (js.flatMap fun j => match j with | .granule es _ => es | _ => []) }, s)
  | .ok (.asked locs, s) => later locs s
  | .error _ => later (table.map Loc.glob) s

/-! ### Region transfers (R292 to R294) -/

/-- The thread's tensor table replaced. -/
def State.setTensors (s : State) (ts : List (Nat × Tensor)) : State := { s with th := { s.th with tensors := ts } }

/-- The images of a transfer are recorded in the thread's tensor table (R293). An empty transfer may name an origin that the 32 bits of
IMAGE do not hold: the entry keeps it whole, and `tget` and a save area write its low 32 bits [DESIGN CHOICE, log 94]. -/
def setImage (t : Nat) (o : Nat) (s : State) : State :=
  match lookup t s.th.tensors with
  | some d => s.setTensors (insert t { d with img := o } s.th.tensors)
  | none => s

/-- The context number of footprint fetches, which lie on no timeline [DESIGN CHOICE, log 41]. -/
def footprintCtx : Nat := 16

/-- The operation of a transfer between global cells and their images in one or several partitions, after its checks (R292 to
R294, R312). A granule that goes to several targets is read once. -/
def transferPlan (i : Issuer) (inward : Bool) (ctx code : Nat) (q : Region) (d : Option Tensor) (o : Nat)
    (parts : List Thread) (s : State) : Run (EngOp × State) := do
  let d ← regionChecks code q d true (!inward)
  extentCheck d q.boxes
  imageChecks d q o parts
  if ctx < footprintCtx then needRoom i.tile ctx s
  let z := d.size
  let place (t : Thread) (c : List Int) : Loc := .scr (scratchKey t ((o : Int) + d.off c).toNat)
  let elems (c : List Int) : List Elem := parts.map fun t =>
    if inward then ⟨.glob (d.addr c), z, place t c, z⟩ else ⟨place t c, z, .glob (d.addr c), z⟩
  let cs := tableCoords q d (heads q.cells)
  planCells { i.op ctx (.transfer none) [] [] with targets := parts.map fun t => (t.num, t.taskid) } (tableEntries d cs)
    [(cellsInOrder q.rank q.cells).filterMap fun c => lenCell q cs 0 c (elems c)] s

/-- A transfer issued; a thread's own records its images in its tensor table (R293). -/
def transferOp (i : Issuer) (inward : Bool) (ctx code : Nat) (q : Region) (d : Option Tensor) (o : Nat)
    (parts : List Thread) (s : State) : Run State := do
  let (op, s) ← transferPlan i inward ctx code q d o parts s
  .ok (enterOp op (fun s => if i.command then s else setImage q.tid o s) s)

/-- `tw.in` and `tw.out` of the thread. -/
def transferWith (len : Nat) (inward : Bool) (e : EReg) (b : QReg) (o : Word) (s : State) : Run State := do
  needCore 1 s
  let q := s.getQ b
  let s ← transferOp (issuerOf s) inward e.toNat b.toNat q (tensorAt s.th q.tid) o.toNat [s.th] s
  .ok (s.advance len)

/-- The target slots of `tw.mc`; ILL VALUE for a reserved bit or an empty mask (R294). -/
def multiTargets (core : Nat) (v : Word) : Run (List Nat) := do
  require (v.toNat / 2 ^ 18 = 0 && v.toNat % 65536 ≠ 0) clsIll illValue
  .ok (((List.range 16).filter fun p => v.getLsbD p).map fun p => 4 * coreInRow core p + bits v.toNat 17 16)

/-- The contexts in slots; SCRATCH PEER_BOUND for a slot without one (R294). -/
def contextsIn (o : Nat) (slots : List Nat) (s : State) : Run (List Thread) :=
  slots.mapM fun n => match s.thread? n with
    | some t => .ok t
    | none => .error (.trap clsScratch 1 (BitVec.ofNat 64 o))

/-- A transfer to several partitions: the slot check comes with the bound check, and is made for an empty region too, of which R312 leaves
out the bound check alone (R294) [DESIGN CHOICE, log 94]. -/
def multicastOp (i : Issuer) (ctx code : Nat) (q : Region) (d : Option Tensor) (o : Nat) (slots : List Nat) (s : State) :
    Run State := do
  let t ← regionChecks code q d true false
  extentCheck t q.boxes
  require (q.boxes.isEmpty || o % t.size = 0) clsAlign 0 (BitVec.ofNat 64 o)
  let parts ← contextsIn o slots s
  transferOp i true ctx code q d o parts s

/-- `tw.in` (R293). -/
def execTwIn (e : EReg) (b : QReg) (c : DReg) (s : State) : Host.Outcome State Fault Refusal :=
  finishRun s (transferWith 4 true e b (s.getD c) s)

/-- `tw.out` (R293). -/
def execTwOut (e : EReg) (b : QReg) (c : DReg) (s : State) : Host.Outcome State Fault Refusal :=
  finishRun s (transferWith 4 false e b (s.getD c) s)

/-- `tw.in` in the X form (R292). -/
def execTwInX (e : EReg) (b : QReg) (c : DReg) (i : BitVec 32) (s : State) : Host.Outcome State Fault Refusal :=
  finishRun s (transferWith 12 true e b (s.getD c + imm32 i) s)

/-- `tw.out` in the X form (R292). -/
def execTwOutX (e : EReg) (b : QReg) (c : DReg) (i : BitVec 32) (s : State) : Host.Outcome State Fault Refusal :=
  finishRun s (transferWith 12 false e b (s.getD c + imm32 i) s)

/-- `tw.mc` (R294). -/
def execTwMc (e : EReg) (b : QReg) (c d : DReg) (i : BitVec 32) (s : State) : Host.Outcome State Fault Refusal :=
  finishRun s (do
    let slots ← multiTargets (coreOf s.th.num) (s.getD d)
    needCore 1 s
    let q := s.getQ b
    let s ← multicastOp (issuerOf s) e.toNat b.toNat q (tensorAt s.th q.tid) (s.getD c + imm32 i).toNat slots s
    .ok (s.advance 12))

/-! ### Walks (R301, R302) -/

/-- A walk record as read (R301). -/
structure WalkRecord where
  step : List Int
  count : Nat
  writesBack : Bool
  tid : Nat
  region : Region

/-- The record's region words with the record's TID and TV = 1 (R301). -/
def walkSlot (tid : Nat) (ws : List Word) : List Word :=
  let h := (ws.getD 0 0).toNat
  BitVec.ofNat 64 (h - bits h 11 11 * 2048 - bits h 21 16 * 65536 + 2048 + 65536 * tid) :: ws.drop 1

/-- A record that keeps its layout (R301). -/
def parseWalk (bs : List Byte) : Option WalkRecord :=
  let field (o n : Nat) : Nat := natOfBytes ((bs.drop o).take n)
  let tid := field 13 1
  let ws := walkSlot (tid % 64) (wordsOf64 ((bs.drop 64).take 320))
  let q := regionOfSlot ws
  let step := s16Fields (BitVec.ofNat 64 (field 0 8))
  if field 8 4 = 0 ∨ 1 < field 12 1 ∨ 64 ≤ tid ∨ field 14 50 ≠ 0 ∨ !slotOk ws ∨ (step.drop q.rank).any (· ≠ 0) then none
  else some ⟨step.take q.rank, field 8 4, field 12 1 = 1, tid, q⟩

/-- A cell moved by a multiple of the step. -/
def moveCell (step : List Int) (k : Nat) (c : List Int) : List Int := (c.zip step).map fun x => x.1 + k * x.2

/-- The boxes of a step. -/
def moveBoxes (step : List Int) (k : Nat) (bs : List Box) : List Box :=
  bs.map fun b => (b.zip step).map fun x => { x.1 with lo := x.1.lo + k * x.2, hi := x.1.hi + k * x.2 }

/-- A walk issued (R301): the checks in their order, the steps with places relative to the slot, and the handle held. A cell at a negative
offset of the slot, and a cell of the stored boxes that its length leaves out, count for the check of the slot's size; the rule says
neither [DESIGN CHOICE, log 92]. -/
def walkOp (i : Issuer) (ctx h need : Nat) (tensors : Nat → Option Tensor) (at' : Nat) (s : State) : Run State := do
  let ent ← handleEntryAt i.tile h need i.task s
  needAligned at' 16
  needBound i.part at' 384
  let k := scratchKey i.part at'
  if scratchPoisoned s k 384 then .error (.endTask statusPoison)
  match parseWalk (scratchBytes s k 384) with
  | none => .error (.trap clsEngine 0x11 (BitVec.ofNat 64 at'))
  | some r =>
    let d ← regionChecks 0x10 r.region (tensors r.tid) true r.writesBack
    extentCheck d r.region.boxes
    extentCheck d (moveBoxes r.step (r.count - 1) r.region.boxes)
    let m : List Int := (List.range r.region.rank).map fun j =>
      (r.region.boxes.map fun b => ((b[j]?).getD ⟨0, 0, 0⟩).lo).foldl (fun a x => if x < a then x else a)
        ((((r.region.boxes.headD [])[j]?).getD ⟨0, 0, 0⟩).lo)
    let rel (c : List Int) : Int := d.off ((c.zip m).map fun x => x.1 - x.2)
    let z := d.size
    let cells := cellsInOrder r.region.rank r.region.cells
    require (cells.all fun c => 0 ≤ rel c && rel c + z ≤ 16 * ent.ssize) clsEngine 0x13
    require (if r.writesBack then ent.consumer.isNone else ent.producer.isNone) clsEngine 0x14
    needRoom i.tile ctx s
    let firsts := (heads r.region.cells).flatMap fun c =>
      (List.range r.count).map fun (k : Nat) => c + k * r.step.headD 0
    let cs := tableCoords r.region d firsts.eraseDups
    let steps := (List.range r.count).map fun n => cells.filterMap fun c =>
      let c' := moveCell r.step n c
      let g := Loc.glob (d.addr c')
      let p := Loc.scr (rel c).toNat
      lenCell r.region cs 0 c' [if r.writesBack then (⟨p, z, g, z⟩ : Elem) else ⟨g, z, p, z⟩]
    let num := (engCtx s i.tile ctx).issued + 1
    let (o, s) ← planCells (i.op ctx (.walk h r.writesBack need [] []) [] []) (tableEntries d cs) steps s
    .ok (enterOp { o with marks := [] }
      (onHandle (64 * i.tile + h) fun e =>
        if r.writesBack then { e with consumer := some (ctx, num) } else { e with producer := some (ctx, num) }) s)

/-- `tw.walk` (R301). -/
def execTwWalk (e : EReg) (b : DReg) (h : HReg) (n : BitVec 4) (s : State) : Host.Outcome State Fault Refusal :=
  finishRun s (do
    needCore 1 s
    let s ← walkOp (issuerOf s) e.toNat h.toNat n.toNat (tensorAt s.th) (s.getD b).toNat s
    .ok (s.advance 12))

/-- A walk claims the slot of its next step: the row WALK_SLOT_CLAIM (R302). None where it must wait. -/
def claimSlot (o : EngOp) (s : State) : Option State :=
  match o.kind with
  | .walk h wb need (step :: steps) claimed =>
    match lookup (64 * o.tile + h) s.eng.handles with
    | none => none
    | some e =>
      let slot := if wb then e.cons else e.prod
      let have' := if wb then e.full else e.free
      if o.halt.isSome || o.status.any (· ≠ 3) || have' < max need 1 || !slotsAre e [slot] (if wb then .full else .free) then none
      else match contextOf s e.holder e.task with
        | none => none
        | some t =>
          let base := scratchKey t (e.base + 16 * e.ssize * slot)
          let js := granuleJobs (step.map (placeInSlot base))
          let next := (slot + 1) % e.slots.length
          let s := onHandle (64 * o.tile + h) (fun e =>
            let e := e.put [slot] (if wb then .draining else .filling)
            if wb then { e with cons := next } else { e with prod := next }) s
          let x := settle { o with kind := .walk h wb 1 steps (claimed ++ [(slot, js)]) } s
          some (putOp x.1 x.2)
  | _ => none

/-! ### Timelines (R288, R44) -/

/-- The level of a context's timeline wait (R284). -/
def timelineLevel (ctx : Nat) : Nat := if ctx = 6 ∨ ctx = 7 then 6 else if 8 ≤ ctx ∧ ctx < 12 then 1 else 5

/-- What a covered timeline reports to a thread once: the status and the number, with Covered moved on and the effects
acquired. A report of ACHK ends a stream's halt (R288, R328). -/
def reportTimeline (ctx n : Nat) (s : State) : Option (Nat × Nat × Nat) × State :=
  let tile := tileOfCore (coreOf s.th.num)
  let c := engCtx s tile ctx
  let covered := (s.th.covered[ctx]?).getD 0
  let hit := c.abn ≠ 0 && c.abn ≤ n && covered < c.abn
  let s := { s with th := { s.th with covered := s.th.covered.setIfInBounds ctx (max covered n) } }
  let s := acquire (timelineLevel ctx) s
  if hit then
    (some (c.abnStatus, c.abn, c.abnAddr),
      if c.abnStatus = 7 then onCtx tile ctx (fun c => { c with halted := false }) s else s)
  else (none, s)

/-- `tlw` (R288). A trap it takes comes after its acquire (R340). -/
def timelineWait (len : Nat) (e : EReg) (b : DReg) (dst : Option DReg) (s : State) : Run State := do
  let n := (s.getD b).toNat
  let tile := tileOfCore (coreOf s.th.num)
  if !isCompleted s tile e.toNat n then .error (if waitsForOwn s tile e.toNat n then .wait else .block)
  let (r, s) := reportTimeline e.toNat n s
  match r, dst with
  | some (2, a, _), _ => .ok (takeTrap clsTopcode 2 (BitVec.ofNat 64 a) s)
  | some (st, _, _), some d => .ok ((s.setD d (BitVec.ofNat 64 st)).advance len)
  | none, some d => .ok ((s.setD d 0).advance len)
  | some (7, _, addr), none => .ok (takeTrap clsAchk (e.toNat - 8) (BitVec.ofNat 64 addr) s)
  | some (st, a, _), none => .ok (takeTrap clsEngine st (BitVec.ofNat 64 a) s)
  | none, none => .ok (s.advance len)

/-- `tlw` (R288). -/
def execTlw (e : EReg) (b : DReg) (s : State) : Host.Outcome State Fault Refusal := finishRun s (timelineWait 4 e b none s)

/-- `tlw` in the X form (R288). -/
def execTlwX (e : EReg) (b d : DReg) (s : State) : Host.Outcome State Fault Refusal :=
  finishRun s (timelineWait 12 e b (some d) s)

/-- `tlrd` (R44, R288). -/
def execTlrd (a : DReg) (e : EReg) (s : State) : Host.Outcome State Fault Refusal :=
  finishRun s (.ok ((s.setD a (BitVec.ofNat 64 (engCtx s (tileOfCore (coreOf s.th.num)) e.toNat).issued)).advance 4))

/-! ### Handles (R297 to R300) -/

/-- HANDLE STATE on a handle. -/
def handleState (ok : Bool) (h : HReg) : Run Unit := require ok clsHandle 3 (BitVec.ofNat 64 h.toNat)

/-- Whether a thread of the task may hold the slots of a handle that the thread in focus defines: itself, or a thread of
its triad (R297). -/
def mayHold (s : State) (t : Thread) : Bool :=
  t.num = s.th.num ||
    (t.taskid = s.th.taskid && match s.taskOf s.th with
      | some k => (match lookup k.card s.cards with | some c => c.flags / 4 % 2 = 1 | none => false)
      | none => false)

/-- `hdef` (R297). -/
def execHdef (h : HReg) (a : DReg) (s : State) : Host.Outcome State Fault Refusal :=
  finishRun s (do
    let v := (s.getD a).toNat
    let ssize := bits v 47 32
    let n := bits v 55 52 + 1
    let base := bits v 31 0
    let tile := tileOfCore (coreOf s.th.num)
    let num := 16 * tile + 4 * bits v 57 56 + bits v 59 58
    require (bits v 63 60 = 0 && bits v 51 48 = 0 && ssize ≠ 0) clsIll illValue
    handleState (lookup (64 * tile + h.toNat) s.eng.handles).isNone h
    let t ← match s.thread? num with
      | some t => if mayHold s t then .ok t else .error (.trap clsHandle 2 (BitVec.ofNat 64 h.toNat))
      | none => .error (.trap clsHandle 2 (BitVec.ofNat 64 h.toNat))
    needAligned base 16
    require (base + 16 * ssize * n ≤ t.spsize.toNat) clsScratch 0 (BitVec.ofNat 64 base)
    let e : HandleEnt :=
      { task := s.th.taskid, holder := num, ssize := ssize, base := base, slots := List.replicate n .free }
    .ok ((s.onEng fun g => { g with handles := insert (64 * tile + h.toNat) e g.handles }).advance 4))

/-- `hfree` (R300). -/
def execHfree (h : HReg) (s : State) : Host.Outcome State Fault Refusal :=
  finishRun s (do
    let e ← handleEntry h.toNat 0 s
    handleState (e.producer.isNone && e.consumer.isNone) h
    .ok ((s.onEng fun g => { g with handles := remove (handleKey s.th h.toNat) g.handles }).advance 4))

/-- `hwait` (R300). -/
def execHwait (h : HReg) (n : BitVec 4) (s : State) : Host.Outcome State Fault Refusal :=
  finishRun s ((waitHandle true (some (h, n)) s).map fun s => s.advance 4)

/-- The code of a slot's state (R299). -/
def SlotState.code : SlotState → Nat | .free => 0 | .filling => 1 | .full => 2 | .draining => 3

/-- The state word of an entry (R299). -/
def HandleEnt.word (e : HandleEnt) : Word :=
  BitVec.ofNat 64 (e.free + 256 * e.full + 65536 * (e.slots.length - 1) + 1048576 * e.prod + 16777216 * e.cons
    + 268435456 * e.fail + ((e.slots.zip (List.range e.slots.length)).map fun x => x.1.code * 2 ^ (32 + 2 * x.2)).foldl (· + ·) 0)

/-- `hstat` (R299). -/
def execHstat (a : DReg) (h : HReg) (s : State) : Host.Outcome State Fault Refusal :=
  finishRun s ((handleEntry h.toNat 0 s).map fun e => (s.setD a e.word).advance 4)

/-- `adv.c` (R300). -/
def execAdvC (h : HReg) (n : BitVec 4) (s : State) : Host.Outcome State Fault Refusal :=
  finishRun s (do
    let e ← handleEntry h.toNat n.toNat s
    let is := ringSlots e e.cons n.toNat
    handleState (e.consumer.isNone && slotsAre e is .full) h
    .ok ((onHandle (handleKey s.th h.toNat) (fun e =>
      { e.put is .free with cons := (e.cons + n.toNat) % e.slots.length }) s).advance 4))

/-- `adv.p` (R300): it releases at tile scope before it marks the slots full. -/
def execAdvP (h : HReg) (n : BitVec 4) (s : State) : Host.Outcome State Fault Refusal :=
  finishRun s (do
    let e ← handleEntry h.toNat n.toNat s
    let is := ringSlots e e.prod n.toNat
    handleState (e.producer.isNone && slotsAre e is .free) h
    let s ← releaseAt (scopeLevel .tile) s
    .ok ((onHandle (handleKey s.th h.toNat) (fun e =>
      { e.put is .full with prod := (e.prod + n.toNat) % e.slots.length }) s).advance 4))

/-! ### Waits and protections (R303, R304) -/

/-- `rwait` (R303, R312): the images of a region of the thread lie at its tensor's IMG, aligned even where the region is empty. -/
def execRwait (a : QReg) (s : State) : Host.Outcome State Fault Refusal :=
  finishRun s (do
    let q := s.getQ a
    let d ← regionChecks a.toNat q (tensorAt s.th q.tid) true true
    extentCheck d q.boxes
    require (d.img % d.size = 0) clsAlign 0 (BitVec.ofNat 64 d.img)
    imageChecks d q d.img [s.th]
    let (lens, s) ← ownLens q d s
    let keys := (countedCells q lens).map fun c => scratchKey s.th ((d.img : Int) + d.off c).toNat
    if keys.all fun k => (granulesOf k d.size).all fun g => isFull s g then .ok ((acquire (scopeLevel .tile) s).advance 4)
    else waitKeeping lens s)

/-- `rprot` (R304): the counts, the caches, the protection. -/
def execRprot (a : QReg) (mode : BitVec 5) (s : State) : Host.Outcome State Fault Refusal :=
  finishRun s (do
    let q := s.getQ a
    let d ← regionChecks a.toNat q (tensorAt s.th q.tid) true true
    extentCheck d q.boxes
    let (lens, s) ← ownLens q d s
    if s.th.cntRemote ≠ 0 ∨ s.th.cntGlobal ≠ 0 ∨ s.th.cntDevice ≠ 0 then waitKeeping lens s
    let ranges := (countedCells q lens).map fun c => (d.addr c, d.size)
    let lines := (ranges.map fun r => r.1 / 128).eraseDups
    let s ← match flushLines s.th.asid (fun va => lines.contains (va / 128)) s with
      | some s => .ok s
      | none => waitKeeping lens s
    let old := s.mem.prots.filter fun p => !(p.task = s.th.taskid && p.mode = mode.toNat)
    .ok ((s.onMem fun m => { m with prots :=
      if ranges.isEmpty then old else old ++ [⟨s.th.taskid, s.th.asid, mode.toNat, ranges⟩] }).advance 4))

/-! ### The converter (R305, R306, R296) -/

/-- The place of a cell of the converter. -/
def convertPlace (part : Thread) (d : Tensor) (c : List Int) : Loc :=
  if d.loc then .scr (scratchKey part ((d.base : Int) + d.off c).toNat) else .glob (d.addr c)

/-- The sources of a copy onto itself taken at issue (R296). One that cannot be had now, on another device or on a page that faults or
moves, is read before it is overwritten (`overwritten`) [DEDUCED, log 51]. -/
def captureAll (o : EngOp) (s : State) : EngOp × State :=
  let take (r : List Elem × State) (e : Elem) : List Elem × State :=
    match fetchLoc o e.src e.ssize r.2 with
    | .ok (.data d, s) => (r.1 ++ [{ e with src := .imm d.bytes d.poison d.refused }], s)
    | _ => (r.1 ++ [e], r.2)
  let r := o.jobs.foldl (fun (r : List Job × State) j => match j with
    | .granule es mark => let x := es.foldl take ([], r.2); (r.1 ++ [.granule x.1 mark], x.2)
    | j => (r.1 ++ [j], r.2)) ([], s)
  ({ o with jobs := r.1 }, r.2)

/-- A conversion of cells into cells (R305, R306): the checks, the pairing, and move semantics where the hulls of one space
meet (R296). -/
def convertOp (i : Issuer) (sat : Bool) (ctx : Nat) (cb cc : Nat) (b c : Region) (db dc : Option Tensor) (s : State) :
    Run State := do
  require (b.tv && db.any fun d => d.rank ≠ 0) clsRegionForm cb
  require (c.tv && dc.any fun d => d.rank ≠ 0) clsRegionForm cc
  require (!b.ovf) clsRegionOvf cb
  require (!c.ovf) clsRegionOvf cc
  let db ← regionChecks cb b db i.command true
  let dc ← regionChecks cc c dc i.command true
  extentCheck db b.boxes
  extentCheck dc c.boxes
  if db.loc then imageChecks db b db.base [i.part]
  if dc.loc then imageChecks dc c dc.base [i.part]
  needRoom i.tile ctx s
  let conv : Conv := { dt := db.format, st := dc.format, dscale := db.scale, sscale := dc.scale, sat := sat
                       copy := db.format = dc.format && db.scale = dc.scale }
  let bt := tableCoords b db (heads b.cells)
  let ct := tableCoords c dc (heads c.cells)
  let elem (l k : Loc) : List Elem := [⟨l, dc.size, k, db.size⟩]
  let ds := (cellsInOrder b.rank b.cells).filterMap fun x => let l := convertPlace i.part db x; lenCell b bt 0 x (elem l l)
  let ss := (cellsInOrder c.rank c.cells).filterMap fun x => let l := convertPlace i.part dc x; lenCell c ct bt.length x (elem l (.out 0))
  let (o, s) ← planCells (i.op ctx (.transfer (some conv)) [] []) (tableEntries db bt ++ tableEntries dc ct) [ds, ss] s
  let (o, s) := if hullsMeet (o.jobs.flatMap fun j => match j with | .granule es _ => es | _ => []) then captureAll o s else (o, s)
  .ok (enterOp o id s)

/-- `cvt` and `cvt.sat` of the thread. -/
def convertWith (sat : Bool) (e : EReg) (b c : QReg) (s : State) : Run State := do
  needCore 2 s
  let x := s.getQ b
  let y := s.getQ c
  let s ← convertOp (issuerOf s) sat e.toNat b.toNat c.toNat x y (tensorAt s.th x.tid) (tensorAt s.th y.tid) s
  .ok (s.advance 4)

/-- `cvt` (R305). -/
def execCvt (e : EReg) (b c : QReg) (s : State) : Host.Outcome State Fault Refusal := finishRun s (convertWith false e b c s)

/-- `cvt.sat` (R305). -/
def execCvtSat (e : EReg) (b c : QReg) (s : State) : Host.Outcome State Fault Refusal := finishRun s (convertWith true e b c s)

/-! ### The collective engine (R307) -/

/-- A collective operation (R307): `op` 0 reduces to the root, 1 to every member, 2 broadcasts. Its engine reads the record. -/
def collectiveWith (len op : Nat) (e : EReg) (b c : DReg) (t : Ty) (s : State) : Run State := do
  let n := (s.getD c).toNat
  let va := (s.getD b).toNat
  require (n ≠ 0 && n < 4294967296) clsIll illValue
  require (va % 32 = 0) clsAlign 2 (s.getD b)
  let i := issuerOf s
  needRoom i.tile e.toNat s
  .ok ((enterOp (i.op e.toNat (.collective op 0 (tyCode t).toNat n 0 0 0 0) [.record va []] []) id s).advance len)

/-- `coll.red` (R307). -/
def execCollRed (e : EReg) (b c : DReg) (s : State) : Host.Outcome State Fault Refusal :=
  finishRun s (collectiveWith 4 0 e b c .f32 s)

/-- `coll.ar` (R307). -/
def execCollAr (e : EReg) (b c : DReg) (s : State) : Host.Outcome State Fault Refusal :=
  finishRun s (collectiveWith 4 1 e b c .f32 s)

/-- `coll.red` in the X form (R307). -/
def execCollRedX (e : EReg) (b c : DReg) (t : Ty) (s : State) : Host.Outcome State Fault Refusal :=
  finishRun s (collectiveWith 12 0 e b c t s)

/-- `coll.ar` in the X form (R307). -/
def execCollArX (e : EReg) (b c : DReg) (t : Ty) (s : State) : Host.Outcome State Fault Refusal :=
  finishRun s (collectiveWith 12 1 e b c t s)

/-- `coll.bc` (R307). -/
def execCollBc (e : EReg) (b c : DReg) (t : Ty) (s : State) : Host.Outcome State Fault Refusal :=
  finishRun s (collectiveWith 12 2 e b c t s)

/-! ### Checkpoint drain (R308, R309) -/

/-- `ckpt` (R308, R309, R312): the marks are set before the next instruction, and its engine reads the target record; without a cell there
is nothing to drain. -/
def execCkpt (e : EReg) (b : QReg) (c : DReg) (s : State) : Host.Outcome State Fault Refusal :=
  finishRun s (do
    let q := s.getQ b
    let va := (s.getD c).toNat
    let d ← regionChecks b.toNat q (tensorAt s.th q.tid) true true
    extentCheck d q.boxes
    require (va % 32 = 0) clsAlign 2 (s.getD c)
    let i := issuerOf s
    needRoom i.tile e.toNat s
    let z := d.size
    let cs := tableCoords q d (heads q.cells)
    let cells := (cellsInOrder q.rank q.cells).filterMap fun c => lenCell q cs 0 c [⟨.glob (d.addr c), z, .out 0, z⟩]
    let (o, s) ← planCells (i.op e.toNat (.drain 2 0 0 [] false) [.record va []] []) (tableEntries d cs) [cells] s
    let num := (engCtx s i.tile e.toNat).issued + 1
    let drained := (o.jobs.flatMap fun j => match j with
      | .granule es _ => es | .lengths _ ls => ls.flatten.flatMap LenCell.elems | _ => []).map Elem.source
    let marks := drained.eraseDups.map fun g => (⟨i.asid, g / 4, (i.tile, e.toNat, num)⟩ : DrainMark)
    .ok ((enterOp o (fun s => s.onMem fun m => { m with drains := m.drains ++ marks }) s).advance 4))

/-! ### The tensor table (R289 to R291) -/

/-- A descriptor's fields, when it is well formed (R289, R290). An empty entry has RANK = 0. -/
def parseTensor (bs : List Byte) : Option Tensor :=
  let field (k n : Nat) : Nat := natOfBytes ((bs.drop k).take n)
  let rank := field 1 1
  if rank = 0 then (if bs.all fun b => b = 0 then some {} else none)
  else
    let d : Tensor :=
      { format := field 0 1, rank := rank, scale := intOfBits 8 true (field 2 1), loc := field 3 1 = 1
        base := field 8 8, ext := (List.range 4).map fun j => field (16 + 4 * j) 4
        pitch := (List.range 4).map fun j => s32 (field (32 + 4 * j) 4)
        ltab := field 48 8, ltlen := field 56 4, img := field 4 4 }
    if 12 < d.format ∨ 4 < rank ∨ 1 < field 3 1 ∨ field 60 4 ≠ 0 then none
    else if !(List.range 4).all (fun j => if j < rank then 1 ≤ d.ext.getD j 0 else d.ext.getD j 0 = 1 ∧ d.pitch.getD j 1 = 0)
    then none
    else if d.base % d.size ≠ 0 ∨ d.img % d.size ≠ 0 ∨ !d.pitch.all (fun p => p % d.size = 0) then none
    else if (!d.loc ∧ 2 ^ 56 ≤ d.base) ∨ d.ltab % 8 ≠ 0 ∨ (d.ltab = 0 ∧ d.ltlen ≠ 0) then none
    else some d

/-- A descriptor as `tget` writes it, IMAGE holding the image origin (R291). -/
def Tensor.bytes (d : Tensor) : List Byte :=
  if d.rank = 0 then List.replicate 64 0
  else
    bytesOf 1 d.format ++ bytesOf 1 d.rank ++ bytesOf 1 (wrapBits 8 d.scale) ++ bytesOf 1 (if d.loc then 1 else 0)
      ++ bytesOf 4 d.img ++ bytesOf 8 d.base ++ ((List.range 4).flatMap fun j => bytesOf 4 (d.ext.getD j 0))
      ++ ((List.range 4).flatMap fun j => bytesOf 4 (wrapBits 32 (d.pitch.getD j 0)))
      ++ bytesOf 8 d.ltab ++ bytesOf 4 d.ltlen ++ bytesOf 4 0

/-- `tset` (R291). -/
def execTset (t : TReg) (b : DReg) (i : BitVec 32) (s : State) : Host.Outcome State Fault Refusal :=
  finishRun s (do
    let o := (s.getD b + imm32 i).toNat
    needAligned o 16
    needBound s.th o 64
    let bs ← readScratch o 64 s
    match parseTensor bs with
    | none => .error (.trap clsEngine 0x11 (BitVec.ofNat 64 o))
    | some d =>
      let ts := if d.rank = 0 then remove t.toNat s.th.tensors else insert t.toNat d s.th.tensors
      .ok ((s.setTensors ts).advance 12))

/-- `tget` (R291). -/
def execTget (t : TReg) (b : DReg) (i : BitVec 32) (s : State) : Host.Outcome State Fault Refusal :=
  finishRun s (do
    let o := (s.getD b + imm32 i).toNat
    needAligned o 16
    needBound s.th o 64
    .ok ((writeScratch o ((lookup t.toNat s.th.tensors).getD {}).bytes s).advance 12))

/-! ### Commands (R310, R331) -/

/-- A command posted: `n` bytes of record copied from the issuer's partition, counted in the remote-scratch class. -/
def postCommand (engine n : Nat) (a b : DReg) (target : Word) (s : State) : Run State := do
  let o := (s.getD b).toNat
  needAligned o 64
  needBound s.th o n
  let bs ← readScratch o n s
  let c : Command :=
    { sender := s.th.num, senderTask := s.th.taskid, scope := s.th.scopeid, asid := s.th.asid, engine := engine, cap := s.getD a
      target := target, record := bs, rm := s.th.fmode.toNat % 4, topinf := topinfOf s.th.fmode }
  let s := s.onEng fun e => { e with commands := e.commands ++ [c] }
  .ok ({ s with th := { s.th with cntRemote := s.th.cntRemote + 1 } }.advance 4)

/-- `wcmd` (R310). -/
def execWcmd (a b c : DReg) (s : State) : Host.Outcome State Fault Refusal :=
  finishRun s (postCommand 0 832 a b (s.getD c) s)

/-- `ccmd` (R310). -/
def execCcmd (a b : DReg) (s : State) : Host.Outcome State Fault Refusal := finishRun s (postCommand 1 832 a b 0 s)

/-- The tile a capability names. -/
def capTile (cap : Word) : Nat := bits cap.toNat 9 0

/-- The engine's first context and its context count, by engine number (R331). -/
def engineContexts (engine : Nat) : Nat × Nat := if engine = 0 then (0, 4) else if engine = 1 then (4, 2) else (8, 4)

/-- Whether a capability allows a context of its engine (R331). -/
def capAllows (s : State) (engine : Nat) (cap : Word) (ctx : Nat) : Bool :=
  bits cap.toNat 29 28 = engine && bits cap.toNat 39 36 = 0 && bits cap.toNat 31 30 = 0 && bits cap.toNat 27 10 = 0 &&
    s.eng.keys.any fun k => k.tile = capTile cap && k.engine = engine && k.key = bits cap.toNat 63 40 &&
      k.mask.testBit (ctx - (engineContexts engine).1)

/-- A refusal at the target, which no trap reports there. -/
def refuse {α : Type} : Run α := .error (.trap clsIll 0 0)

/-- The issuer that a command stands for at its target. -/
def Command.issuer (c : Command) (part : Thread) : Issuer :=
  { tile := capTile c.cap, part := part, asid := c.asid, task := c.senderTask, scope := c.scope, topinf := c.topinf, rm := c.rm
    command := true, doneWord := natOfBytes ((c.record.drop 16).take 8), addr := 0 }

/-- The region and the descriptor at places of a record, when they are well formed. -/
def recordRegion (bs : List Byte) (o : Nat) : Run Region :=
  let ws := wordsOf64 ((bs.drop o).take 320)
  if slotOk ws then .ok (regionOfSlot ws) else refuse
@[inherit_doc recordRegion] def recordTensor (bs : List Byte) (o : Nat) : Run Tensor :=
  match parseTensor ((bs.drop o).take 64) with | some d => .ok d | none => refuse

/-- The instructions that a command's record may hold (R310, R334), as far as an engine uses their fields: a product names
its type, none for s8, and whether it is sparse. Products of vector operands are not among them. -/
inductive CommandInstr where
  | transfer (inward : Bool) (e : EReg) (b : QReg) (off : BitVec 32)
  | multicast (e : EReg) (b : QReg) (off : BitVec 32)
  | walk (e : EReg) (h : HReg) (n : BitVec 4)
  | convert (sat : Bool) (e : EReg) (b c : QReg)
  | product (ty : Option Ty) (sparse : Bool) (z : ZReg) (md : BitVec 32) (st : Nat)
  | zero (z : ZReg) (st : Nat)
  | loadTile (z : ZReg) (off : BitVec 32) (st : Nat)
  | storeTile (z : ZReg) (off : BitVec 32) (st : Nat)
  deriving DecidableEq, Repr

/-- The instruction that a record's fields encode, from the same tables as the decoder; every bit outside its fields is
zero. -/
def commandOf (r : Raw) : Option CommandInstr :=
  let e : EReg := r.a.setWidth 4
  let z : ZReg := r.a.setWidth 3
  let q : QReg := r.b.setWidth 4
  let st := r.c.toNat
  let only (ok : Bool) (i : CommandInstr) : Option CommandInstr := if ok then some i else none
  let base : Raw := { len := r.len, maj := r.maj, min := r.min, a := r.a, b := r.b, c := r.c }
  let eOk : Bool := r.a.toNat < 4
  let stOk : Bool := r.a.toNat < 8 && st < 4
  match r.maj.toNat, r.len.toNat, r.min.toNat with
  | 36, 2, 0 => only (r = { base with w2 := r.w2 } && eOk && r.b.toNat < 16) (.transfer true e q r.w2)
  | 36, 2, 1 => only (r = { base with w2 := r.w2 } && eOk && r.b.toNat < 16) (.transfer false e q r.w2)
  | 36, 2, 2 =>
    only (r = { base with w1 := XE.word { d2 := r.xe.d2 }, w2 := r.w2 } && eOk && r.b.toNat < 16) (.multicast e q r.w2)
  | 36, 2, 3 =>
    only (r = { base with c := 0, w1 := XE.word { hnd := r.xe.hnd, need := r.xe.need } } && eOk) (.walk e r.xe.hnd r.xe.need)
  | 44, 0, m =>
    only (r = base && m < 2 && 4 ≤ r.a.toNat && r.a.toNat < 6 && r.b.toNat < 16 && r.c.toNat < 16)
      (.convert (m = 1) e q (r.c.setWidth 4))
  | 40, 2, m =>
    let x := r.xe
    let isSparse : Bool := m = 8 || m = 12
    let isTyped : Bool := m = 0 || m = 8
    let ok := r = { base with w1 := XE.word { d2 := x.d2, d3 := x.d3, type := if isTyped then x.type else 0, st := x.st }
                              w2 := if isSparse then r.w2 else 0 } && r.a.toNat < 8 && m % 4 = 0 && m < 16
    match (if isTyped then (tyOf x.type).map some else some none) with
    | some t => only (ok && t.all fun t => if isSparse then t.mmaSpOk else t.mmaOk) (.product t isSparse z r.w2 x.st.toNat)
    | none => none
  | 41, 2, 2 => only (r = { base with b := 0 } && stOk) (.zero z st)
  | 41, 2, 3 => only (r = { base with w := r.w, w2 := r.w2 } && stOk) (.loadTile z r.w2 st)
  | 41, 2, 4 => only (r = { base with w := r.w, w2 := r.w2 } && stOk) (.storeTile z r.w2 st)
  | _, _, _ => none

/-- The instruction of a record, in a form of so many words (R310). -/
def recordInstr (bs : List Byte) (words : Nat) : Run CommandInstr :=
  let ws := wordsOfBytes (bs.take 12)
  if (ws.drop words).all fun w => w = 0 then
    match commandOf (Raw.ofWords (ws.getD 0 0) (ws.getD 1 0) (ws.getD 2 0) 0 0) with
    | some i => .ok i
    | none => refuse
  else refuse

/-- The record's reserved bytes are zero and its completion word is aligned. -/
def recordOk (bs : List Byte) (zeros : List (Nat × Nat)) : Run Unit :=
  if zeros.all (fun z => ((bs.drop z.1).take z.2).all fun b => b = 0) && natOfBytes ((bs.drop 16).take 8) % 8 = 0 then .ok ()
  else refuse

/-- A command runs at the engine that receives it as its instruction would there; a check that fails refuses it (R310). -/
def acceptCommand (c : Command) (s : State) : Run State := do
  recordOk c.record [(12, 4), (48, 16)]
  let val (k : Nat) : Word := BitVec.ofNat 64 (natOfBytes ((c.record.drop (24 + 8 * k)).take 8))
  let i ← recordInstr c.record (if c.engine = 0 then 3 else 1)
  let need (ok : Bool) : Run Unit := if ok then .ok () else refuse
  if c.engine = 0 then
    let num := peerThread c.target
    need (num / 16 = capTile c.cap)
    let part ← match s.thread? num with | some t => .ok t | none => refuse
    let iss := c.issuer part
    match i with
    | .transfer inward e b off =>
      need (capAllows s 0 c.cap e.toNat)
      let q ← recordRegion c.record 64
      let d ← recordTensor c.record 704
      transferOp iss inward e.toNat b.toNat q (some d) (val 1 + imm32 off).toNat [part] s
    | .multicast e b off =>
      need (capAllows s 0 c.cap e.toNat)
      let q ← recordRegion c.record 64
      let d ← recordTensor c.record 704
      let slots ← multiTargets (coreOf part.num) (val 2)
      multicastOp iss e.toNat b.toNat q (some d) (val 1 + imm32 off).toNat slots s
    | .walk e h n =>
      need (capAllows s 0 c.cap e.toNat)
      let d ← recordTensor c.record 704
      walkOp iss e.toNat h.toNat n.toNat (fun _ => some d) (val 0).toNat s
    | _ => refuse
  else
    let convert (e : EReg) (b q : QReg) (sat : Bool) : Run State := do
      need (capAllows s 1 c.cap e.toNat)
      let x ← recordRegion c.record 64
      let y ← recordRegion c.record 384
      let dx ← recordTensor c.record 704
      let dy ← recordTensor c.record 768
      convertOp (c.issuer Thread.empty) sat e.toNat b.toNat q.toNat x y (some dx) (some dy) s
    match i with
    | .convert sat e b q => convert e b q sat
    | _ => refuse

/-- A command leaves its sender's count; a refused one sets the remote-error bit (R310). -/
def endCommand (c : Command) (refused : Bool) (s : State) : State :=
  s.onThreads (isContext c.sender c.senderTask) fun t =>
    { t with
      cntRemote := t.cntRemote - 1
      rerr := t.rerr || refused
      refused := if refused then t.refused + 1 else t.refused }

/-- A command accepted, refused, or still waiting for room (then none). -/
def settleCommand (c : Command) (r : Run State) (s : State) : Option State :=
  let gone (s : State) : State := s.onEng fun e => { e with commands := e.commands.erase c }
  match r with
  | .ok s' => some (endCommand c false (gone s'))
  | .error .block => none
  | .error .wait => none
  | .error _ => some (endCommand c true (gone s))

end Sys2Proof.Machine
end

