-- ==== Sys2Proof/Machine/Global.lean ====
section
/-! DEFINITION. The meanings of majors 0x2E and 0x2F (R255 to R263): global loads and stores, reservations, prefetch, the
counted wait, acquire and release, coherence objects, and atomics. -/

namespace Sys2Proof.Machine

/-! ### Accesses (R255 to R258) -/

/-- The address of a global access: D(B) + D(C) modulo 2⁶⁴ (R255). -/
def globalAddr (s : State) (b c : DReg) : Nat := (s.getD b + s.getD c).toNat

/-- ALIGN GLOBAL unless the address is a multiple of the size (R255). -/
def needGlobalAligned (va n : Nat) : Run Unit := require (va % n = 0) clsAlign 2 (BitVec.ofNat 64 va)

/-- What comes before an access issues (R255): its checks, its wait through the handle, its wait on W. -/
def beforeAccess (consumes : Bool) (w : WClass) (va n : Nat) (h : HNeed) (s : State) : Run State := do
  checkHandle h s
  needGlobalAligned va n
  let s ← waitHandle consumes h s
  waitClass w s
  .ok s

/-- `ldg` (R256). -/
def loadWith (len : Nat) (w : WClass) (t : IntTy) (a b c : DReg) (sc : Scope) (cp : CachePolicy) (h : HNeed) (s : State) :
    Run State := do
  let va := globalAddr s b c
  let s ← beforeAccess true w va (intSize t) h s
  let (x, s) ← loadGlobal (scopeLevel sc) cp va (intSize t) s
  .ok ((s.setD a (extend t x)).advance len)

/-- `stg` (R256). -/
def storeWith (len : Nat) (w : WClass) (t : IntTy) (a b c : DReg) (sc : Scope) (cp : CachePolicy) (h : HNeed) (s : State) :
    Run State := do
  let va := globalAddr s b c
  let s ← beforeAccess false w va (intSize t) h s
  let s ← storeGlobal (scopeLevel sc) cp va (intSize t) ((s.getD a).toNat % 2 ^ (8 * intSize t)) s
  .ok (s.advance len)

/-- `rsv` (R257). -/
def reserveWith (len : Nat) (w : WClass) (t : IntTy) (a b c : DReg) (sc : Scope) (h : HNeed) (s : State) : Run State := do
  let va := globalAddr s b c
  let s ← beforeAccess true w va (intSize t) h s
  let (x, s) ← reserve (scopeLevel sc) va (intSize t) s
  .ok ((s.setD a (extend t x)).advance len)

/-- `cmt` (R257): dA receives 0 where the store is made, else 1. -/
def commitWith (len : Nat) (w : WClass) (t : IntTy) (a b c : DReg) (sc : Scope) (h : HNeed) (s : State) : Run State := do
  let va := globalAddr s b c
  let s ← beforeAccess false w va (intSize t) h s
  let (ok, s) ← commit (scopeLevel sc) va (intSize t) ((s.getD a).toNat % 2 ^ (8 * intSize t)) s
  .ok ((s.setD a (if ok then 0 else 1)).advance len)

/-- `ldg` (R256): device scope. -/
def execLdg (w : WClass) (t : IntTy) (a b c : DReg) (s : State) : Host.Outcome State Fault Refusal :=
  finishRun s (loadWith 4 w t a b c .device .normal none s)

/-- `stg` (R256): device scope. -/
def execStg (w : WClass) (t : IntTy) (a b c : DReg) (s : State) : Host.Outcome State Fault Refusal :=
  finishRun s (storeWith 4 w t a b c .device .normal none s)

/-- `rsv` (R257): device scope. -/
def execRsv (w : WClass) (t : IntTy) (a b c : DReg) (s : State) : Host.Outcome State Fault Refusal :=
  finishRun s (reserveWith 4 w t a b c .device none s)

/-- `cmt` (R257): device scope. -/
def execCmt (w : WClass) (t : IntTy) (a b c : DReg) (s : State) : Host.Outcome State Fault Refusal :=
  finishRun s (commitWith 4 w t a b c .device none s)

/-- `ldg` in the X form (R256). -/
def execLdgX (w : WClass) (t : IntTy) (a b c : DReg) (sc : Scope) (cp : CachePolicy) (h : HNeed) (s : State) :
    Host.Outcome State Fault Refusal := finishRun s (loadWith 12 w t a b c sc cp h s)

/-- `stg` in the X form (R256). -/
def execStgX (w : WClass) (t : IntTy) (a b c : DReg) (sc : Scope) (cp : CachePolicy) (h : HNeed) (s : State) :
    Host.Outcome State Fault Refusal := finishRun s (storeWith 12 w t a b c sc cp h s)

/-- `rsv` in the X form (R257): the cache policy has no effect. -/
def execRsvX (w : WClass) (t : IntTy) (a b c : DReg) (sc : Scope) (_cp : CachePolicy) (h : HNeed) (s : State) :
    Host.Outcome State Fault Refusal := finishRun s (reserveWith 12 w t a b c sc h s)

/-- `cmt` in the X form (R257): the cache policy has no effect. -/
def execCmtX (w : WClass) (t : IntTy) (a b c : DReg) (sc : Scope) (_cp : CachePolicy) (h : HNeed) (s : State) :
    Host.Outcome State Fault Refusal := finishRun s (commitWith 12 w t a b c sc h s)

/-! ### Prefetch and the counted wait (R259, R260) -/

/-- `pref` (R259): the line is brought near; a line that cannot be brought, outside the lease or on a failed translation among
others, leaves the prefetch without effect. [DEDUCED, log 55] -/
def prefetchWith (len : Nat) (b c : DReg) (sc : Scope) (cp : CachePolicy) (s : State) : Run State :=
  let va := globalAddr s b c
  let brought : Run State := do
    checkAccess false va 1 s
    bringLine (scopeLevel sc) cp va s
  match brought with
  | .error (.endTask _) => .ok (s.advance len)
  | r => r.map fun s => s.advance len

/-- `pref` (R259): device scope. -/
def execPref (b c : DReg) (s : State) : Host.Outcome State Fault Refusal :=
  finishRun s (prefetchWith 4 b c .device .normal s)

/-- `pref` in the X form (R259). -/
def execPrefX (b c : DReg) (sc : Scope) (cp : CachePolicy) (s : State) : Host.Outcome State Fault Refusal :=
  finishRun s (prefetchWith 12 b c sc cp s)

/-- `wcnt` (R260): with W = 00 it waits on all three classes. -/
def countedWait (len : Nat) (w : WClass) (s : State) : Run State := do
  match w with
  | .none =>
    await (s.th.cntRemote = 0 && s.th.cntGlobal = 0 && s.th.cntDevice = 0)
    rejectScratch s.th
    rejectDevice s.th
  | w => waitClass w s
  .ok (s.advance len)

/-- `wcnt` (R260). -/
def execWcnt (w : WClass) (s : State) : Host.Outcome State Fault Refusal := finishRun s (countedWait 4 w s)

/-- `wcnt` in the X form (R255). -/
def execWcntX (w : WClass) (s : State) : Host.Outcome State Fault Refusal := finishRun s (countedWait 12 w s)

/-! ### Acquire, release and fence (R261, R208) -/

/-- The set that a name binds; SYNC UNBOUND or KIND otherwise (R206). -/
def boundSet (m : MReg) (s : State) : Run Nat :=
  match (s.th.getM m).bound with
  | .set id => .ok id
  | .unbound => .error (.trap clsSync 0 0)
  | .scope _ => .error (.trap clsSync 1 0)

/-- Whether a thread is a member of a set. -/
def isMember (id : Nat) (t : Thread) : Bool := t.live && t.names.toList.any fun n => n.member && n.bound = .set id

/-- The level of a release or acquire that takes in the thread in focus and the contexts of slots (R208). -/
def levelAmong (nums : List Nat) (s : State) : Nat :=
  match nums.foldl (fun l n => max l (commonLevel s.th.num n)) 1 with
  | 1 => 1 | 2 => 3 | 3 => 3 | _ => 5

/-- The level at which a set's release and acquire act: the lowest one common to the thread in focus and the members
(R208), as they were when the instruction issued (R264). -/
def setLevel (id : Nat) (s : State) : Nat :=
  if s.th.level ≠ 0 then s.th.level
  else levelAmong (((s.threads ++ s.parked).filter (isMember id)).map fun t => t.num) s

/-- A wait keeps the level with which the instruction issued; its end forgets it (R264). -/
def keepLevel (l : Nat) (r : Run State) : Run State :=
  let keep (s : State) (l : Nat) : State := { s with th := { s.th with level := l } }
  match r with
  | .error .wait => .error (.waitAfter fun s => keep s l)
  | .error (.waitAfter change) => .error (.waitAfter fun s => keep (change s) l)
  | .error (.waitIn s) => .error (.waitIn (keep s l))
  | r => r.map fun s => keep s 0

/-- The level a fence's operand names (R261). -/
def fenceLevel (f : FenceScope) (s : State) : Run Nat :=
  match f with
  | .level sc => .ok (scopeLevel sc)
  | .named m => (boundSet m s).map fun id => setLevel id s

/-- `acq`, `rel` and `fence` (R261). -/
def fenceWith (len : Nat) (releases acquires : Bool) (f : FenceScope) (s : State) : Run State := do
  let l ← fenceLevel f s
  let s ← if releases then keepLevel l (releaseAt l s) else .ok s
  .ok ((if acquires then acquire l s else s).advance len)

/-- `acq` (R261). -/
def execAcq (f : FenceScope) (s : State) : Host.Outcome State Fault Refusal := finishRun s (fenceWith 4 false true f s)

/-- `rel` (R261). -/
def execRel (f : FenceScope) (s : State) : Host.Outcome State Fault Refusal := finishRun s (fenceWith 4 true false f s)

/-- `fence` (R261). -/
def execFence (f : FenceScope) (s : State) : Host.Outcome State Fault Refusal := finishRun s (fenceWith 4 true true f s)

/-- `acq` in the X form (R255). -/
def execAcqX (f : FenceScope) (s : State) : Host.Outcome State Fault Refusal := finishRun s (fenceWith 12 false true f s)

/-- `rel` in the X form (R255). -/
def execRelX (f : FenceScope) (s : State) : Host.Outcome State Fault Refusal := finishRun s (fenceWith 12 true false f s)

/-- `fence` in the X form (R255). -/
def execFenceX (f : FenceScope) (s : State) : Host.Outcome State Fault Refusal := finishRun s (fenceWith 12 true true f s)

/-! ### Coherence objects (R253, R262, R263) -/

/-- An identifier from `lo` to `hi` that is not in use, where one is left. Which of them it is, the spec leaves open
[DESIGN CHOICE, log 4]. -/
def pickFree (lo hi : Nat) (isUsed : Nat → Bool) (s : State) : Option Nat :=
  let ids := ((List.range (hi + 1 - lo)).map fun i => lo + i).filter fun i => !isUsed i
  ids[Config.placement s.fresh % ids.length]?

/-- A shape record, when it keeps R253. -/
def parseObject (asid : Nat) (bs : List Byte) : Option ObjRec :=
  let field (k n : Nat) : Nat := natOfBytes ((bs.drop k).take n)
  let o : ObjRec :=
    { asid := asid, base := field 0 8, rowbytes := field 8 4, rows := field 12 4, pitch := field 16 8
      cls := field 24 1, owner := field 26 2 }
  let last := o.base + (o.rows - 1) * (if o.rows = 1 then 0 else o.pitch) + o.rowbytes
  if o.base % 128 = 0 && o.rowbytes % 128 = 0 && 128 ≤ o.rowbytes && 1 ≤ o.rows &&
      (o.rows = 1 || (o.pitch % 128 = 0 && o.rowbytes ≤ o.pitch)) && o.cls ≤ 3 && field 25 1 = 0 && field 28 4 = 0 &&
      (match o.cls with | 0 => o.owner < 4096 | 1 => o.owner < 32 | _ => o.owner = 0) && last ≤ 2 ^ 56 then some o
  else none

/-- Whether a row of one object meets a line that another covers; both are whole lines. -/
def ObjRec.meets (a b : ObjRec) : Bool :=
  a.asid = b.asid &&
    (List.range a.rows).any fun i =>
      let lo := a.base + i * a.pitch
      (List.range (a.rowbytes / 128)).any fun k => b.covers b.asid (lo + 128 * k)

/-- The copies of an object's range written back and invalidated, once the thread's counts are zero (R262). -/
def settleObject (o : ObjRec) (s : State) : Run State := do
  await (s.th.cntRemote = 0 && s.th.cntGlobal = 0 && s.th.cntDevice = 0)
  match flushLines o.asid (o.covers o.asid) s with
  | some s => .ok s
  | none => .error .block

/-- `objd` (R262); OBJ_FORM, OBJ_OVERLAP and OBJ_FULL are 14, 15 and 16 (R337). -/
def declareObject (len : Nat) (a b : DReg) (s : State) : Run State := do
  let va := (s.getD b).toNat
  needGlobalAligned va 32
  let (bs, s) ← (List.range 4).foldlM (fun (r : List Byte × State) i => do
    let (x, s) ← loadGlobal (scopeLevel .device) .normal (va + 8 * i) 8 r.2
    .ok (r.1 ++ bytesOf 8 x, s)) ([], s)
  let fail (n : Nat) : Run State := .ok ((s.setD a (BitVec.ofNat 64 (2 ^ 63 + n))).advance len)
  match parseObject s.th.asid bs with
  | none => fail 14
  | some o =>
    if s.mem.objects.any fun x => o.meets x.2 then fail 15
    else match pickFree 1 4095 (fun i => (lookup i s.mem.objects).isSome) s with
      | none => fail 16
      | some id =>
        let s ← settleObject o s
        let s := moveWatches o.asid (s.onMem fun m => { m with objects := insert id o m.objects })
        .ok ((s.setD a (BitVec.ofNat 64 id)).advance len)

/-- `objf` (R263). -/
def freeObject (len : Nat) (a : DReg) (s : State) : Run State :=
  let id := (s.getD a).toNat
  match lookup id s.mem.objects with
  | none => .ok (s.advance len)
  | some o => if o.asid ≠ s.th.asid then .ok (s.advance len)
    else do
      let s ← settleObject o s
      .ok ((moveWatches o.asid (s.onMem fun m => { m with objects := remove id m.objects })).advance len)

/-- `objd` (R262). -/
def execObjd (a b : DReg) (s : State) : Host.Outcome State Fault Refusal := finishRun s (declareObject 4 a b s)

/-- `objf` (R263). -/
def execObjf (a : DReg) (s : State) : Host.Outcome State Fault Refusal := finishRun s (freeObject 4 a s)

/-- `objd` in the X form (R255). -/
def execObjdX (a b : DReg) (s : State) : Host.Outcome State Fault Refusal := finishRun s (declareObject 12 a b s)

/-- `objf` in the X form (R255). -/
def execObjfX (a : DReg) (s : State) : Host.Outcome State Fault Refusal := finishRun s (freeObject 12 a s)

/-! ### Atomics (R258) -/

/-- The type of an atomic as an integer type; other types are not encoded. -/
def amoInt (t : Ty) : IntTy := match t with | .s64 => .s64 | .n32 => .n32 | .n64 => .n64 | _ => .s32

/-- The fabric code of an atomic's type (R399): s32, s64, n32, n64. -/
def amoCode (t : Ty) : Nat := match t with | .s64 => 1 | .n32 => 2 | .n64 => 3 | _ => 0

/-- An atomic (R258). With dA = d0 it is posted; at core scope it executes in the thread's own L1 at once, and its registration is
posted. -/
def atomicWith (op : Nat) (w : WClass) (t : Ty) (sc : Scope) (a b c d : DReg) (s : State) : Run State := do
  let va := globalAddr s b c
  let n := intSize (amoInt t)
  let s ← beforeAccess false w va n none s
  checkAccess true va n s
  let lvl := scopeLevel sc
  let v := (s.getD d).toNat % 2 ^ (8 * n)
  if a = 0 then
    if 1 < lvl then .ok ((post va n lvl (.amo op (amoCode t) (BitVec.ofNat 64 v)) s).advance 12)
    else (amoInL1 op va n v 0 s).map fun s => s.advance 12
  else
    let (x, s) ← amoNow lvl op (amoCode t) va n v ((s.getD a).toNat % 2 ^ (8 * n)) s
    .ok ((s.setD a (extend (amoInt t) x)).advance 12)

/-- `amo.add` (R258). -/
def execAmoAdd (w : WClass) (t : Ty) (sc : Scope) (a b c d : DReg) (s : State) : Host.Outcome State Fault Refusal :=
  finishRun s (atomicWith 0 w t sc a b c d s)

/-- `amo.min` (R258). -/
def execAmoMin (w : WClass) (t : Ty) (sc : Scope) (a b c d : DReg) (s : State) : Host.Outcome State Fault Refusal :=
  finishRun s (atomicWith 1 w t sc a b c d s)

/-- `amo.max` (R258). -/
def execAmoMax (w : WClass) (t : Ty) (sc : Scope) (a b c d : DReg) (s : State) : Host.Outcome State Fault Refusal :=
  finishRun s (atomicWith 2 w t sc a b c d s)

/-- `amo.minn` (R258). -/
def execAmoMinn (w : WClass) (t : Ty) (sc : Scope) (a b c d : DReg) (s : State) : Host.Outcome State Fault Refusal :=
  finishRun s (atomicWith 3 w t sc a b c d s)

/-- `amo.maxn` (R258). -/
def execAmoMaxn (w : WClass) (t : Ty) (sc : Scope) (a b c d : DReg) (s : State) : Host.Outcome State Fault Refusal :=
  finishRun s (atomicWith 4 w t sc a b c d s)

/-- `amo.and` (R258). -/
def execAmoAnd (w : WClass) (t : Ty) (sc : Scope) (a b c d : DReg) (s : State) : Host.Outcome State Fault Refusal :=
  finishRun s (atomicWith 5 w t sc a b c d s)

/-- `amo.or` (R258). -/
def execAmoOr (w : WClass) (t : Ty) (sc : Scope) (a b c d : DReg) (s : State) : Host.Outcome State Fault Refusal :=
  finishRun s (atomicWith 6 w t sc a b c d s)

/-- `amo.xor` (R258). -/
def execAmoXor (w : WClass) (t : Ty) (sc : Scope) (a b c d : DReg) (s : State) : Host.Outcome State Fault Refusal :=
  finishRun s (atomicWith 7 w t sc a b c d s)

/-- `amo.swap` (R258). -/
def execAmoSwap (w : WClass) (t : Ty) (sc : Scope) (a b c d : DReg) (s : State) : Host.Outcome State Fault Refusal :=
  finishRun s (atomicWith 8 w t sc a b c d s)

/-- `amo.cas` (R258). -/
def execAmoCas (w : WClass) (t : Ty) (sc : Scope) (a b c d : DReg) (s : State) : Host.Outcome State Fault Refusal :=
  finishRun s (atomicWith 9 w t sc a b c d s)

end Sys2Proof.Machine
end

