-- ==== Sys2Proof/Machine/Matrix.lean ====
section
/-! DEFINITION. The meanings of majors 0x28 to 0x2A (R314 to R334): the matrix unit's products, tile registers, stream state,
capabilities and commands. -/

namespace Sys2Proof.Machine

/-! ### Operand shapes (R320 to R323) -/

/-- A scratch operand (R321). -/
structure TileOperand where
  base : Nat
  rp : Nat
  tp : Nat
  rc : Nat
  deriving DecidableEq, Repr

/-- A scratch operand from its two registers; ILL VALUE for a reserved bit (R321). -/
def tileOperand (x y : Word) : Run TileOperand := do
  require (bits x.toNat 63 48 = 0) clsIll illValue
  require (bits y.toNat 63 35 = 0) clsIll illValue
  .ok ⟨bits x.toNat 31 0, bits x.toNat 47 32, bits y.toNat 31 0, bits y.toNat 34 32⟩

/-- RowStart (R322). -/
def TileOperand.row (x : TileOperand) (r : Nat) : Nat :=
  x.base + r / 8 * (if x.tp = 0 then 8 * x.rp else x.tp) + r % 8 * x.rp + 16 * (x.rc * r % 8)

/-- The alignment check of a scratch operand (R321). -/
def TileOperand.aligned (x : TileOperand) (size : Nat) : Run Unit :=
  require (x.base % size = 0 && x.rp % size = 0 && x.tp % size = 0) clsAlign 0 (BitVec.ofNat 64 x.base)

/-- The bound check: the first offending offset in order of rows and then of bytes (R322). -/
def TileOperand.bounded (x : TileOperand) (t : Thread) (rows n : Nat) : Run Unit :=
  (List.range rows).forM fun r =>
    let a := x.row r
    require (a + n ≤ t.spsize.toNat) clsScratch 0 (BitVec.ofNat 64 (max a t.spsize.toNat))

/-- Logical k and the A values in a row (R320). -/
def logicalK (ty : Nat) (sparse : Bool) : Nat × Nat :=
  if sparse then (32, 16)
  else if ty = 12 then (24, 24)
  else if ty = 9 ∨ ty = 10 then (4, 4)
  else if ty = 8 then (1, 1) else (16, 16)

/-- Where an operand comes from (R66, R323). -/
inductive OperandSource where
  | scratch (x : TileOperand)
  | vector (group : Nat)
  deriving DecidableEq, Repr

/-- An operand named by registers or by a vector group. -/
def operandSource (isVector : Bool) (reg : Nat) (x y : Word) : Run OperandSource :=
  if isVector then .ok (.vector reg) else (tileOperand x y).map .scratch

/-- The registers of a group that hold `n` bytes (R323). -/
def groupRegs (group n : Nat) : List VReg := (List.range ((n + 127) / 128)).map fun m => BitVec.ofNat 5 (group + m)

/-- The elements that operand bytes hold, row by row. -/
def operandElems (size : Nat) (at' : Nat → Nat → List Byte) (rows cols : Nat) : List Nat :=
  (List.range rows).flatMap fun r => (List.range cols).map fun c => natOfBytes (at' r (c * size))

/-- CheckMeta (R326): the first group that is not strictly ascending. -/
def metaCheck (i : Nat) (metas : List Nat) : Run Unit :=
  (metas.zip (List.range metas.length)).forM fun m =>
    (List.range 8).forM fun g =>
      require (bits m.1 (4 * g + 1) (4 * g) < bits m.1 (4 * g + 3) (4 * g + 2)) clsSparseMeta (8 * m.2 + g)
        (BitVec.ofNat 64 (i + 4 * m.2))

/-! ### Products (R324, R325) -/

/-- A product operation on stream `st` (R317, R324): the checks in the order of R325, the wait for room, the operands
read, the number taken. -/
def productOp (i : Issuer) (ty : Nat) (sparse : Bool) (z : Nat) (a b : OperandSource) (meta' : Nat) (st : Nat) (s : State) :
    Run State := do
  let t := i.part
  let reg := (t.z[z]?).getD {}
  let size := tySize (tyOfCode ty)
  let (kl, ka) := logicalK ty sparse
  let aRegs := match a with | .vector g => groupRegs g (reg.rows * ka * size) | _ => []
  let bRegs := match b with | .vector g => groupRegs g (((kl - 1) * 32 + reg.cols) * size) | _ => []
  let usA := streamUses t none aRegs
  let usB := (streamUses t none bRegs).filter fun u => !aRegs.contains u.reg
  match a with | .scratch x => x.aligned size | _ => .ok ()
  match b with | .scratch x => x.aligned size | _ => .ok ()
  if sparse then needAligned meta' 16
  match a with | .scratch x => x.bounded t reg.rows (ka * size) | _ => usA.forM fun u => u.bound t
  match b with | .scratch x => x.bounded t kl (reg.cols * size) | _ => usB.forM fun u => u.bound t
  if sparse then needBound t meta' (4 * reg.rows)
  (usA ++ usB).forM fun u => u.ends
  require (reg.f32 = decide (ty ≠ 0)) clsMatrix 0
  let key (o : Nat) : Nat := scratchKey t o
  let metas := if sparse then (List.range reg.rows).map fun r => scratchNat s (key (meta' + 4 * r)) 4 else []
  metaCheck meta' metas
  needRoom i.tile (8 + st) s
  let size' := size * (reg.rows * ka + kl * reg.cols) + if sparse then 4 * reg.rows else 0
  if !i.command then needFlits i.tile ((size' + 127) / 128) s
  waitPops (usA ++ usB) s
  poisonPops (usA ++ usB) s
  let poisoned (x : OperandSource) (rows n : Nat) : Bool := match x with
    | .scratch x => (List.range rows).any fun r => scratchPoisoned s (key (x.row r)) n
    | _ => false
  if poisoned a reg.rows (ka * size) || poisoned b kl (reg.cols * size) ||
      (sparse && scratchPoisoned s (key meta') (4 * reg.rows)) then .error (.endTask statusPoison)
  let vecs (rs : List VReg) : List Byte := rs.flatMap fun r => bytesOfLanes (readVec s r)
  let fromVec (bs : List Byte) (pitch : Nat) (r o : Nat) : List Byte := (bs.drop (r * pitch + o)).take size
  let fromScr (x : TileOperand) (r o : Nat) : List Byte := scratchBytes s (key (x.row r + o)) size
  let as := match a with
    | .vector _ => operandElems size (fromVec (vecs aRegs) (ka * size)) reg.rows ka
    | .scratch x => operandElems size (fromScr x) reg.rows ka
  let bs := match b with
    | .vector _ => operandElems size (fromVec (vecs bRegs) (32 * size)) kl reg.cols
    | .scratch x => operandElems size (fromScr x) kl reg.cols
  .ok (enterOp (i.op (8 + st) (.stream (.product ty sparse as bs metas) z reg.rows reg.cols)
    ((List.range (reg.rows * reg.cols)).map .tile) []) id (takePops (usA ++ usB) s))

/-- A product of the thread (R324): ILL FEATURE and the register values first. -/
def productWith (ty : Nat) (sparse : Bool) (z : ZReg) (va vb : Bool) (b c d2 d3 : BitVec 5) (md : BitVec 32) (st : BitVec 2)
    (s : State) : Run State := do
  needMatrix s
  let x ← operandSource va b.toNat (s.getD b) (s.getD c)
  let y ← operandSource vb d2.toNat (s.getD d2) (s.getD d3)
  let s ← productOp (issuerOf s) ty sparse z.toNat x y md.toNat st.toNat s
  .ok (s.advance 12)

/-- `mma` (R324). -/
def execMma (z : ZReg) (va vb : Bool) (b c d2 d3 : BitVec 5) (t : Ty) (st : BitVec 2) (s : State) :
    Host.Outcome State Fault Refusal :=
  finishRun s (productWith (tyCode t).toNat false z va vb b c d2 d3 0 st s)

/-- `mmi` (R324). -/
def execMmi (z : ZReg) (va vb : Bool) (b c d2 d3 : BitVec 5) (st : BitVec 2) (s : State) :
    Host.Outcome State Fault Refusal :=
  finishRun s (productWith 0 false z va vb b c d2 d3 0 st s)

/-- `mma.sp` (R324, R326). -/
def execMmaSp (z : ZReg) (va vb : Bool) (b c d2 d3 : BitVec 5) (t : Ty) (md : BitVec 32) (st : BitVec 2) (s : State) :
    Host.Outcome State Fault Refusal :=
  finishRun s (productWith (tyCode t).toNat true z va vb b c d2 d3 md st s)

/-- `mmi.sp` (R324, R326). -/
def execMmiSp (z : ZReg) (va vb : Bool) (b c d2 d3 : BitVec 5) (md : BitVec 32) (st : BitVec 2) (s : State) :
    Host.Outcome State Fault Refusal :=
  finishRun s (productWith 0 true z va vb b c d2 d3 md st s)

/-! ### Tile registers (R315, R316, R329) -/

/-- Whether an operation in flight, the thread's or one accepted from a command, names a tile register of the thread. -/
def namesTile (s : State) (z : ZReg) : Bool :=
  s.eng.ops.any fun o => o.thread = s.th.num && o.home = s.th.taskid && match o.kind with
    | .stream _ y _ _ => y = z.toNat
    | _ => false

/-- `zcfg` and `zcfg.keep` (R315). -/
def configTile (len : Nat) (keep : Bool) (z : ZReg) (b : DReg) (s : State) : Run State := do
  needMatrix s
  let v := (s.getD b).toNat
  let nr := bits v 5 0
  let nc := bits v 13 8
  let ty := bits v 19 16
  require (v / 1048576 = 0 && bits v 15 14 = 0 && bits v 7 6 = 0 && 1 ≤ nr && nr ≤ 32 && 1 ≤ nc && nc ≤ 32 &&
    (ty = 2 || ty = 8)) clsIll illValue
  blockUntil (!namesTile s z)
  let r : TileReg := { rows := nr, cols := nc, f32 := ty = 8, words := if keep then (s.th.getZ z).words else [] }
  .ok ({ s with th := s.th.setZ z r }.advance len)

/-- `zcfg` (R315). -/
def execZcfg (z : ZReg) (b : DReg) (s : State) : Host.Outcome State Fault Refusal := finishRun s (configTile 4 false z b s)

/-- `zcfg.keep` (R315). -/
def execZcfgKeep (z : ZReg) (b : DReg) (s : State) : Host.Outcome State Fault Refusal := finishRun s (configTile 4 true z b s)

/-- `zcfg` in the X form (R315). -/
def execZcfgX (z : ZReg) (b : DReg) (s : State) : Host.Outcome State Fault Refusal := finishRun s (configTile 12 false z b s)

/-- `zcfg.keep` in the X form (R315). -/
def execZcfgKeepX (z : ZReg) (b : DReg) (s : State) : Host.Outcome State Fault Refusal :=
  finishRun s (configTile 12 true z b s)

/-- `zzero` as an operation (R329). -/
def zeroOp (i : Issuer) (z st : Nat) (s : State) : Run State := do
  needRoom i.tile (8 + st) s
  let reg := (i.part.z[z]?).getD {}
  .ok (enterOp (i.op (8 + st) (.stream .zero z reg.rows reg.cols) ((List.range 1024).map .tile) []) id s)

/-- `zld` as an operation (R329): the bytes are read at issue. -/
def loadTileOp (i : Issuer) (z o st : Nat) (s : State) : Run State := do
  let reg := (i.part.z[z]?).getD {}
  let n := reg.rows * reg.cols
  needAligned o 16
  needBound i.part o (4 * n)
  needRoom i.tile (8 + st) s
  if !i.command then needFlits i.tile ((4 * n + 127) / 128) s
  let k := scratchKey i.part o
  if scratchPoisoned s k (4 * n) then .error (.endTask statusPoison)
  let ws := (List.range n).map fun w => BitVec.ofNat 32 (scratchNat s (k + 4 * w) 4)
  .ok (enterOp (i.op (8 + st) (.stream (.load ws) z reg.rows reg.cols) ((List.range n).map .tile) []) id s)

/-- `zst` as an operation (R329, R319): its granules' full bits are cleared when it issues. -/
def storeTileOp (i : Issuer) (z o st : Nat) (s : State) : Run State := do
  let reg := (i.part.z[z]?).getD {}
  let n := reg.rows * reg.cols
  needAligned o 16
  needBound i.part o (4 * n)
  needRoom i.tile (8 + st) s
  let k := scratchKey i.part o
  let elems := (List.range n).map fun w => (⟨.tileWord z w, 4, .scr (k + 4 * w), 4⟩ : Elem)
  .ok (enterOp (i.op (8 + st) (.stream .store z reg.rows reg.cols) (granuleJobs elems) (scratchMarks elems)) id s)

/-- A stream operation of the thread, after its feature check. -/
def streamWith (len : Nat) (op : Issuer → State → Run State) (s : State) : Run State := do
  needMatrix s
  let s ← op (issuerOf s) s
  .ok (s.advance len)

/-- A tile load or store of the thread: the checks, W, the operation. -/
def moveTile (len : Nat) (w : WClass) (o : Nat) (n : Nat) (op : Issuer → State → Run State) (s : State) : Run State := do
  needMatrix s
  needAligned o 16
  needBound s.th o n
  waitClass w s
  let s ← op (issuerOf s) s
  .ok (s.advance len)

/-- Bytes of a tile register's elements. -/
def TileReg.bytes (z : TileReg) : Nat := 4 * (z.rows * z.cols)

/-- `zzero` (R329). -/
def execZzero (z : ZReg) (st : BitVec 5) (s : State) : Host.Outcome State Fault Refusal :=
  finishRun s (streamWith 4 (fun i s => zeroOp i z.toNat st.toNat s) s)

/-- `zzero` in the X form (R329). -/
def execZzeroX (z : ZReg) (st : BitVec 5) (s : State) : Host.Outcome State Fault Refusal :=
  finishRun s (streamWith 12 (fun i s => zeroOp i z.toNat st.toNat s) s)

/-- `zld` (R329). -/
def execZld (w : WClass) (z : ZReg) (b : DReg) (st : BitVec 5) (s : State) : Host.Outcome State Fault Refusal :=
  let o := (s.getD b).toNat
  finishRun s (moveTile 4 w o (s.th.getZ z).bytes (fun i s => loadTileOp i z.toNat o st.toNat s) s)

/-- `zst` (R329). -/
def execZst (w : WClass) (z : ZReg) (b : DReg) (st : BitVec 5) (s : State) : Host.Outcome State Fault Refusal :=
  let o := (s.getD b).toNat
  finishRun s (moveTile 4 w o (s.th.getZ z).bytes (fun i s => storeTileOp i z.toNat o st.toNat s) s)

/-- `zld` in the X form (R329). -/
def execZldX (w : WClass) (z : ZReg) (b : DReg) (i : BitVec 32) (st : BitVec 5) (s : State) :
    Host.Outcome State Fault Refusal :=
  let o := (s.getD b + imm32 i).toNat
  finishRun s (moveTile 12 w o (s.th.getZ z).bytes (fun i s => loadTileOp i z.toNat o st.toNat s) s)

/-- `zst` in the X form (R329). -/
def execZstX (w : WClass) (z : ZReg) (b : DReg) (i : BitVec 32) (st : BitVec 5) (s : State) :
    Host.Outcome State Fault Refusal :=
  let o := (s.getD b + imm32 i).toNat
  finishRun s (moveTile 12 w o (s.th.getZ z).bytes (fun i s => storeTileOp i z.toNat o st.toNat s) s)

/-- `zmov` (R316). -/
def copyTile (len : Nat) (z y : ZReg) (s : State) : Run State := do
  needMatrix s
  blockUntil (!namesTile s z && !namesTile s y)
  .ok ({ s with th := s.th.setZ z (s.th.getZ y) }.advance len)

/-- `zmov` (R316). -/
def execZmov (z y : ZReg) (s : State) : Host.Outcome State Fault Refusal := finishRun s (copyTile 4 z y s)

/-- `zmov` in the X form (R423). -/
def execZmovX (z y : ZReg) (s : State) : Host.Outcome State Fault Refusal := finishRun s (copyTile 12 z y s)

/-! ### Stream state (R330) -/

/-- `mstat` (R330): it covers the operations issued when it first issued. -/
def streamState (len : Nat) (a : DReg) (st : BitVec 5) (s : State) : Run State := do
  needMatrix s
  let tile := tileOfCore (coreOf s.th.num)
  let ctx := 8 + st.toNat
  let n := if s.th.micro = 1 then s.th.awaits else (engCtx s tile ctx).issued
  if !isCompleted s tile ctx n then
    .error (if s.th.inHandler && !waitsForOwn s tile ctx n then .block else .waitIn { s with th := { s.th with micro := 1, awaits := n } })
  let (r, s) := reportTimeline ctx n { s with th := { s.th with micro := 0 } }
  match r with
  | some (2, x, _) => .ok (takeTrap clsTopcode 2 (BitVec.ofNat 64 x) s)
  | some (7, _, addr) => .ok (takeTrap clsAchk st.toNat (BitVec.ofNat 64 addr) s)
  | _ =>
    let rec' := (lookup tile s.eng.tiles).getD {}
    let stat := match r with | some (x, _, _) => x | none => 0
    .ok ((s.setD a (BitVec.ofNat 64 (4294967296 * n + 268435456 * stat + 65536 * rec'.health + rec'.retry))).advance len)

/-- `mstat` (R330). -/
def execMstat (a : DReg) (st : BitVec 5) (s : State) : Host.Outcome State Fault Refusal := finishRun s (streamState 4 a st s)

/-- `mstat` in the X form (R423). -/
def execMstatX (a : DReg) (st : BitVec 5) (s : State) : Host.Outcome State Fault Refusal := finishRun s (streamState 12 a st s)

/-! ### Capabilities and commands (R331 to R334) -/

/-- The keys of one engine's table (R331). -/
def keysOf (s : State) (tile engine : Nat) : List KeyEnt := s.eng.keys.filter fun k => k.tile = tile && k.engine = engine

/-- A key that is not 0 and not live in a table, found from the drawn one (R332). -/
def chooseKey (ks : List KeyEnt) (drawn : Nat) : Nat :=
  (((List.range 17).map fun i => 1 + (drawn + i) % 16777215).find? fun k => !ks.any fun e => e.key = k).getD 1

/-- `mcap` (R332): a full table answers 0. -/
def execMcap (a b : DReg) (s : State) : Host.Outcome State Fault Refusal :=
  finishRun s (do
    needMatrix s
    let v := (s.getD b).toNat
    let engine := bits v 29 28
    let mask := bits v 35 32
    require (bits v 63 36 = 0 && bits v 31 30 = 0 && bits v 27 0 = 0 && engine ≠ 3 && mask ≠ 0 &&
      (engine ≠ 1 || mask < 4)) clsIll illValue
    let tile := tileOfCore (coreOf s.th.num)
    let ks := keysOf s tile engine
    if 16 ≤ ks.length then .ok ((s.setD a 0).advance 4)
    else
      let key := chooseKey ks (Config.capKey s.fresh)
      let s := s.onEng fun e =>
        { e with keys := e.keys ++ [{ tile := tile, engine := engine, key := key, mask := mask, task := s.th.taskid }] }
      .ok ((s.setD a (BitVec.ofNat 64 (v + 1099511627776 * key + tile))).advance 4))

/-- `mrev` (R333). -/
def execMrev (a : DReg) (s : State) : Host.Outcome State Fault Refusal :=
  finishRun s (do
    needMatrix s
    let v := (s.getD a).toNat
    let tile := tileOfCore (coreOf s.th.num)
    .ok ((s.onEng fun e => { e with keys := e.keys.filter fun k =>
      !(bits v 9 0 = tile && k.tile = tile && k.engine = bits v 29 28 && k.key = bits v 63 40) }).advance 4))

/-- `mcmd` (R334). -/
def execMcmd (a b c : DReg) (s : State) : Host.Outcome State Fault Refusal :=
  finishRun s (do
    needMatrix s
    postCommand 2 64 a b (s.getD c) s)

/-- A command runs at the matrix unit that receives it (R334). Its operation acts for the context in the named slot. -/
def acceptMatrix (c : Command) (s : State) : Run State := do
  recordOk c.record [(12, 4), (56, 8)]
  let val (k : Nat) : Word := BitVec.ofNat 64 (natOfBytes ((c.record.drop (24 + 8 * k)).take 8))
  let i ← recordInstr c.record 3
  let need (ok : Bool) : Run Unit := if ok then .ok () else refuse
  let part ← match s.thread? (16 * capTile c.cap + 12 + bits c.target.toNat 17 16) with
    | some t => .ok t
    | none => refuse
  let iss := c.issuer part
  match i with
  | .product ty sparse z md st =>
    need (capAllows s 2 c.cap (8 + st))
    let x ← tileOperand (val 0) (val 1)
    let y ← tileOperand (val 2) (val 3)
    productOp iss (match ty with | some t => (tyCode t).toNat | none => 0) sparse z.toNat (.scratch x) (.scratch y) md.toNat st s
  | .zero z st => need (capAllows s 2 c.cap (8 + st)); zeroOp iss z.toNat st s
  | .loadTile z off st => need (capAllows s 2 c.cap (8 + st)); loadTileOp iss z.toNat (val 0 + imm32 off).toNat st s
  | .storeTile z off st => need (capAllows s 2 c.cap (8 + st)); storeTileOp iss z.toNat (val 0 + imm32 off).toNat st s
  | _ => refuse

end Sys2Proof.Machine
end

