-- ==== Sys2Proof/Machine/VectorMem.lean ====
section
/-! DEFINITION. The meanings of majors 0x1D and 0x1E (R150 to R157): vector scratch accesses, gathers and stream
bindings. -/

namespace Sys2Proof.Machine

/-! ### Loads and stores (R150 to R152) -/

/-- The lanes that execute, in increasing order. -/
def liveLanes (mask : Lane) : List Nat := (List.range 32).filter fun i => mask.getLsbD i

/-- The two passes of R150: alignment of every executing lane, then bounds. -/
def checkLanesAlign (mask : Lane) (o : Nat → Nat) : Run Unit := (liveLanes mask).forM fun i => needAligned (o i) 4
@[inherit_doc checkLanesAlign] def checkLanesBound (mask : Lane) (o : Nat → Nat) (t : Thread) : Run Unit :=
  (liveLanes mask).forM fun i => needBound t (o i) 4

/-- A vector load from lane offsets (R150): the destination's stream checks come first in the class SCRATCH, since it is
the first operand. -/
def vectorLoad (len : Nat) (w : WClass) (a : VReg) (o : Nat → Nat) (g : Gov) (h : HNeed) (s : State) : Run State := do
  let mask := govMask s.th g
  let us := streamUses s.th (some a) []
  checkHandle h s
  checkLanesAlign mask o
  us.forM fun u => u.bound s.th
  checkLanesBound mask o s.th
  us.forM fun u => u.ends
  let s ← waitHandle true h s
  waitClass w s
  let k (i : Nat) : Nat := scratchKey s.th (o i)
  if (liveLanes mask).any fun i => scratchPoisoned s (k i) 4 then .error (.endTask statusPoison)
  .ok ((writeVec a mask (fun i => BitVec.ofNat 32 (scratchNat s (k i) 4)) s).advance len)

/-- A vector store to lane offsets, in increasing lane order (R150, R152). -/
def vectorStore (len : Nat) (w : WClass) (a : VReg) (o : Nat → Nat) (g : Gov) (h : HNeed) (s : State) : Run State := do
  let mask := govMask s.th g
  let us := streamUses s.th none [a]
  checkHandle h s
  checkLanesAlign mask o
  checkLanesBound mask o s.th
  checkStreams us s.th
  let s ← waitHandle false h s
  waitClass w s
  waitPops us s
  poisonPops us s
  let x := readVec s a
  let s := takePops us s
  .ok (((liveLanes mask).foldl (fun s i => writeScratch (o i) (bytesOf 4 (lane x i).toNat) s) s).advance len)

/-- Lane offsets of `vld` and `vst` (R151). -/
def laneOffset (base : Word) (i : Nat) : Nat := (base + BitVec.ofNat 64 (4 * i)).toNat
/-- Lane offsets of `vlds` and `vsts` (R152). -/
def laneStride (base stride : Word) (i : Nat) : Nat := (base + BitVec.ofNat 64 i * stride).toNat

/-- `vld` (R151). -/
def execVld (w : WClass) (a : VReg) (b : DReg) (off : BitVec 5) (s : State) : Host.Outcome State Fault Refusal :=
  finishRun s (vectorLoad 4 w a (laneOffset (s.getD b + off.zeroExtend 64)) none none s)

/-- `vst` (R151). -/
def execVst (w : WClass) (a : VReg) (b : DReg) (off : BitVec 5) (s : State) : Host.Outcome State Fault Refusal :=
  finishRun s (vectorStore 4 w a (laneOffset (s.getD b + off.zeroExtend 64)) none none s)

/-- `vlds` (R152). -/
def execVlds (w : WClass) (a : VReg) (b c : DReg) (s : State) : Host.Outcome State Fault Refusal :=
  finishRun s (vectorLoad 4 w a (laneStride (s.getD b) (s.getD c)) none none s)

/-- `vsts` (R152). -/
def execVsts (w : WClass) (a : VReg) (b c : DReg) (s : State) : Host.Outcome State Fault Refusal :=
  finishRun s (vectorStore 4 w a (laneStride (s.getD b) (s.getD c)) none none s)

/-- `vld` in the X form (R151, R59). -/
def execVldX (w : WClass) (a : VReg) (b : DReg) (i : BitVec 32) (g : Gov) (h : HNeed) (s : State) :
    Host.Outcome State Fault Refusal :=
  finishRun s (vectorLoad 12 w a (laneOffset (s.getD b + imm32 i)) g h s)

/-- `vst` in the X form (R151, R59). -/
def execVstX (w : WClass) (a : VReg) (b : DReg) (i : BitVec 32) (g : Gov) (h : HNeed) (s : State) :
    Host.Outcome State Fault Refusal :=
  finishRun s (vectorStore 12 w a (laneOffset (s.getD b + imm32 i)) g h s)

/-- `vlds` in the X form (R152, R59). -/
def execVldsX (w : WClass) (a : VReg) (b c : DReg) (g : Gov) (h : HNeed) (s : State) : Host.Outcome State Fault Refusal :=
  finishRun s (vectorLoad 12 w a (laneStride (s.getD b) (s.getD c)) g h s)

/-- `vsts` in the X form (R152, R59). -/
def execVstsX (w : WClass) (a : VReg) (b c : DReg) (g : Gov) (h : HNeed) (s : State) : Host.Outcome State Fault Refusal :=
  finishRun s (vectorStore 12 w a (laneStride (s.getD b) (s.getD c)) g h s)

/-! ### Gathers (R153) -/

/-- How a lane of a gather is treated: absent, with SHADOW where its sentinel lies below the bound; read; or a trap. -/
inductive GatherLane where
  | absent (shadow : Bool)
  | read (o : Nat)
  | trap (sub : Nat) (o : Nat)
  deriving DecidableEq, Repr

/-- The sentinel, index and bound checks of one lane (R153). -/
def gatherLane (zero : Bool) (nb ns : Nat) (base : Word) (size : Nat) (x : Nat) : GatherLane :=
  let o := (base + BitVec.ofNat 64 (4 * x)).toNat
  if ns ≠ 0xFFFF ∧ x = ns then .absent (nb = 0 || ns < nb)
  else if nb ≠ 0 ∧ nb ≤ x then (if zero then .absent false else .trap 3 o)
  else if o + 4 ≤ size then .read o else .trap 0 o

/-- `vldx` and `vldx.zero` (R153). The checks on the data of a bound index register come after its wait (R36). -/
def gather (len : Nat) (zero : Bool) (w : WClass) (a : VReg) (b : DReg) (c : VReg) (nb ns : Nat) (g : Gov) (h : HNeed)
    (s : State) : Run State := do
  let base := s.getD b
  let mask := govMask s.th g
  let us := streamUses s.th (some a) [c]
  let lanes (s : State) : List (Nat × GatherLane) :=
    let x := readVec s c
    (liveLanes mask).map fun i => (i, gatherLane zero nb ns base s.th.spsize.toNat (lane x i).toNat)
  let check (s : State) : Run Unit := (lanes s).forM fun l =>
    match l.2 with
    | .trap sub o => .error (.trap clsScratch sub (BitVec.ofNat 64 o))
    | _ => .ok ()
  let late := (bindingOf s.th c).isSome
  checkHandle h s
  needAligned base.toNat 4
  us.forM fun u => u.bound s.th
  if !late then check s
  us.forM fun u => u.ends
  let s ← waitHandle true h s
  waitClass w s
  waitPops us s
  poisonPops us s
  if late then check s
  let ls := lanes s
  let at' (i : Nat) : GatherLane := ((ls.find? fun l => l.1 = i).map Prod.snd).getD (.absent false)
  if ls.any fun l => match l.2 with | .read o => scratchPoisoned s (scratchKey s.th o) 4 | _ => false then
    .error (.endTask statusPoison)
  let t := writeVec a mask (fun i => match at' i with
    | .read o => BitVec.ofNat 32 (scratchNat s (scratchKey s.th o) 4)
    | _ => 0) (takePops us s)
  let gone := (List.range 32).foldl (fun n i => match at' i with
    | .absent _ => if mask.getLsbD i then n + 2 ^ i else n
    | _ => n) 0
  let t := match g with
    | some p => t.setP p (s.th.getP p &&& ~~~ BitVec.ofNat 32 gone)
    | none => t
  let sh := ls.any fun l => match l.2 with | .absent b => b | _ => false
  .ok ((t.raise { shadow := sh }).advance len)

/-- `vldx` (R153): no bound and no sentinel in the one-word form. -/
def execVldx (w : WClass) (a : VReg) (b : DReg) (c : VReg) (s : State) : Host.Outcome State Fault Refusal :=
  finishRun s (gather 4 false w a b c 0 0xFFFF none none s)

/-- `vldx.zero` (R153). -/
def execVldxZero (w : WClass) (a : VReg) (b : DReg) (c : VReg) (s : State) : Host.Outcome State Fault Refusal :=
  finishRun s (gather 4 true w a b c 0 0xFFFF none none s)

/-- `vldx` in the X form, with bound and sentinel (R153). -/
def execVldxX (w : WClass) (a : VReg) (b : DReg) (c : VReg) (nb ns : BitVec 16) (g : Gov) (h : HNeed) (s : State) :
    Host.Outcome State Fault Refusal :=
  finishRun s (gather 12 false w a b c nb.toNat ns.toNat g h s)

/-- `vldx.zero` in the X form, with bound and sentinel (R153). -/
def execVldxZeroX (w : WClass) (a : VReg) (b : DReg) (c : VReg) (nb ns : BitVec 16) (g : Gov) (h : HNeed) (s : State) :
    Host.Outcome State Fault Refusal :=
  finishRun s (gather 12 true w a b c nb.toNat ns.toNat g h s)

/-! ### Bindings (R155, R157) -/

/-- The generators of a core that contexts in its slots hold, the binding of `except` apart. -/
def generatorsHeld (s : State) (except : Option VReg) : List Nat :=
  s.threads.flatMap fun t =>
    if coreOf t.num ≠ coreOf s.th.num then []
    else (List.range 8).filterMap fun i =>
      if t.num = s.th.num ∧ except = some (BitVec.ofNat 5 (24 + i)) then none else ((t.binds[i]?).getD none).map fun b => b.gen

/-- The lowest free generator of the core (R41). -/
def freeGenerator (s : State) (except : Option VReg) : Option Nat :=
  (List.range 4).find? fun g => !(generatorsHeld s except).contains g

/-- A binding of a register replaced. -/
def setBinding (a : VReg) (b : Option Binding) (s : State) : State :=
  { s with th := { s.th with binds := s.th.binds.setIfInBounds (a.toNat - 24) b } }

/-- `vbind` (R155). The register's earlier contents are lost to the program: reads pop the pattern while it is bound, and `vunbind` leaves
zero; what a context save shows of them meanwhile the spec leaves open, and the model keeps them there [DESIGN CHOICE, log 83]. -/
def execVbind (a : VReg) (b c : DReg) (s : State) : Host.Outcome State Fault Refusal :=
  finishRun s (do
    let base := (s.getD b).toNat
    let stride := (BitVec.ofNat 32 ((s.getD c).toNat / 4294967296)).toInt
    let count := (s.getD c).toNat % 4294967296
    let last : Int := (base : Int) + (count - 1 : Nat) * stride
    require (count ≠ 0) clsIll illValue
    require (base % 16 = 0) clsAlign 0 (s.getD b)
    require (stride % 16 = 0) clsAlign 0 (BitVec.ofInt 64 stride)
    require (base + 128 ≤ s.th.spsize.toNat) clsScratch 0 (s.getD b)
    require (0 ≤ last && last + 128 ≤ s.th.spsize.toNat) clsScratch 0 (BitVec.ofInt 64 last)
    match freeGenerator s (some a) with
    | none => .error (.trap clsStreamEnd 8 0)
    | some g =>
      .ok ((setBinding a (some { gen := g, base := base, stride := stride, count := count, pos := 0 }) s).advance 4))

/-- `vunbind` (R157): the generator is released and the register reads as zero. -/
def execVunbind (a : VReg) (s : State) : Host.Outcome State Fault Refusal :=
  finishRun s (.ok (({ (setBinding a none s) with th := (setBinding a none s).th.setV a Lanes.zero }).advance 4))

end Sys2Proof.Machine
end

