-- ==== Sys2Proof/Machine/Context.lean ====
section
/-! DEFINITION. System registers as a thread reads them (R24 to R31, R72), the state of a context at dispatch (R39), and the
context save area with its layout (R351, R352). -/

namespace Sys2Proof.Machine

/-! ### System registers (R24, R26, R30, R31, R72) -/

/-- The die record that holds a thread's core. -/
def State.dieOf (s : State) (num : Nat) : DieRec := (s.dies[dieOfCore (coreOf num)]?).getD {}

/-- STATUS as it reads: FT is the die's factory-test latch (R26, R72). -/
def statusOf (s : State) (t : Thread) : Word :=
  (t.status &&& 0xFFFFFFFFFFFFF7FF) ||| (if (s.dieOf t.num).ftm then 2048 else 0)

/-- CORENUM (R30). -/
def coreNumber (num : Nat) : Word := BitVec.ofNat 64 (coreOf num + 65536 * (num % 4))

/-- ARCHVER (R30). -/
def archVersion (num : Nat) : Word := if coreOf num % 4 = 3 then 0x7F0200 else 0x7C0200

/-- A count as a 64-bit register shows it: it does not wrap, so that a second read is never smaller (R31). [DESIGN CHOICE, log 3] -/
def upTo64 (n : Nat) : Word := BitVec.ofNat 64 (min n (2 ^ 64 - 1))

/-- The energy of a task's other contexts, those of its threads that have ended among them. -/
def otherEnergy (s : State) (t : Thread) : Nat :=
  if (s.taskOf t).isNone then 0
  else (((s.th :: s.others) ++ s.parked).filter fun u => u.taskid = t.taskid && u.num ≠ t.num).foldl (fun n u => n + u.ecount.toNat) 0

/-- The energy charged to a thread's task (R31). -/
def taskEnergy (s : State) (t : Thread) : Nat := t.ecount.toNat + otherEnergy s t

/-- The value of a system register, when R24 lists its number. -/
def sysValue (s : State) (t : Thread) (n : Nat) : Option Word :=
  match n with
  | 0x000 => some (statusOf s t)
  | 0x001 => some t.cause
  | 0x002 => some t.epc
  | 0x003 => some t.eaddr
  | 0x004 => some t.tvec
  | 0x008 => some t.fmode
  | 0x010 => some t.spbase
  | 0x011 => some t.spsize
  | 0x012 => some t.spilltop
  | 0x013 => some t.spillovf
  | 0x018 => some (BitVec.ofNat 64 t.lvl)
  | 0x020 => some (BitVec.ofNat 64 t.taskid)
  | 0x021 => some (BitVec.ofNat 64 t.scopeid)
  | 0x022 => some (coreNumber t.num)
  | 0x023 => some (upTo64 s.time)
  | 0x028 => some (archVersion t.num)
  | 0x029 => some (upTo64 (taskEnergy s t))
  | _ => none

/-- The registers that user mode may not read (R24). -/
def isSupervisorOnly (n : Nat) : Bool := 1 ≤ n && n ≤ 4
/-- The registers that user mode may write (R24). -/
def isUserWritable (n : Nat) : Bool := n = 0x008 || n = 0x013
/-- The registers that no mode may write (R24). -/
def isReadOnly (n : Nat) : Bool := n = 0x020 || n = 0x021 || n = 0x022 || n = 0x023 || n = 0x028 || n = 0x029

/-- Whether a value may be written to a register: no bit in a reserved field and every field in its range (R25, R26, R236). -/
def sysFits (t : Thread) (n : Nat) (v : Word) : Bool :=
  let x := v.toNat
  let held (base size : Nat) : Bool :=
    size = 0 || (t.segBase ≤ base / 8192 && base / 8192 + size / 8192 ≤ t.segBase + t.segCount)
  match n with
  | 0x000 => bits x 63 12 = 0 && bits x 7 5 = 0 && bits x 10 8 ≤ 4
  | 0x001 => bits x 63 16 = 0
  | 0x008 => bits x 63 15 = 0 && bits x 7 3 = 0
  | 0x010 => x % 8192 = 0 && x ≤ 327680 && held x t.spsize.toNat
  | 0x011 => x % 8192 = 0 && held t.spbase.toNat x
  | 0x018 => x ≤ 4
  | _ => true

/-- A register written (R26, R27): SV and FT keep their values, low bits that read as zero are ignored. -/
def sysPut (n : Nat) (v : Word) (t : Thread) : Thread :=
  match n with
  | 0x000 => { t with status := (v &&& 0xFFFFFFFFFFFFF7FE) ||| (t.status &&& 1) }
  | 0x001 => { t with cause := v }
  | 0x002 => { t with epc := v &&& 0xFFFFFFFFFFFFFFFC }
  | 0x003 => { t with eaddr := v }
  | 0x004 => { t with tvec := v &&& 0xFFFFFFFFFFFFC000 }
  | 0x008 => { t with fmode := v }
  | 0x010 => { t with spbase := v }
  | 0x011 => { t with spsize := v }
  | 0x012 => { t with spilltop := v }
  | 0x013 => { t with spillovf := v }
  | 0x018 => { t with lvl := v.toNat }
  | _ => t

/-! ### Sets as the Welt keeps them (R205, R209) -/

/-- A phase is released. -/
def SetRec.release (r : SetRec) : SetRec := { r with p := r.p + 1, a := 0, here := [], last := r.here }

/-- A set's record. -/
def State.set (s : State) (id : Nat) : SetRec := (lookup id s.sets).getD {}

/-- Whether a name of some context binds a set or a scope. -/
def isNamed (s : State) (b : Bound) : Bool := (s.threads ++ s.parked).any fun t => t.names.toList.any fun n => n.bound = b

/-- Sets that no name binds any more do not exist (R205). -/
def sweepSets (s : State) : State := { s with sets := s.sets.filter fun x => isNamed s (.set x.1) }

/-- The arrival of a name's member lies in a phase that has not been released. -/
def isArrived (s : State) (n : NameEnt) : Bool :=
  match n.bound, n.arrived with
  | .set id, some p => (s.set id).p = p
  | _, _ => false

/-- An arrival in the open phase taken back. -/
def SetRec.takeBack (r : SetRec) (num : Nat) : SetRec := { r with a := r.a - 1, here := r.here.erase num }

/-- The member in a slot withdraws under the `leave` rule (R209, R373). -/
def withdraw (num : Nat) (n : NameEnt) (s : State) : State :=
  match n.bound with
  | .set id =>
    if !n.member then s
    else
      let r := s.set id
      let r := if isArrived s n then r.takeBack num else r
      let r := { r with e := r.e - 1 }
      { s with sets := insert id (if 0 < r.e ∧ r.a = r.e then r.release else r) s.sets }
  | _ => s

/-! ### A context at dispatch (R39) -/

/-- The state that a context receives at dispatch. -/
def Thread.dispatched (num asid taskid scopeid : Nat) (entry tvec : Word) (seg count spill : Nat) (ovf d3 d4 : Word) : Thread :=
  let size := BitVec.ofNat 64 (8192 * count)
  { live := true
    num := num
    asid := asid
    taskid := taskid
    scopeid := scopeid
    d := ((Vector.replicate 64 (0 : Word)).set 2 size).set 3 d3 |>.set 4 d4
    pc := entry
    status := 4
    tvec := tvec
    spbase := BitVec.ofNat 64 (8192 * seg)
    spsize := size
    spilltop := size - BitVec.ofNat 64 (1024 * spill)
    spillovf := ovf
    segBase := seg
    segCount := count }

/-! ### The context save area (R351, R352) -/

/-- Two 32-bit halves as one word. -/
def pair32 (lo hi : Nat) : Word := BitVec.ofNat 64 (lo % 4294967296 + 4294967296 * (hi % 4294967296))

/-- The word of a name m0 to m15 in the names area (R351). -/
def NameEnt.word (n : NameEnt) : Word :=
  let (id, kind) := match n.bound with | .unbound => (0, 0) | .set i => (i, 1) | .scope i => (i, 2)
  BitVec.ofNat 64 (id + 65536 * kind + (if n.member then 262144 else 0) +
    (match n.arrived with | some p => 524288 + 4294967296 * (p % 4294967296) | none => 0))

/-- The name that a word of the names area describes. -/
def nameOfWord (w : Word) : NameEnt :=
  let x := w.toNat
  let id := bits x 15 0
  { bound := match bits x 17 16 with | 1 => .set id | 2 => .scope id | _ => .unbound
    member := bits x 18 18 = 1
    arrived := if bits x 19 19 = 1 then some (bits x 63 32) else none }

/-- The shape code of a tile register (R352). -/
def TileReg.shape (z : TileReg) : Nat := (z.rows - 1) + 32 * (z.cols - 1) + (if z.f32 then 1024 else 0)

/-- The handles of a context's tile that its task defined, as a mask (R351). -/
def handleMask (s : State) (t : Thread) : Word :=
  let tile := tileOfCore (coreOf t.num)
  BitVec.ofNat 64 ((s.eng.handles.map fun h => if h.1 / 64 = tile ∧ h.2.task = t.taskid then 2 ^ (h.1 % 64) else 0).foldl (· + ·) 0)

/-- Whether a thread belongs to a gang task. -/
def isGangThread (s : State) (t : Thread) : Bool := (s.taskOf t).any fun k => (lookup k.card s.cards).any fun c => c.flags % 2 = 1

/-- FLAGS of the header (R352): a gang thread's exchange state is held in its core's router (R358). [DEDUCED, log 63] -/
def contextFlags (s : State) (t : Thread) : Nat :=
  (if coreOf t.num % 4 = 3 then 1 else 0) + (if t.event then 2 else 0) + (if t.rerr || t.derr then 4 else 0) +
    (if isGangThread s t then 8 else 0) + (match t.phrase with | .head _ => 16 | .dependent _ => 32 | _ => 0)

/-! ### The spill ring (R354) -/

/-- One entry of a ring: its header and its flit. -/
structure RingEntry where
  header : List Byte
  flit : List Byte

/-- The flits of a context that lie between its core and the matrix unit, in the order in which they left the core. -/
def ringOf (s : State) (t : Thread) : List RingEntry :=
  (s.eng.ops.filter fun o => o.thread = t.num && o.home = t.taskid && 0 < o.flits).flatMap fun o =>
    match o.kind with
    | .stream k _ _ _ =>
      let n := operandFlits k
      (List.range o.flits).map fun i =>
        let j := n - o.flits + i
        { header := bytesOf 8 o.num ++ bytesOf 1 (o.ctx - 8) ++ bytesOf 1 j ++ bytesOf 1 n ++ bytesOf 5 0
          flit := (List.range 128).map fun b => (operandBytes k)[128 * j + b]?.getD 0 }
    | _ => []

/-- Values of some bytes each, from the bytes of a list. -/
def valuesOf (size n : Nat) (bs : List Byte) : List Nat := (List.range n).map fun i => natOfBytes ((bs.drop (size * i)).take size)

/-- A stream operation's operands, from the bytes that its flits carry. -/
def StreamKind.withBytes (k : StreamKind) (bs : List Byte) : StreamKind :=
  match k with
  | .product ty sparse a b metas =>
    let z := tySize (tyOfCode ty)
    .product ty sparse (valuesOf z a.length bs) (valuesOf z b.length (bs.drop (z * a.length)))
      (valuesOf 4 metas.length (bs.drop (z * (a.length + b.length))))
  | .load ws => .load ((valuesOf 4 ws.length bs).map (BitVec.ofNat 32))
  | k => k

/-- A ring replayed to the matrix unit (R355, R360): the flits of an operation that the ring names set out again, with the bytes that the
ring holds. -/
def replayRing (t : Thread) (ring : List RingEntry) (s : State) : State :=
  let field (e : RingEntry) (k n : Nat) : Nat := natOfBytes ((e.header.drop k).take n)
  let go (o : EngOp) : EngOp :=
    let es := ring.filter fun e => field e 0 8 = o.num && field e 8 1 + 8 = o.ctx
    match o.kind with
    | .stream k z rows cols =>
      if o.thread ≠ t.num || o.home ≠ t.taskid || o.flits = 0 || es.isEmpty then o
      else
        let flit (j : Nat) : List Byte := match es.find? fun e => field e 9 1 = j with
          | some e => e.flit
          | none => (List.range 128).map fun b => (operandBytes k)[128 * j + b]?.getD 0
        { o with caught := false, flits := es.length
                 kind := .stream (k.withBytes ((List.range (operandFlits k)).flatMap flit)) z rows cols }
    | _ => o
  s.onEng fun e => { e with ops := e.ops.map go }

/-- The flits of a context between its core and the matrix unit caught in its ring (R350 step 5). -/
def catchFlits (t : Thread) (s : State) : State :=
  s.onEng fun e => { e with ops := e.ops.map fun o => if o.thread = t.num && o.home = t.taskid && 0 < o.flits then { o with caught := true } else o }

/-- The entries of the ring in an area. -/
def ringOfArea (w : Nat → Word) : List RingEntry :=
  let bytes (i n : Nat) : List Byte := (List.range n).flatMap fun k => bytesOf 8 (w (i + k)).toNat
  (List.range (bits (w 0).toNat 39 32)).map fun k => ⟨bytes (1856 + 2 * k) 2, bytes (1984 + 16 * k) 16⟩

/-- The header's words (R352). -/
def headerWords (s : State) (t : Thread) (pc : Word) : List Word :=
  let shapes (i : Nat) : Word := BitVec.ofNat 64
    (((List.range 4).map fun k => ((t.z[i + k]?).getD {}).shape * 2 ^ (16 * k)).foldl (· + ·) 0)
  let phrase : Nat := match t.phrase with | .head w => w | .dependent h => h | _ => 0
  [BitVec.ofNat 64 (1 + 65536 * contextFlags s t + 4294967296 * (ringOf s t).length), pc]
    ++ ([0x000, 0x001, 0x002, 0x003, 0x004, 0x008, 0x018, 0x010, 0x011, 0x012, 0x013, 0x020, 0x021, 0x022, 0x029].map fun n =>
      (sysValue s t n).getD 0)
    ++ [t.onc, BitVec.ofNat 64 phrase, BitVec.ofNat 64 t.pimage, shapes 0, shapes 4] ++ List.replicate 10 0

/-- Zero words. -/
def zeros (n : Nat) : List Word := List.replicate n 0

/-- The area of a context whose first instruction not executed is at `pc`, as 7,104 words of 8 bytes; a bound register shows its
earlier contents [DESIGN CHOICE, log 83]. -/
def areaWords (s : State) (t : Thread) (pc : Word) : List Word :=
  let reg (i : Nat) : Word := (t.d[i]?).getD 0
  let frame (l : Nat) : List Word := if l ≤ t.lvl then (List.range 8).map fun i => reg (24 + 8 * l + i) else zeros 8
  let level (l : Nat) : List Word :=
    if l ≤ t.lvl then let x := (t.loops[l - 1]?).getD {}; [x.start, x.stop, x.count, x.index] else zeros 4
  let ringWords (n : Nat) (f : RingEntry → List Byte) : List Word :=
    let bs := wordsOf64 ((ringOf s t).flatMap f)
    (List.range n).map fun i => bs[i]?.getD 0
  let lanes (v : Lanes) : List Word := (List.range 16).map fun i => pair32 (lane v (2 * i)).toNat (lane v (2 * i + 1)).toNat
  headerWords s t pc
    ++ (0 :: (List.range 31).map fun i => reg (i + 1))
    ++ ([1, 2, 3, 4].flatMap frame) ++ ([1, 2, 3, 4].flatMap level) ++ zeros 16
    ++ ((List.range 4).map fun i => pair32 ((t.p[2 * i]?).getD 0).toNat ((t.p[2 * i + 1]?).getD 0).toNat)
    ++ ((List.range 8).flatMap fun i => match (t.binds[i]?).getD none with
      | some b => [pair32 b.base (wrapBits 32 b.stride), pair32 b.count b.pos]
      | none => zeros 2)
    ++ ((List.range 16).map fun i => BitVec.ofNat 64 ((t.covered[i]?).getD 0))
    ++ [handleMask s t] ++ zeros 3
    ++ (t.names.toList.map NameEnt.word)
    ++ [BitVec.ofNat 64 t.lost, BitVec.ofNat 64 (t.refused % 4294967296)] ++ zeros 6
    ++ (t.v.toList.flatMap lanes)
    ++ (t.q.toList.flatMap Region.slotWords)
    ++ ((List.range 64).flatMap fun n => wordsOf64 ((lookup n t.tensors).getD {}).bytes)
    ++ ringWords 128 RingEntry.header ++ ringWords 1024 RingEntry.flit
    ++ (if coreOf t.num % 4 = 3 then
        t.z.toList.flatMap fun z => (List.range 512).map fun i => pair32 (z.get (2 * i)).toNat (z.get (2 * i + 1)).toNat
      else zeros 4096)

/-- Whether an area's version and reserved bits are as R351 and R352 lay them out. -/
def areaOk (w : Nat → Word) : Bool :=
  let x (i : Nat) : Nat := (w i).toNat
  bits (x 0) 15 0 = 1 && bits (x 0) 31 22 = 0 && bits (x 0) 39 32 ≤ 64 && bits (x 0) 63 40 = 0 &&
    bits (x 2) 63 12 = 0 && bits (x 2) 7 5 = 0 && bits (x 2) 10 8 ≤ 4 && bits (x 3) 63 16 = 0 &&
    bits (x 7) 63 15 = 0 && bits (x 7) 7 3 = 0 && x 8 ≤ 4 &&
    ((List.range 8).all fun i => bits (x (20 + i / 4)) (16 * (i % 4) + 15) (16 * (i % 4) + 11) = 0) &&
    x 14 < 65536 && ((List.range 10).all fun i => x (22 + i) = 0) &&
    ((List.range 16).all fun i => bits (x (168 + i)) 31 20 = 0 && bits (x (168 + i)) 17 16 ≠ 3) &&
    bits (x 184) 63 16 = 0 && bits (x 185) 63 32 = 0

/-- A context with the state that an area describes (R351, R352). What the area does not hold stays; generators are given
to the bindings from the list in turn, and the energy is what the task's other contexts leave of the area's. A region slot that
R188 would refuse leaves its register as it is, and one that is not canonical is taken as its canonical form; the rules say neither
[DESIGN CHOICE, log 84]. -/
def contextOfArea (w : Nat → Word) (gens : List Nat) (other : Nat) (t : Thread) : Thread :=
  let x (i : Nat) : Nat := (w i).toNat
  let vec (i : Nat) : Lanes := lanesFrom fun k => BitVec.ofNat 32 (x (192 + 16 * i + k / 2) / 2 ^ (32 * (k % 2)))
  let slot (i : Nat) : List Word := (List.range 40).map fun k => w (704 + 40 * i + k)
  let desc (n : Nat) : Option Tensor := (parseTensor ((List.range 8).flatMap fun k => bytesOf 8 (x (1344 + 8 * n + k)))).filter
    fun d => d.rank ≠ 0
  let bound (i : Nat) : Bool := x (133 + 2 * i) % 4294967296 ≠ 0
  let order (i : Nat) : Nat := ((List.range i).filter bound).length
  let binding (i : Nat) : Option Binding :=
    if bound i then
      some { gen := gens.getD (order i) 0, base := x (132 + 2 * i) % 4294967296, stride := s32 (x (132 + 2 * i) / 4294967296)
             count := x (133 + 2 * i) % 4294967296, pos := x (133 + 2 * i) / 4294967296 }
    else none
  let tileReg (i : Nat) : TileReg :=
    let sh := bits (x (20 + i / 4)) (16 * (i % 4) + 15) (16 * (i % 4))
    (List.range 1024).foldl (fun z k => z.put k (BitVec.ofNat 32 (x (3008 + 512 * i + k / 2) / 2 ^ (32 * (k % 2)))))
      { rows := sh % 32 + 1, cols := sh / 32 % 32 + 1, f32 := sh / 1024 % 2 = 1 }
  { t with
    pc := w 1
    event := bits (x 0) 17 17 = 1
    rerr := bits (x 0) 18 18 = 1
    derr := bits (x 0) 18 18 = 1
    status := w 2 &&& 0xFFFFFFFFFFFFF7FF
    cause := w 3
    epc := w 4 &&& 0xFFFFFFFFFFFFFFFC
    eaddr := w 5
    tvec := w 6 &&& 0xFFFFFFFFFFFFC000
    fmode := w 7
    lvl := x 8
    spilltop := w 11
    spillovf := w 12
    scopeid := x 14
    ecount := BitVec.ofNat 64 (x 16 - other)
    onc := w 17
    pimage := x 19
    d := Vector.ofFn fun i => if i.val = 0 then 0 else if i.val < 32 then w (32 + i.val) else w (64 + i.val - 32)
    loops := Vector.ofFn fun i => { start := w (96 + 4 * i.val), stop := w (97 + 4 * i.val), count := w (98 + 4 * i.val)
                                    index := w (99 + 4 * i.val) }
    p := Vector.ofFn fun i => BitVec.ofNat 32 (x (128 + i.val / 2) / 2 ^ (32 * (i.val % 2)))
    binds := Vector.ofFn fun i => binding i.val
    covered := Vector.ofFn fun i => x (148 + i.val)
    names := Vector.ofFn fun i => nameOfWord (w (168 + i.val))
    phrase := if bits (x 0) 20 20 = 1 then .head (x 18) else if bits (x 0) 21 21 = 1 then .dependent (x 18) else .none
    lost := bits (x 184) 15 0
    refused := bits (x 185) 31 0
    v := Vector.ofFn fun i => vec i.val
    q := Vector.ofFn fun i => if slotOk (slot i.val) then regionOfSlot (slot i.val) else t.q[i.val]
    tensors := (List.range 64).filterMap fun n => (desc n).map fun d => (n, d)
    z := if coreOf t.num % 4 = 3 && (w 0).getLsbD 16 then Vector.ofFn fun i => tileReg i.val else t.z }

end Sys2Proof.Machine
end

