-- ==== Sys2Proof/Machine/Distributor.lean ====
section
/-! DEFINITION. The distributor and the scope tree (R190 to R200, R212 to R215, R361 to R364, R370, R385, R409, R420): cards
and their submission, scopes, dealing, the units where a card can be placed, completion, and the end of a task. -/

namespace Sys2Proof.Machine

/-! ### The scope tree (R361 to R363) -/

/-- A scope's entry. -/
def State.scope? (s : State) (id : Nat) : Option ScopeRec := lookup id s.scopes
/-- A scope's state: 0 free, 1 open, 2 closing, 3 cancelling, 4 cancelled. -/
def scopeState (s : State) (id : Nat) : Nat := match s.scope? id with | some r => r.state | none => 0

/-- An entry of the scope table in memory (R363). -/
def ScopeRec.bytes (r : ScopeRec) : List Byte :=
  bytesOf 2 r.parent ++ bytesOf 1 r.state ++ bytesOf 1 r.kind ++ bytesOf 2 r.cause ++ bytesOf 2 r.first ++ bytesOf 4 r.abn
    ++ bytesOf 4 0 ++ bytesOf 8 r.owner ++ bytesOf 8 0

/-- A scope entered, changed or freed; the table in memory follows where the Laster has set its base (R363, R412). [DEDUCED, log 62] -/
def putScope (id : Nat) (r : Option ScopeRec) (s : State) : State :=
  let s := { s with scopes := match r with | some r => insert id r s.scopes | none => remove id s.scopes }
  if s.welt.scopebase = 0 then s
  else
    let bs := match r with | some r => r.bytes | none => List.replicate 32 0
    s.onMem fun m => { m with dram := writeBytes m.dram (s.welt.scopebase.toNat + 32 * id) bs }

/-- A change to a scope that exists. -/
def onScope (id : Nat) (f : ScopeRec → ScopeRec) (s : State) : State :=
  match s.scope? id with | some r => putScope id (some (f r)) s | none => s

/-- Whether a scope is another or descends from it; the first argument bounds the height of the tree. -/
def isUnderIn (s : State) : Nat → Nat → Nat → Bool
  | 0, _, _ => false
  | f + 1, id, root =>
    match s.scope? id with
    | none => false
    | some r => id = root || (r.parent ≠ 0 && isUnderIn s f r.parent root)

/-- Whether a scope lies in the subtree of another (R361). -/
def isUnder (s : State) (id root : Nat) : Bool := isUnderIn s (s.scopes.length + 1) id root

/-- The scopes of a subtree. -/
def subtree (s : State) (root : Nat) : List Nat := (s.scopes.map Prod.fst).filter fun id => isUnder s id root

/-- A scope and its ancestors. -/
def ancestry (s : State) (id : Nat) : List Nat := (s.scopes.map Prod.fst).filter fun a => isUnder s id a

/-- A new scope: cancelling when its parent is cancelling or cancelled, else open (R362). None when the table is full. -/
def createScope (parent kind owner : Nat) (s : State) : Option (Nat × State) :=
  (pickFree 1 65535 (fun i => (s.scope? i).isSome) s).map fun id =>
    let up := s.scope? parent
    let isLost := up.any fun r => 3 ≤ r.state
    (id, putScope id (some
      { parent := parent, state := if isLost then 3 else 1, kind := kind, owner := owner
        cause := if isLost then (up.map fun r => r.cause).getD 0 else 0 }) s)

/-! ### Cards (R190, R192) -/

/-- FLAGS bits of a card. -/
def Card.gang (c : Card) : Bool := c.flags % 2 = 1
@[inherit_doc Card.gang] def Card.restart (c : Card) : Bool := c.flags / 2 % 2 = 1
@[inherit_doc Card.gang] def Card.triad (c : Card) : Bool := c.flags / 4 % 2 = 1
@[inherit_doc Card.gang] def Card.fused (c : Card) : Bool := c.flags / 8 % 2 = 1
/-- Whether the card places phrases. -/
def Card.phrase (c : Card) : Bool := 2 ≤ c.pwidth

/-- A card's fields from its 64 bytes; the submission fills in the rest. -/
def parseCard (bs : List Byte) : Card :=
  let f (k n : Nat) : Nat := natOfBytes ((bs.drop k).take n)
  { id := 0, flags := f 2 1, pwidth := f 3 1 % 32, cls := f 4 1 % 8, chunkf := f 4 1 / 16 % 4, xbound := f 5 1, rsize := f 6 2
    rcount := f 8 4, minchunk := f 12 4, rbase := f 16 8, entry := f 24 8, scratch := f 34 1, spill := f 35 1, threads := f 36 2
    mset := f 38 2, budget := f 40 4, target := f 44 4, footprint := f 48 8, lease := f 56 8, scope := f 32 2, asid := 0
    submitter := none, host := none, watched := false }

/-- The form conditions of R192 and R215. -/
def cardFormOk (bs : List Byte) : Bool :=
  let f (k n : Nat) : Nat := natOfBytes ((bs.drop k).take n)
  let c := parseCard bs
  let kind := c.target / 2 ^ 30
  let arg := c.target % 2 ^ 14
  f 2 1 / 16 = 0 && f 3 1 / 32 = 0 && f 4 1 / 64 = 0 && f 4 1 / 8 % 2 = 0 &&
    8 ≤ c.rsize && c.rsize ≤ 4096 && c.rsize % 8 = 0 && 1 ≤ c.minchunk && c.rbase % 8 = 0 && c.entry % 4 = 0 &&
    c.scratch ≤ 38 && c.spill ≤ 8 * c.scratch && c.footprint % 64 = 0 && c.lease % 64 = 0 && c.pwidth ≤ 16 && c.mset ≤ 16383 &&
    c.target / 2 ^ 14 % 65536 = 0 && (kind = 1 || (kind = 2 && arg < 256) || arg = 0) &&
    !(c.gang && c.triad) && !((c.gang || c.triad) && 2 ≤ c.pwidth) && !(c.gang && 4096 < c.rcount)

/-- Whether a card has a record undealt or a dispatch pending. -/
def Card.isPending (c : Card) : Bool := c.next < c.rcount || !c.redeals.isEmpty || !c.watchDeals.isEmpty
/-- Whether a card is in the distributor's queue (R196). -/
def Card.isQueued (c : Card) : Bool := !c.complete && c.isPending
/-- The class a card is chosen by: 7 once its energy has reached its budget (R197). -/
def Card.rank (c : Card) : Nat := if c.budget ≠ 0 ∧ c.budget ≤ c.energy then 7 else c.cls

/-! ### Events, interrupts and completion (R108, R213, R215, R409, R420) -/

/-- A thread's event bit is set, if a context holds the slot (R108). -/
def setEvent (num : Nat) (s : State) : State := s.onThread num fun t => { t with event := true }

/-- A change to a host queue. -/
def onQueue (q : Nat) (f : HostQueue → HostQueue) (s : State) : State :=
  { s with host := { s.host with queues := onVec s.host.queues q f } }

/-- Completion entries written as long as the ring has room (R408, R409); the first argument bounds them. -/
def flushEntries (q : Nat) : Nat → State → State
  | 0, s => s
  | f + 1, s =>
    match s.host.queues[q]? with
    | none => s
    | some h =>
      match h.held with
      | [] => s
      | e :: rest =>
        if h.psize = 0 ∨ (h.ptail + 1) % h.psize = h.phead then s
        else
          let bs := e.take 6 ++ bytesOf 2 (if h.phase then 1 else 0) ++ e.drop 8
          let next := (h.ptail + 1) % h.psize
          let s := { s with host := { s.host with
            memory := writeBytes s.host.memory (h.pbase + 16 * h.ptail) bs
            msix := s.host.msix ++ [h.vec] } }
          flushEntries q f (countBytes 29 16 <| onQueue q (fun h => { h with held := rest, ptail := next, phase := if next = 0 then !h.phase else h.phase }) s)

/-- A completion entry of a host queue (R409): held back while the ring is full. -/
def postEntry (q slot status abn : Nat) (s : State) : State :=
  let e := bytesOf 4 slot ++ bytesOf 2 status ++ bytesOf 2 0 ++ bytesOf 4 abn ++ bytesOf 4 0
  let s := onQueue q (fun h => { h with held := h.held ++ [e] }) s
  flushEntries q ((s.host.queues[q]?.map fun h => h.held.length).getD 0) s

/-- The action of a node slot: an event or an interrupt; the slot is then free (R412, R420). -/
def fireNode (die : Nat) (k : Nat) (w : Word) (s : State) : State :=
  let x := w.toNat
  let s := onDie die (fun d => { d with nodes := insert k (w &&& 0xFFFFFFFFCFFFFFFF) d.nodes }) s
  match bits x 29 28 with
  | 1 => setEvent (bits x 43 30) s
  | 2 => { s with mgmt := { s.mgmt with interrupts := s.mgmt.interrupts ++ [bits x 37 30] } }
  | _ => s

/-- The node slots bound to a card fire. -/
def fireNodes (scope : Nat) (s : State) : State :=
  (List.range 8).foldl (fun s d =>
    (((s.dies[d]?).getD {}).nodes.filter fun n => bits n.2.toNat 15 0 = scope && bits n.2.toNat 29 28 ≠ 0).foldl
      (fun s n => fireNode d n.1 n.2 s) s) s

/-- A card completes: its target, its host entry and its nodes fire (R212, R213, R215, R409). -/
def completeCard (id : Nat) (s : State) : State :=
  match lookup id s.cards with
  | none => s
  | some c =>
    if c.complete then s
    else
      let s := s.onCard id fun c => { c with complete := true }
      let s := if scopeState s c.scope = 1 then onScope c.scope (fun r => { r with state := 2 }) s else s
      let arg := c.target % 2 ^ 14
      let s := match c.target / 2 ^ 30, c.submitter with
        | 1, _ => setEvent arg s
        | 2, _ => { s with mgmt := { s.mgmt with interrupts := s.mgmt.interrupts ++ [arg] } }
        | 3, some n => setEvent n s
        | _, _ => s
      let s := match c.host with | some (q, slot) => postEntry q slot c.first c.abn s | none => s
      fireNodes c.scope s

/-- A held card whose watch is disarmed has no records left but those that its pending matches take (R233). [DEDUCED, log 56] -/
def disarm (card : Nat) (s : State) : State :=
  (s.onMem fun m => { m with watches := m.watches.filter fun w => w.2.card ≠ card }).onCard card fun c =>
    { c with rcount := min c.rcount (c.next + c.watchDeals.length) }

/-- A card that has nothing left completes, unless its scope is cancelling, whose end completes it (R212, R375). The watches
of its scope end with it (R233). -/
def settleCard (id : Nat) (s : State) : State :=
  match lookup id s.cards with
  | none => s
  | some c =>
    if c.count = 0 && !c.isPending && scopeState s c.scope < 3 && !c.complete then
      let s := completeCard id s
      (s.mem.watches.filter fun w => w.2.scope = c.scope).foldl (fun s w => disarm w.2.card s) s
    else s

/-- Every card that can completes; the first argument bounds the chain from cards to the cards of their watches. -/
def settleCards : Nat → State → State
  | 0, s => s
  | f + 1, s => settleCards f (s.cards.foldl (fun s c => settleCard c.1 s) s)

/-! ### Submission (R192, R201) -/

/-- Who submits: the scope a card without one goes to, a scope that `spawn` names whatever the card says, the address space,
the thread and the host slot. -/
structure Submitter where
  scope : Nat
  spawn : Option Nat := none
  asid : Nat
  thread : Option Nat := none
  host : Option (Nat × Nat) := none
  watched : Bool := false

/-- `Submit` (R192): the answer, and the card's number where it is accepted. -/
def submit (by' : Submitter) (bs : List Byte) (s : State) : Nat × Nat × State :=
  let c := parseCard bs
  let target := match by'.spawn with | some sc => sc | none => if c.scope = 0 then by'.scope else c.scope
  let st := scopeState s target
  if 3 ≤ st then (statusCancelled, 0, s)
  else if natOfBytes (bs.take 2) ≠ 2 then (statusCardVersion, 0, s)
  else if !cardFormOk bs then (statusCardForm, 0, s)
  else if st ≠ 1 ∨ (by'.spawn.isNone && !isUnder s target by'.scope) then (statusScope, 0, s)
  else if 4096 ≤ (s.cards.filter fun x => x.2.isQueued).length then (statusQueueFull, 0, s)
  else match createScope target 1 0 s with
    | none => (statusQueueFull, 0, s)
    | some (scope, s) =>
      let id := s.nextId
      let c := { c with id := id, scope := scope, asid := by'.asid, submitter := by'.thread, host := by'.host
                        watched := by'.watched }
      (0, id, settleCards 1 { s with nextId := id + 1, cards := insert id c s.cards })

/-! ### Dealing (R193 to R195, R233) -/

/-- The lowest run of free segments of a core that a grant may take; at least two segments stay in the L1 (R237). -/
def grantRun (s : State) (core n : Nat) : Option Nat :=
  let held := heldSegments s core
  if n = 0 then some 0
  else if 38 < held.length + n then none
  else (List.range (41 - n)).find? fun b => (List.range n).all fun i => !held.contains (b + i)

/-- Whether no context holds a slot and no launch has been confirmed for it. -/
def isSlotFree (s : State) (num : Nat) : Bool :=
  (s.thread? num).isNone && !s.tasks.any fun t => t.2.stage = .launching && t.2.slots.contains num

/-- Whether a cluster holds a task. -/
def isClusterBusy (s : State) (cluster : Nat) : Bool :=
  ((s.th :: s.others).filter fun t => t.live).any (fun t => clusterOfCore (coreOf t.num) = cluster) ||
    s.parked.any (fun t => clusterOfCore (coreOf t.num) = cluster) ||
    s.tasks.any fun t => t.2.stage = .launching && t.2.slots.any fun n => clusterOfCore (coreOf n) = cluster

/-- Whether a card's fusion fits a cluster (R241). -/
def fusionFits (s : State) (c : Card) (cluster : Nat) : Bool :=
  match s.mem.fused.find? fun f => f.1 = cluster with
  | some f => c.fused && f.2 = c.asid
  | none => !c.fused || !isClusterBusy s cluster

/-- Whether a die takes placements (R385, R386, R72). -/
def DieRec.isOpen (d : DieRec) : Bool := d.live && !d.fenced && !d.ftm

/-- Whether a spill ring holds flits for the matrix unit of a slot's core 3, other than a task's own (R354). -/
def holdsRing (s : State) (num task : Nat) : Bool :=
  coreOf num % 4 = 3 && s.eng.ops.any fun o => o.caught && o.tile = tileOfCore (coreOf num) && o.home ≠ task

/-- Whether a core keeps the exchange state of a pre-empted gang other than a task (R358). -/
def holdsExchange (s : State) (num task : Nat) : Bool :=
  s.parked.any fun t => coreOf t.num = coreOf num && t.taskid ≠ task && (contextFlags s t).testBit 3

/-- Whether a card's task could be placed in a slot now (R198, R237, R241, R354, R358, R402). -/
def fitsSlot (s : State) (c : Card) (num : Nat) : Bool :=
  let core := coreOf num
  num < 16384 && isSlotFree s num && (s.dieOf num).isOpen && (grantRun s core c.scratch).isSome &&
    !(core % 4 = 3 && ((lookup (tileOfCore core) s.eng.tiles).getD {}).retired) && fusionFits s c (clusterOfCore core) &&
    !holdsRing s num 0 && !(c.gang && holdsExchange s num 0)

/-- Whether slots have the shape of a placement unit of a card (R193, R194, R219, R231). -/
def isUnitShape (c : Card) (unit : List Nat) : Bool :=
  match unit with
  | [] => false
  | n :: _ =>
    let core := coreOf n
    if c.gang then unit.length = c.rcount && decide (unit.map coreOf).Nodup
    else if c.triad then core % 4 = 1 && unit.map coreOf = [core, core + 1, core + 2]
    else if c.phrase then
      rowPosition core + c.pwidth ≤ 16 && unit = (List.range c.pwidth).map fun i => 4 * coreInRow core (rowPosition core + i) + n % 4
    else unit.length = 1

/-- Whether a card could be placed in a unit now. -/
def fitsUnit (s : State) (c : Card) (unit : List Nat) : Bool := isUnitShape c unit && unit.all (fitsSlot s c)

/-- The lowest slot of a core that a card fits, if any. -/
def lowestSlot (s : State) (c : Card) (core : Nat) : Option Nat :=
  ((List.range 4).map fun i => 4 * core + i).find? (fitsSlot s c)

/-- Units in which a card could be placed now. -/
def freeUnits (s : State) (c : Card) : List (List Nat) :=
  if c.gang then
    let ns := (List.range 4096).filterMap (lowestSlot s c)
    if c.rcount ≤ ns.length then [ns.take c.rcount] else []
  else if c.triad then
    (List.range 1024).flatMap fun t =>
      let fit (i : Nat) : List Nat := ((List.range 4).map fun k => 4 * (4 * t + i) + k).filter (fitsSlot s c)
      ((fit 1).zip ((fit 2).zip (fit 3))).map fun x => [x.1, x.2.1, x.2.2]
  else if c.phrase then
    ((List.range 16384).map fun n =>
      (List.range c.pwidth).map fun i => 4 * coreInRow (coreOf n) (rowPosition (coreOf n) + i) + n % 4).filter (fitsUnit s c)
  else ((List.range 16384).filter (fitsSlot s c)).map fun n => [n]

/-- Placement units that hold a task of a card (R193): a dispatch whose unit is not confirmed holds none yet, and a pre-empted task
holds none. -/
def heldUnits (s : State) (id : Nat) : Nat :=
  (s.tasks.filter fun t => t.2.card = id && !t.2.parked && t.2.stage ≠ .requested).length

/-- Whether a card's limit on placement units admits a further one, a dispatch on its way to its unit counted (R193). -/
def isBelowLimit (s : State) (c : Card) : Bool :=
  c.threads = 0 || (s.tasks.filter fun t => t.2.card = c.id && !t.2.parked).length < c.threads

/-- The size of the next new chunk (R193). [DESIGN CHOICE, log 57] -/
def chunkSize (s : State) (c : Card) : Nat :=
  let r := c.rcount - c.next
  let lim := if c.threads = 0 then 16384 else c.threads
  let w := max 1 (min lim (heldUnits s c.id + (freeUnits s c).length))
  let fw := 2 ^ c.chunkf * w
  min r (max c.minchunk ((r + fw - 1) / fw))

/-- A deal to a task that asks for its next chunk: a re-dealt chunk first, then new records (R193, R195, R202). A held card
deals nothing of its own (R232). -/
def dealNext (id : Nat) (s : State) : (Nat × Nat) × State :=
  match lookup id s.cards with
  | none => ((0, 0), s)
  | some c =>
    if 3 ≤ scopeState s c.scope then ((0, 0), s)
    else match c.redeals with
      | x :: rest => (x, s.onCard id fun c => { c with redeals := rest })
      | [] =>
        if c.watched || c.gang then ((0, 0), s)
        else
          let n := chunkSize s c
          ((c.next, n), s.onCard id fun c => { c with next := c.next + n })

/-- Chunks in the order of their first dealing, which is the order of their records (R193, R195). -/
def insertChunk (x : Nat × Nat) : List (Nat × Nat) → List (Nat × Nat)
  | [] => [x]
  | y :: ys => if x.1 ≤ y.1 then x :: y :: ys else y :: insertChunk x ys

/-- A placement that its die has not confirmed is refused, and its dispatch goes back to the head of its card's (R385, R386). -/
def refusePlacement (k : Task) (s : State) : State :=
  let s := s.onCard k.card fun c => { c with redeals := k.chunk :: c.redeals, count := c.count - 1 }
  { s with tasks := remove k.id s.tasks }

/-- The d3 and d4 of a chunk (R40, R193). -/
def chunkRegs (c : Card) (x : Nat × Nat) : Word × Word :=
  if x.2 = 0 then (0, 0) else (BitVec.ofNat 64 (c.rbase + x.1 * c.rsize), BitVec.ofNat 64 x.2)

/-- A task's energy that its card has not yet counted is added to the card's total (R197). -/
def countEnergy (id : Nat) (s : State) : State :=
  match lookup id s.tasks with
  | none => s
  | some k =>
    let total := (((s.th :: s.others) ++ s.parked).filter fun t => t.taskid = id).foldl (fun n t => n + t.ecount.toNat) 0
    let more := total - k.counted.toNat
    (s.onTask id fun k => { k with counted := BitVec.ofNat 64 (k.counted.toNat + more) }).onCard k.card fun c =>
      { c with energy := c.energy + more }

/-! ### Cancellation marks (R364) -/

/-- Every scope of a subtree becomes cancelling with a cause; its cards deal nothing further, its watches are disarmed, its
tasks are doomed and the marks are on their way (R364). -/
def markCancelling (root cause : Nat) (s : State) : State :=
  let ids := subtree s root
  let s : State := ids.foldl (fun s id => onScope id (fun r => if r.state < 3 then { r with state := 3, cause := cause } else r) s) s
  let abandon (c : Card) : Card := if ids.contains c.scope then { c with next := c.rcount, redeals := [], watchDeals := [] } else c
  let doom (t : Task) : Task := if ids.contains t.scope then { t with doomed := true } else t
  let s : State := { s with cards := s.cards.map fun (x : Nat × Card) => (x.1, abandon x.2) }
  let isMine (card : Nat) : Bool := (lookup card s.cards).any fun c => ids.contains c.scope
  let s := s.onMem fun m => { m with watches := m.watches.filter fun w => !(ids.contains w.2.scope || isMine w.2.card) }
  let hit := s.tasks.filter fun t => ids.contains t.2.scope && !t.2.doomed
  let s : State := { s with tasks := s.tasks.map fun (t : Nat × Task) => (t.1, doom t.2) }
  let s := { s with marks := s.marks ++ hit.flatMap fun t =>
    if t.2.parked || t.2.stage ≠ .running then [] else t.2.live }
  hit.foldl (fun s t =>
    if t.2.parked && !s.parked.any (fun u => u.taskid = t.1 && u.onc ≠ 0) then endTask t.1 cause s else s) s

/-! ### The end of a task (R203, R212, R363, R370) -/

/-- A status recorded in the scopes above an ended task (R363). -/
def noteEnd (scope status : Nat) (s : State) : State :=
  if status = 0 then s
  else (ancestry s scope).foldl (fun s id =>
    onScope id (fun r => { r with abn := r.abn + 1, first := if r.first = 0 then status else r.first }) s) s

/-- A thread leaves every set and its names are unbound (R203, R370). -/
def leaveAll (t : Thread) (s : State) : State := t.names.toList.foldl (fun s n => withdraw t.num n s) s

/-- The bytes, full bits and pending writers of a partition are forgotten when it is freed (R238). -/
def freePartition (t : Thread) (s : State) : State :=
  let lo := coreOf t.num * 327680 + 8192 * t.segBase
  let hi := lo + 8192 * t.segCount
  let glo := coreOf t.num * 20480 + 512 * t.segBase
  let ghi := glo + 512 * t.segCount
  s.onMem fun m =>
    { m with
      scratch := m.scratch.filter fun c => !(lo ≤ c.1 && c.1 < hi)
      full := m.full.filter fun g => !(glo ≤ g && g < ghi)
      pending := m.pending.filter fun g => !(glo ≤ g.1 && g.1 < ghi)
      poison := m.poison.filter fun p => !(2 ^ 50 ≤ p && lo ≤ 4 * (p - 2 ^ 50) && 4 * (p - 2 ^ 50) < hi) }

/-- Whether a thread's task is a triad, whose partitions stay until its last thread retires (R203). -/
def isTriad (s : State) (t : Thread) : Bool := (s.taskOf t).any fun k => (lookup k.card s.cards).any Card.triad

/-- Whether no engine operation, command, posted store or exchange addressed to a context's partition is in progress (R294, R356, R370). -/
def isPartitionIdle (s : State) (t : Thread) : Bool :=
  let lo := coreOf t.num * 327680 + 8192 * t.segBase
  let isIn (k : Nat) : Bool := lo ≤ k && k < lo + 8192 * t.segCount
  let meets (l : Loc) : Bool := match l with | .scr k => isIn k | _ => false
  let uses (j : Job) : Bool := match j with | .granule es _ => es.any fun e => meets e.src || meets e.dst | _ => false
  !(s.eng.ops.any fun o => (o.thread = t.num && o.home = t.taskid) || o.targets.contains (t.num, t.taskid) ||
      (o.todo ++ o.unclaimed s).any uses || o.marks.any isIn) &&
    !(s.stores.any fun r => isIn r.key) && !(s.eng.commands.any fun c => c.engine ≠ 1 && peerThread c.target = t.num) &&
    !(s.flights.any fun f => f.receiver = t.num && f.task = t.taskid)

/-- The partitions of ended tasks that something was still addressed to are freed once nothing is (R294, R370). -/
def sweepPartitions (s : State) : State :=
  let isOver (t : Thread) : Bool := !t.live && 0 < t.segCount && (lookup t.taskid s.tasks).isNone && isPartitionIdle s t
  if s.others.any isOver then
    { (s.others.filter isOver).foldl (fun s t => freePartition t s) s with others := s.others.filter fun t => !isOver t }
  else s

/-- A context freed: its sets left, its partition freed except in a triad (R203) and while something is addressed to it (R294, R370). Its
overflow pages and its energy stay until the task ends (R222, R197). -/
def freeContext (t : Thread) (s : State) : State :=
  let keeps := isTriad s t || (0 < t.segCount && !isPartitionIdle s t)
  let s := leaveAll t s
  let s := if keeps || t.evicted then s else freePartition t s
  let rest : Thread := { Thread.empty with num := t.num, taskid := t.taskid, asid := t.asid, segBase := t.segBase
                                           segCount := if keeps then t.segCount else 0, evicted := t.evicted
                                           ecount := t.ecount, spbase := t.spbase, ownPages := t.pages }
  let isIt (u : Thread) : Bool := u.num = t.num && u.taskid = t.taskid
  let s := { s with parked := s.parked.filter fun u => !isIt u, marks := s.marks.filter fun n => n ≠ t.num }
  sweepSets (if isIt s.th then { s with th := Thread.empty, others := rest :: s.others.filter fun u => !isIt u }
    else { s with others := rest :: s.others.filter fun u => !isIt u })

/-- A card's dispatch ends with a status (R212). -/
def endDispatch (card status : Nat) (s : State) : State :=
  settleCards (s.cards.length + 1) (s.onCard card fun c =>
    { c with
      count := c.count - 1
      abn := if status = 0 then c.abn else c.abn + 1
      first := if status ≠ 0 ∧ c.first = 0 then status else c.first })

/-- Every L1 of a cluster writes its dirty words to the slices and drops every line (R241). None while a slice has no room. -/
def dropClusterL1 (cluster : Nat) (s : State) : Option State := emptyL1 (fun w => clusterOfCore w.core = cluster) s

/-- Clusters that run fused without a fused task left become unfused (R241); one whose slices have no room follows with a later
end. -/
def unfuse (s : State) : State :=
  let done := s.mem.fused.filter fun f => !isClusterBusy s f.1
  done.foldl (fun s f => match dropClusterL1 f.1 s with
    | some s => s.onMem fun m => { m with fused := m.fused.filter fun x => x.1 ≠ f.1 }
    | none => s) s

/-- Whether something that a task sent is still on its way to memory, to a partition or to a thread (R375, R376). -/
def isStillSent (s : State) (id : Nat) : Bool :=
  (s.mem.posted.any fun p => p.taskid = id) || (s.packets.any fun p => p.task = id) || (s.stores.any fun r => r.task = id) ||
    s.fab.conns.any fun c => c.2.stores.any fun x => match x.2 with | .thread _ k => k = id | _ => false

/-- An ended task some of whose sending is still on its way, kept with its scope. -/
def keepTrailing (id scope : Nat) (s : State) : State :=
  { s with trailing := (s.trailing.filter fun x => isStillSent s x.1) ++ if isStillSent s id then [(id, scope)] else [] }

/-- What is left of a task goes (R203, R370 steps 5 and 6): opened scopes it owns close, its handles, keys and protections end,
contexts and partitions are freed. -/
def clearTask (id : Nat) (k : Task) (s : State) : State :=
  let s := countEnergy id s
  let mine (t : Thread) : Bool := t.taskid = id
  let s := (((s.th :: s.others) ++ s.parked).filter fun t => mine t && (t.live || s.parked.contains t)).foldl (fun s t => freeContext t s) s
  let isBusy (t : Thread) : Bool := 0 < t.segCount && !t.evicted && !isPartitionIdle s t
  let s := ((s.others.filter mine).foldl (fun s t => if t.evicted || isBusy t then s else freePartition t s) s)
  let s := { s with others := (s.others.filter fun t => !mine t || isBusy t).map fun t => if mine t then { t with ownPages := 0 } else t
                    gangs := remove id s.gangs
                    preempts := s.preempts.filter fun n => !k.slots.contains n }
  let s := s.onEng fun e =>
    { e with handles := e.handles.filter fun h => h.2.task ≠ id, keys := e.keys.filter fun x => x.task ≠ id }
  let s := s.onMem fun m => { m with prots := m.prots.filter fun p => p.task ≠ id }
  let s := (s.scopes.filter fun x => x.2.kind = 2 && x.2.owner = id).foldl (fun s x =>
    match x.2.state with
    | 1 => putScope x.1 (some { x.2 with state := 2 }) s
    | 4 => putScope x.1 none s
    | _ => s) s
  unfuse (sweepSets (keepTrailing id k.scope { s with tasks := remove id s.tasks }))

/-- A task is cleared and its card counts its end with a status (R203, R370 step 7, R212, R363). -/
def finishTask (id status : Nat) (s : State) : State :=
  match lookup id s.tasks with
  | none => s
  | some k =>
    let keep (c : Card) : Card :=
      if status ≠ 0 ∧ c.first = 0 then { c with trapRecord := k.record.filter fun r => r.1 < 3 } else c
    endDispatch k.card status (noteEnd k.scope status ((clearTask id k s).onCard k.card keep))

end Sys2Proof.Machine
end

