-- ==== Sys2Proof/Machine/Tasks.lean ====
section
/-! DEFINITION. The meanings of majors 0x30 and 0x33 (R201 to R204, R361 to R381): submitting, taking and ending work, and
the cancel scopes with a thread's observation of cancellation. -/

namespace Sys2Proof.Machine

/-! ### Submitting (R201) -/

/-- The scope that a name binds; SYNC UNBOUND or KIND otherwise (R206). -/
def boundScope (m : MReg) (s : State) : Run Nat :=
  match (s.th.getM m).bound with
  | .scope id => .ok id
  | .unbound => .error (.trap clsSync 0 0)
  | .set _ => .error (.trap clsSync 1 0)

/-- `jsub` and `spawn` (R201). In a cancel handler nothing is submitted (R369). -/
def submitWith (a b : DReg) (into : Option Nat) (s : State) : Run State := do
  let va := (s.getD b).toNat
  if s.th.inHandler then .ok ((s.setD a (BitVec.ofNat 64 statusCancelled)).advance 4)
  else
    let s ← releaseAt (scopeLevel .device) s
    let (bs, s) ← readAtBank va 64 s
    let (st, _, s) := submit { scope := s.th.scopeid, spawn := into, asid := s.th.asid, thread := some s.th.num } bs s
    .ok ((s.setD a (BitVec.ofNat 64 st)).advance 4)

/-- `jsub` (R201). -/
def execJsub (a b : DReg) (s : State) : Host.Outcome State Fault Refusal :=
  finishRun s (do
    needGlobalAligned (s.getD b).toNat 64
    submitWith a b none s)

/-- `spawn` (R201, R49). -/
def execSpawn (a b : DReg) (m : MReg) (s : State) : Host.Outcome State Fault Refusal :=
  finishRun s (do
    needGlobalAligned (s.getD b).toNat 64
    let id ← boundScope m s
    submitWith a b (some id) s)

/-! ### Taking work (R202, R40, R194, R219, R231) -/

/-- `jnext` (R202): the thread's next chunk of its task. Whichever thread of the task asks first has it dealt, and then waits for
the deal: what happens to it at that kill point happens after the chunk has been dealt (R382). -/
def execJnext (s : State) : Host.Outcome State Fault Refusal :=
  finishRun s (
    let give (r : Word × Word) (s : State) : State := ((s.setD 3 r.1).setD 4 r.2).advance 4
    match s.taskOf s.th with
    | none => .ok (give (0, 0) s)
    | some k =>
      let s := countEnergy k.id s
      match lookup k.card s.cards with
      | none => .ok (give (0, 0) s)
      | some c =>
        if s.th.inHandler || c.gang || 3 ≤ scopeState s c.scope then .ok (give (0, 0) s)
        else
          let n := s.th.dealt + 1
          match k.deals[n]? with
          | some x => .ok (give (chunkRegs c x) { s with th := { s.th with dealt := n } })
          | none => .error (.waitAfter fun s =>
              let s := countEnergy k.id s
              let r := dealNext c.id s
              r.2.onTask k.id fun k => { k with deals := k.deals ++ [r.1] }))

/-! ### Ending and offering (R203, R204, R369) -/

/-- `done` (R203): the thread's counts, its task's operations and a release of device scope are waited for; then the thread
retires, and with its last thread the task. In a cancel handler it ends as a killed thread ends, CANCELLED (R369). [DEDUCED, log 65] -/
def execDone (s : State) : Host.Outcome State Fault Refusal :=
  finishRun s (do
    await (s.th.cntRemote = 0 && s.th.cntGlobal = 0 && s.th.cntDevice = 0)
    await (!s.eng.ops.any fun o => o.task = s.th.taskid && !o.command)
    let s ← releaseAt (scopeLevel .device) s
    if s.th.inHandler then .ok (killWith statusCancelled s)
    else match s.taskOf s.th with
      | none => .ok { s with th := Thread.empty }
      | some k =>
        if k.live.all fun n => n = s.th.num then
          if (lookup 3 k.record).isSome then .ok (freeContext s.th (endThread s.th.num k.id none s))
          else .ok (finishTask k.id 0 s)
        else .ok (freeContext s.th (endThread s.th.num k.id none s)))

/-- Whether a card could be placed in a unit that includes a slot, were the slot free with its partition still held (R204,
R349). -/
def couldTake (s : State) (c : Card) (num : Nat) : Bool :=
  let s' := { s with th := if s.th.num = num then { s.th with live := false } else s.th
                     others := s.others.map fun t => if t.num = num then { t with live := false } else t }
  let core := coreOf num
  fitsSlot s' c num &&
    (if c.gang then c.rcount ≤ ((List.range 4096).filter fun k => k ≠ core && (lowestSlot s' c k).isSome).length + 1
     else if c.triad then
       core % 4 ≠ 0 && [1, 2, 3].all fun i => core % 4 = i || (lowestSlot s' c (core / 4 * 4 + i)).isSome
     else if c.phrase then
       (List.range c.pwidth).any fun i => i ≤ rowPosition core &&
         fitsUnit s' c ((List.range c.pwidth).map fun j => 4 * coreInRow core (rowPosition core - i + j) + num % 4)
     else true)

/-- A card's dispatch may go on: it is queued, its scope is not cancelling, and its limit on placement units is not
reached (R193). -/
def mayPlace (s : State) (c : Card) : Bool :=
  c.isQueued && scopeState s c.scope < 3 && isBelowLimit s c &&
    (!c.watched || !c.watchDeals.isEmpty || !c.redeals.isEmpty)

/-- The pre-emption of the context in a slot is asked for; a doomed task is never pre-empted again (R364). -/
def askPreempt (num : Nat) (s : State) : State :=
  match s.thread? num with
  | some t => if (s.taskOf t).any fun k => k.doomed then s
    else { s with preempts := if s.preempts.contains num then s.preempts else s.preempts ++ [num] }
  | none => s

/-- `yield` (R204): its unit is pre-empted after the instruction, or the thread gives up its next issue turn and goes on. -/
def execYield (s : State) : Host.Outcome State Fault Refusal :=
  finishRun s (
    let own := match s.taskOf s.th with
      | some k => (lookup k.card s.cards).map Card.rank
      | none => none
    let wanted := own.any fun r => s.cards.any fun c => c.2.rank < r && mayPlace s c.2 && couldTake s c.2 s.th.num
    .ok (let s' := s.advance 4
         if wanted then askPreempt s.th.num s' else { s' with th := { s'.th with yields := true } }))

/-! ### Observation of cancellation (R366) -/

/-- A thread observes: its handler is entered, or it ends. -/
def observe (s : State) : State :=
  if s.th.onc ≠ 0 && !s.th.inHandler then
    takeTrap clsCancel 0 0 { s with th := { s.th with observed := true } }
  else killHere { s with th := { s.th with observed := true } }

/-- Whether the thread in focus is to observe at a kill point that it reaches now: in user mode, doomed and marked, once. -/
def isDoomed (s : State) : Bool := !isSupervisor s.th.status && s.th.marked && !s.th.observed

/-! ### The scope instructions (R378 to R381, R367) -/

/-- `scope` (R378). -/
def execScope (m : MReg) (s : State) : Host.Outcome State Fault Refusal :=
  finishRun s (do
    require ((s.th.getM m).bound = .unbound) clsSync 3
    match createScope s.th.scopeid 2 s.th.taskid s with
    | none => .error (.trap clsSync 2 0)
    | some (id, s) => .ok ({ s with th := s.th.setM m { bound := .scope id } }.advance 4))

/-- Whether a scope's subtree holds no task, no queued card or pending dispatch, no live child scope and no incomplete
operation of its tasks (R362). -/
def isScopeIdle (s : State) (id : Nat) : Bool :=
  !(s.tasks.any fun t => t.2.scope = id) && !(s.cards.any fun c => c.2.scope = id && !c.2.complete) &&
    !(s.scopes.any fun x => x.2.parent = id) && !(s.eng.ops.any fun o => o.scope = id) && !(s.eng.commands.any fun c => c.scope = id)

/-- The overflow page that the next packet of a thread goes to: one that it keeps, else one that the device took and that has room,
else a further one where the pool has it (R222). [DEDUCED, log 72] -/
def nextPage (t : Thread) (free : Nat) : Option Nat :=
  let held (n : Nat) : Nat := t.places.count n
  if held 0 < 256 * t.ownPages then some 0
  else match t.taken.find? fun n => held n < 256 with
    | some n => some n
    | none => if 0 < free then some (t.taken.foldl max 0 + 1) else none

/-- A packet placed for a thread: in its queue, its overflow area, or lost (R222). -/
def placePacket (p : Msg) (t : Thread) (free : Nat) : Thread :=
  if t.queue.length < 16 && t.beyond.isEmpty then { t with queue := t.queue ++ [p], event := true }
  else match nextPage t free with
    | some n => { t with beyond := t.beyond ++ [p], places := t.places ++ [n], event := true }
    | none => { t with lost := min 65535 (t.lost + 1) }

/-- A packet placed for the context in a slot. -/
def deliverPacket (num : Nat) (p : Msg) (s : State) : State :=
  match s.thread? num with
  | none => onDie (dieOfCore (coreOf num)) (fun d => { d with discard := d.discard + 1 }) s
  | some t => s.onThread num fun _ => placePacket p t (freePages s)

/-- The summary packet of `scope.close` (R379). -/
def summaryPacket (t : Thread) (id : Nat) (r : ScopeRec) : Msg :=
  { sender := t.num, topinf := topinfOf t.fmode
    body := lanesFrom fun i => BitVec.ofNat 32 (match i with | 0 => id | 2 => r.first | 4 => r.abn | _ => 0) }

/-- `scope.close` (R379): the scope closes at once; the thread waits until it can be freed. -/
def execScopeClose (m : MReg) (s : State) : Host.Outcome State Fault Refusal :=
  finishRun s (do
    let id ← boundScope m s
    let finish (s : State) : State :=
      let s := acquire (scopeLevel .device) s
      { s with th := s.th.setM m {} }.advance 4
    match s.scope? id with
    | none => .ok (finish s)
    | some r =>
      if (r.state = 2 || r.state = 1 || r.state = 4) && isScopeIdle s id then
        let s := finish s
        let s := if r.abn ≠ 0 then deliverPacket s.th.num (summaryPacket s.th id r) s else s
        .ok (putScope id none s)
      else if r.state = 1 then
        if s.th.inHandler then .error .block else .error (.waitIn (onScope id (fun r => { r with state := 2 }) s))
      else .error .block)

/-- Whether a scope is the task's own, an ancestor of it or a descendant of it. -/
def isRelated (s : State) (id : Nat) : Bool := isUnder s s.th.scopeid id || isUnder s id s.th.scopeid

/-- The cancellation of a scope, after its release (R380); the issuer of its own scope's cancellation observes at once. -/
def cancelScope (id : Nat) (s : State) : State :=
  let isOwn := isUnder s s.th.scopeid id
  let s := if scopeState s id = 1 || scopeState s id = 2 then markCancelling id statusCancelled s else s
  if isOwn && 3 ≤ scopeState s id && (s.taskOf s.th).any (fun k => k.doomed) && !isSupervisor s.th.status && !s.th.observed then
    observe { s with marks := s.marks.filter fun n => n ≠ s.th.num, th := { s.th with marked := true } }
  else s

/-- `cancel` of a bound scope (R380). -/
def execCancel (m : MReg) (s : State) : Host.Outcome State Fault Refusal :=
  finishRun s (do
    let id ← boundScope m s
    let s ← releaseAt (scopeLevel .device) s
    .ok (cancelScope id (s.advance 4)))

/-- The identifier in a register (R380). -/
def scopeOperand (a : DReg) (s : State) : Run Nat := do
  require ((s.getD a).toNat < 65536) clsIll illValue
  .ok (s.getD a).toNat

/-- `cancel` of an identifier (R380). -/
def execCancelById (a : DReg) (s : State) : Host.Outcome State Fault Refusal :=
  finishRun s (do
    let id ← scopeOperand a s
    match s.scope? id with
    | none => .ok ((s.setD a (BitVec.ofNat 64 statusScope)).advance 4)
    | some r =>
      if r.kind = 0 || !isRelated s id then .ok ((s.setD a (BitVec.ofNat 64 statusScope)).advance 4)
      else
        let s ← releaseAt (scopeLevel .device) s
        .ok (cancelScope id ((s.setD a 0).advance 4)))

/-- The wait of `cancel.w` (R381). -/
def awaitCancelled (id : Nat) (s : State) : Run State := do
  blockUntil (scopeState s id = 4 || scopeState s id = 0)
  .ok (acquire (scopeLevel .device) s)

/-- `cancel.w` of a bound scope (R381). -/
def execCancelW (m : MReg) (s : State) : Host.Outcome State Fault Refusal :=
  finishRun s (do
    let id ← boundScope m s
    let s ← awaitCancelled id s
    .ok (s.advance 4))

/-- `cancel.w` of an identifier (R381): a free one returns at once. -/
def execCancelWById (a : DReg) (s : State) : Host.Outcome State Fault Refusal :=
  finishRun s (do
    let id ← scopeOperand a s
    if (s.scope? id).any fun r => r.kind = 0 || !isRelated s id then
      .ok ((s.setD a (BitVec.ofNat 64 statusScope)).advance 4)
    else
      let s ← awaitCancelled id s
      .ok ((s.setD a 0).advance 4))

/-- `onc` (R367). -/
def execOnc (a : DReg) (s : State) : Host.Outcome State Fault Refusal :=
  finishRun s (do
    require ((s.getD a).toNat % 4 = 0) clsIll illValue
    .ok ({ s with th := { s.th with onc := s.getD a } }.advance 4))

end Sys2Proof.Machine
end

