-- ==== Sys2Proof/Machine/Sync.lean ====
section
/-! DEFINITION. The meanings of majors 0x31, 0x32 and 0x34 (R205 to R224, R232, R233): membership sets and barriers, watches,
phrases, and messages. -/

namespace Sys2Proof.Machine

/-! ### Sets (R207, R209) -/

/-- SYNC with a subcode unless the condition holds. -/
def syncCheck (ok : Bool) (sub : Nat) : Run Unit := require ok clsSync sub

/-- A name of the thread in focus replaced. -/
def State.setM (s : State) (m : MReg) (n : NameEnt) : State := { s with th := s.th.setM m n }

/-- A set's record replaced. -/
def putSet (id : Nat) (r : SetRec) (s : State) : State := { s with sets := insert id r s.sets }

/-- The name that keeps a thread's membership of a set: the one by which it joined. -/
def memberName (t : Thread) (id : Nat) : Option MReg :=
  ((List.range 16).map (BitVec.ofNat 4)).find? fun m => (t.getM m).member && (t.getM m).bound = .set id

/-- The name that keeps what a thread has of the set bound to a name: its membership's, else that name itself (R209). -/
def setName (t : Thread) (id : Nat) (m : MReg) : MReg := (memberName t id).getD m

/-- `mset` (R207). -/
def execMset (m : MReg) (b : DReg) (s : State) : Host.Outcome State Fault Refusal :=
  finishRun s (do
    let v := (s.getD b).toNat
    require (v < 16384) clsIll illValue
    let n := s.th.getM m
    syncCheck (match n.bound with | .unbound => true | .scope _ => false | .set id => (memberName s.th id).isNone) 3
    if v = 0 then
      match pickFree 1 16383 (fun i => (lookup i s.sets).isSome) s with
      | none => .error (.trap clsSync 2 0)
      | some id =>
        let s := (putSet id {} s).setM m { bound := .set id }
        .ok ((sweepSets (s.setD b (BitVec.ofNat 64 id))).advance 4)
    else
      syncCheck (lookup v s.sets).isSome 0
      .ok ((sweepSets (s.setM m { bound := .set v })).advance 4))

/-- `join` (R209). -/
def execJoin (m : MReg) (s : State) : Host.Outcome State Fault Refusal :=
  finishRun s (do
    let id ← boundSet m s
    let n := s.th.getM m
    syncCheck (memberName s.th id).isNone 4
    let r := s.set id
    .ok ((putSet id { r with e := r.e + 1 } (s.setM m { n with member := true, arrived := none, byBar := none })).advance 4))

/-- `leave` (R209): the membership ends, by whichever name it is kept, and mA is unbound. -/
def execLeave (m : MReg) (s : State) : Host.Outcome State Fault Refusal :=
  finishRun s (do
    let id ← boundSet m s
    match memberName s.th id with
    | none => .error (.trap clsSync 5 0)
    | some k =>
      let s := (withdraw s.th.num (s.th.getM k) s).setM k { bound := .set id }
      .ok ((sweepSets (s.setM m {})).advance 4))

/-- `bar.a` (R209): the arrival, after the release. `byBar` is the address of a `bar` whose arrival it is. -/
def arrive (m : MReg) (byBar : Option Word) (s : State) : Run State := do
  let id ← boundSet m s
  let k := setName s.th id m
  let n := s.th.getM k
  syncCheck n.member 5
  syncCheck (!isArrived s n) 6
  let l := setLevel id s
  let s ← keepLevel l (releaseAt l s)
  let r := s.set id
  let s := s.setM k { n with arrived := some r.p, byBar := byBar }
  let r := { r with a := r.a + 1, here := r.here ++ [s.th.num] }
  .ok (putSet id (if r.a = r.e then r.release else r) s)

/-- `bar.w` (R209): the wait for the release of the phase, and the acquire, which takes in every thread that arrived in the
phase, whether or not it has left the set since (R211). -/
def awaitPhase (m : MReg) (s : State) : Run State := do
  let id ← boundSet m s
  let k := setName s.th id m
  let n := s.th.getM k
  match n.arrived with
  | none => .error (.trap clsSync 7 0)
  | some p =>
    let l := setLevel id s
    if p < (s.set id).p then
      let t := (acquire (max l (levelAmong (s.set id).last s)) s).setM k { n with arrived := none, byBar := none }
      .ok { t with th := { t.th with level := 0 } }
    else if s.th.inHandler then .error .block
    else .error (.waitIn { s with th := { s.th with level := l } })

/-- `bar.a` (R209). -/
def execBarA (m : MReg) (s : State) : Host.Outcome State Fault Refusal :=
  finishRun s ((arrive m none s).map fun s => s.advance 4)

/-- `bar.w` (R209). -/
def execBarW (m : MReg) (s : State) : Host.Outcome State Fault Refusal :=
  finishRun s ((awaitPhase m s).map fun s => s.advance 4)

/-- `bar` (R209): `bar.a`, then `bar.w`. A `bar` that executes again after a wait finds the arrival that it has made, and goes on
from it (R353). [DEDUCED, log 14] -/
def execBar (m : MReg) (s : State) : Host.Outcome State Fault Refusal :=
  finishRun s (do
    let id ← boundSet m s
    let n := s.th.getM (setName s.th id m)
    let s ← if n.arrived.isSome && n.byBar = some s.th.pc then .ok s else arrive m (some s.th.pc) s
    (awaitPhase m s).map fun s => s.advance 4)

/-! ### Waiting instructions treated as not executed (R98, R209, R216) -/

/-- Whether the thread in focus waits only for the reply to a request that it has sent, or for the acknowledgement of what it has
written: such an access completes (R255). [DEDUCED, log 14] -/
def isCommitted (s : State) : Bool := !s.th.replies.isEmpty || s.th.acted.isSome

/-- Whether the exchange of the thread in focus has started. -/
def isExchanging (s : State) : Bool := (lookup s.th.taskid s.gangs).any fun g => g.started

/-- What a waiting instruction of the thread in focus has begun is taken back: the arrival of a `step` whose exchange has not started,
the offer of a phrase, the operations covered by an `mstat`, what it kept or asked for. A recorded arrival at a set stays (R353). -/
def undoWait (s : State) : State :=
  let s := forgetWaits s
  { s with th := { s.th with
    micro := 0
    awaits := 0
    level := 0
    waiting := false
    exch := { s.th.exch with arrived := s.th.exch.arrived && isExchanging s }
    phrase := match s.th.phrase with | .leading _ => .none | .joining _ => .none | p => p } }

/-! ### Watches (R232, R233) -/

/-- `watch` (R232); one whose card has no record has dealt them all, and disarms (R233). -/
def execWatch (a b c d : DReg) (k : Word) (s : State) : Host.Outcome State Fault Refusal :=
  finishRun s (do
    let x := (s.getD c).toNat
    let n := bits x 63 60 + 1
    let va := bits x 55 3 * 8
    require (bits x 59 56 = 0 && bits x 2 0 = 0 && va % 128 + 8 * n ≤ 128) clsIll illValue
    let card := (s.getD b).toNat
    needGlobalAligned card 64
    let (bs, s) ← readAtBank card 64 s
    require (16 ≤ (parseCard bs).rsize) clsIll illValue
    let fail (st : Nat) (s : State) : Run State := .ok ((s.setD a (BitVec.ofNat 64 (2 ^ 63 + st))).advance 20)
    match submit { scope := s.th.scopeid, spawn := some s.th.scopeid, asid := s.th.asid, thread := some s.th.num
                   watched := true } bs s with
    | (0, id, s') =>
      let home := watchPlace s s.th.asid va
      if 16 ≤ (s.mem.watches.filter fun w => w.2.home = home).length then
        fail statusWatchFull s
      else match pickFree 1 65535 (fun i => (lookup i s.mem.watches).isSome) s with
        | none => fail statusWatchFull s
        | some w =>
          let r : WatchRec := { card := id, scope := s.th.scopeid, asid := s.th.asid, addr := va, words := n
                                mask := s.getD d, cmp := k, home := home }
          let s := ((s'.onMem fun m => { m with watches := m.watches ++ [(w, r)] }).setD a (BitVec.ofNat 64 w)).advance 20
          .ok (if (parseCard bs).rcount = 0 then settleCards (s.cards.length + 1) (disarm id s) else s)
    | (st, _, _) => fail st s)

/-- `unwatch` (R233): a watch that the task's scope does not own is ignored. -/
def execUnwatch (a : DReg) (s : State) : Host.Outcome State Fault Refusal :=
  finishRun s (
    match (s.mem.watches.find? fun w => w.1 = (s.getD a).toNat) with
    | some w =>
      if w.2.scope ≠ s.th.scopeid then .ok (s.advance 4)
      else .ok ((settleCards (s.cards.length + 1) (disarm w.2.card s)).advance 4)
    | none => .ok (s.advance 4))

/-! ### Phrases (R216 to R219) -/

/-- PHRASE NESTED on a thread that is in a phrase. -/
def notNested (t : Thread) : Run Unit :=
  require (match t.phrase with | .head _ => false | .dependent _ => false | _ => true) clsPhrase 0

/-- The slots of a phrase of width `w` headed in a slot, its head first (R216). -/
def phraseSlots (head w : Nat) : List Nat :=
  (List.range w).map fun i => 4 * coreInRow (coreOf head) (rowPosition (coreOf head) + i) + head % 4

/-- A thread goes on as a member of a phrase that forms (R216), from a kill point (R365). -/
def Thread.enterPhrase (t : Thread) (role : PhraseRole) (pc : Word) : Thread :=
  { t with phrase := role, pc := pc, waiting := false, killCount := 0 }

/-- Whether the context in a slot waits in `phr.join` for a head. -/
def isJoining (s : State) (headCore num : Nat) : Bool := (s.thread? num).any fun t => t.phrase = .joining headCore

/-- The dependents of a head go on with it at an address. -/
def enterDependents (headCore : Nat) (slots : List Nat) (pc : Word) (s : State) : State :=
  slots.foldl (fun s n => s.onThread n fun t => t.enterPhrase (.dependent headCore) pc) s

/-- `phr.lead` (R216): the phrase forms once every dependent has joined. -/
def execPhrLead (a : DReg) (s : State) : Host.Outcome State Fault Refusal :=
  finishRun s (do
    let w := (s.getD a).toNat
    require (2 ≤ w && w ≤ 16) clsIll illValue
    notNested s.th
    require (rowPosition (coreOf s.th.num) + w ≤ 16) clsPhrase 1
    let deps := (phraseSlots s.th.num w).drop 1
    let core := coreOf s.th.num
    if deps.all (isJoining s core) then
      let pc := s.th.pc + 4
      let s := enterDependents core deps pc s
      .ok { s with th := s.th.enterPhrase (.head w) pc }
    else if s.th.inHandler then .error .block
    else .error (.waitIn { s with th := { s.th with phrase := .leading w } }))

/-- `phr.join` (R216): the last dependent that its head waits for forms the phrase; another waits until it forms. The operand names the
head's core alone: a head on another slot is found where one leads there and no thread of this slot can [DESIGN CHOICE, log 98]. -/
def execPhrJoin (a : DReg) (s : State) : Host.Outcome State Fault Refusal :=
  finishRun s (do
    let h := bits (s.getD a).toNat 11 0
    notNested s.th
    let core := coreOf s.th.num
    let p := rowPosition core
    let q := rowPosition h
    let head := 4 * h + s.th.num % 4
    let reach : Bool := match s.thread? head with
      | some t => match t.phrase with | .leading w => p < q + w | .head w => p < q + w | _ => true
      | none => true
    let isOther (t : Thread) : Bool := coreOf t.num = h && t.num ≠ head && match t.phrase with | .leading _ | .head _ => true | _ => false
    let mayLead : Bool := (s.thread? head).any fun t => match t.phrase with | .none | .leading _ | .head _ => true | _ => false
    require (coreInRow h p = core && q < p && reach && (mayLead || !s.threads.any isOther)) clsPhrase 1
    let formed : Option State := (s.thread? head).bind fun t => match t.phrase with
      | .leading w =>
        let deps := ((phraseSlots head w).drop 1).filter fun n => n ≠ s.th.num
        if deps.all (isJoining s h) then
          let pc := t.pc + 4
          let s := (enterDependents h deps pc s).onThread head fun t => t.enterPhrase (.head w) pc
          some { s with th := s.th.enterPhrase (.dependent h) pc }
        else none
      | _ => none
    match formed with
    | some s => .ok s
    | none =>
      if s.th.inHandler then .error .block
      else .error (.waitIn { s with th := { s.th with phrase := .joining h } }))

/-- `phr.end` (R219): each member goes on for itself. The spec does not say what it does outside a phrase: the thread goes on
[DESIGN CHOICE, log 82]. -/
def execPhrEnd (s : State) : Host.Outcome State Fault Refusal :=
  finishRun s (.ok ({ s with th := { s.th with phrase := .none } }.advance 4))

/-! ### Messages (R220 to R224) -/

/-- `snd` (R220): the packet is posted and counted in the remote-scratch class. -/
def execSnd (a : DReg) (b : VReg) (s : State) : Host.Outcome State Fault Refusal :=
  finishRun s (do
    let n := (s.getD a).toNat
    require (n < 16384) clsIll illValue
    let t ← useStreams none [b] s
    let p : Packet := { sender := s.th.num, task := s.th.taskid, target := n
                        msg := { sender := s.th.num, topinf := topinfOf s.th.fmode, body := readVec s b } }
    .ok ({ t with packets := t.packets ++ [p], th := { t.th with cntRemote := t.th.cntRemote + 1 } }.advance 4))

/-- `rcv` (R223). -/
def execRcv (a : VReg) (b : DReg) (s : State) : Host.Outcome State Fault Refusal :=
  finishRun s (do
    let t ← useStreams (some a) [] s
    require (s.th.lost = 0) clsMessage 0 (BitVec.ofNat 64 s.th.lost)
    match s.th.queue with
    | [] => .error .block
    | p :: rest =>
      require (p.topinf = topinfOf s.th.fmode) clsTopcode 0
      let t := writeVec a (BitVec.allOnes 32) (lane p.body) t
      let t := { t with th := { t.th with queue := rest } }.setD b (BitVec.ofNat 64 p.sender)
      .ok ({ t with th := t.th.requeue }.advance 4))

/-- `rcvq` (R224). -/
def execRcvq (a : DReg) (s : State) : Host.Outcome State Fault Refusal :=
  finishRun s (.ok ((s.setD a (BitVec.ofNat 64
    (s.th.queue.length + 65536 * (s.th.beyond.length % 4294967296) + 281474976710656 * min s.th.lost 65535))).advance 4))

end Sys2Proof.Machine
end

