-- ==== Sys2Proof/Machine/Exchange.lean ====
section
/-! DEFINITION. The meanings of major 0x35 and the exchange of a gang (R225 to R230, R234, R235, R340, R358, R359, R374): the
timetable, the sources, the coordinate packets, `step`, and the events by which an exchange runs. -/

namespace Sys2Proof.Machine

/-! ### The gang of a thread (R194) -/

/-- The gang task of the thread in focus, with its card. -/
def gangOf (s : State) : Option (Task × Card) :=
  match s.taskOf s.th with
  | none => none
  | some k => match lookup k.card s.cards with
    | some c => if c.gang then some (k, c) else none
    | none => none

/-- EXCHANGE NOT_GANG for a thread that is not in a gang. -/
def needGang (s : State) : Run (Task × Card) :=
  match gangOf s with
  | some x => .ok x
  | none => .error (.trap clsExchange 4 0)

/-- A member of a gang, by rank, while its context holds its slot. -/
def member (k : Task) (rank : Nat) (s : State) : Option Thread :=
  match k.slots[rank]? with
  | some n => (s.thread? n).filter fun t => t.taskid = k.id
  | none => none

/-- The rank of a slot in a gang. -/
def rankOf (k : Task) (num : Nat) : Nat := k.slots.findIdx fun n => n = num

/-- The level at which arrival and return synchronise: the gang's lowest common one (R272). -/
def gangLevel (k : Task) : Nat :=
  match k.slots.foldl (fun l n => max l (commonLevel ((k.slots[0]?).getD 0) n)) 1 with
  | 1 => 1 | 2 => 3 | 3 => 3 | _ => 5

/-! ### The timetable (R225, R226) -/

/-- A timetable entry from its 16 bytes. -/
def parseEntry (bs : List Byte) : TtEntry :=
  let f (k n : Nat) : Nat := natOfBytes ((bs.drop k).take n)
  { doff := f 0 4, drank := f 4 2, cycle := f 6 2, slot := f 8 1, flits := f 9 1 }

/-- Whether an entry is as R225 lays it out, its slot unused and its rank inside the gang. -/
def entryOk (size : Nat) (used : List TtEntry) (bs : List Byte) : Bool :=
  let e := parseEntry bs
  let f (k n : Nat) : Nat := natOfBytes ((bs.drop k).take n)
  e.doff % 16 = 0 && 1 ≤ e.flits && e.flits ≤ 16 && f 10 1 ≤ 1 && f 11 5 = 0 && e.drank < size &&
    !used.any fun u => u.slot = e.slot

/-- The entries from an offset on, with at most `n` left; EADDR is the offset of the entry that breaks a rule. Each entry is checked whole
before the next is read, its place first: how many there are shows only in reading them [DESIGN CHOICE, log 58]. -/
def readEntries (size : Nat) (s : State) : Nat → Nat → List TtEntry → Run (List TtEntry)
  | 0, _, es => .ok es
  | n + 1, o, es => do
    needBound s.th o 16
    let bs ← readScratch o 16 s
    let isLast : Bool := natOfBytes ((bs.drop 10).take 1) = 1
    require (entryOk size es bs && (isLast || n ≠ 0)) clsExchange 0 (BitVec.ofNat 64 o)
    if isLast then .ok (es ++ [parseEntry bs]) else readEntries size s n (o + 16) (es ++ [parseEntry bs])

/-- The exchange state of the thread in focus replaced. -/
def State.setExch (s : State) (x : Exchange) : State := { s with th := { s.th with exch := x } }

/-- `xtt` (R226). -/
def timetable (len : Nat) (a : DReg) (s : State) : Run State := do
  let (_, c) ← needGang s
  let o := (s.getD a).toNat
  needAligned o 16
  let es ← readEntries c.rcount s 256 o []
  .ok ((s.setExch { s.th.exch with table := es }).advance len)

/-- `xtt` (R226). -/
def execXtt (a : DReg) (s : State) : Host.Outcome State Fault Refusal := finishRun s (timetable 4 a s)
/-- `xtt` in the X form (R226). -/
def execXttX (a : DReg) (s : State) : Host.Outcome State Fault Refusal := finishRun s (timetable 12 a s)

/-- `xsend` (R227). -/
def nameSource (len slot off : Nat) (b : DReg) (s : State) : Run State := do
  let x := s.th.exch
  match x.table.find? fun e => e.slot = slot with
  | none => .error (.trap clsExchange 1 0)
  | some e =>
    let o := (s.getD b + BitVec.ofNat 64 off).toNat
    needAligned o 16
    needBound s.th o (128 * e.flits)
    .ok ((s.setExch { x with sources := insert slot o x.sources }).advance len)

/-- `xsend` (R227). -/
def execXsend (slot : BitVec 5) (b : DReg) (off : BitVec 5) (s : State) : Host.Outcome State Fault Refusal :=
  finishRun s (nameSource 4 slot.toNat off.toNat b s)
/-- `xsend` in the X form (R227). -/
def execXsendX (slot : BitVec 8) (b : DReg) (off16 : BitVec 24) (s : State) : Host.Outcome State Fault Refusal :=
  finishRun s (nameSource 12 slot.toNat (16 * off16.toNat) b s)

/-! ### Coordinate packets (R228) -/

/-- A gather or a scatter-add posted; those beyond 4·XBOUND are discarded and counted. [DEDUCED, log 58] -/
def postCoord (len : Nat) (isAdd : Bool) (a b c : DReg) (s : State) : Run State := do
  let x := (s.getD b).toNat
  let owner := (s.getD a).toNat
  let ty := bits x 35 32
  let words := bits x 43 36 + 1
  require (owner < 65536) clsIll illValue
  require (bits x 63 44 = 0 && words ≤ 32 && (if isAdd then ty = 2 || ty = 6 || ty = 8 else ty = 0)) clsIll illValue
  let (size, bound) := match gangOf s with | some (_, card) => (card.rcount, card.xbound) | none => (0, 0)
  require (owner < size) clsExchange 2
  needAligned (bits x 31 0) 4
  let o := (s.getD c).toNat
  needAligned o 4
  needBound s.th o (4 * words)
  let bs ← if isAdd then readScratch o (4 * words) s else .ok []
  let values : List Lane := if isAdd then (List.range words).map fun i => BitVec.ofNat 32 (natOfBytes ((bs.drop (4 * i)).take 4))
    else []
  let e := s.th.exch
  let p : Coord := { add := isAdd, owner := owner, ooff := bits x 31 0, ty := ty, words := words, localOff := o, values := values
                     rm := bits s.th.fmode.toNat 1 0, topinf := topinfOf s.th.fmode, seq := e.posted.length }
  let e := if e.posted.length < 4 * bound then { e with posted := e.posted ++ [p] } else { e with beyond := e.beyond + 1 }
  .ok ((s.setExch e).advance len)

/-- `xreq` (R228). -/
def execXreq (a b c : DReg) (s : State) : Host.Outcome State Fault Refusal := finishRun s (postCoord 4 false a b c s)
/-- `xreq` in the X form (R228). -/
def execXreqX (a b c : DReg) (s : State) : Host.Outcome State Fault Refusal := finishRun s (postCoord 12 false a b c s)
/-- `xadd` (R228). -/
def execXadd (a b c : DReg) (s : State) : Host.Outcome State Fault Refusal := finishRun s (postCoord 4 true a b c s)
/-- `xadd` in the X form (R228). -/
def execXaddX (a b c : DReg) (s : State) : Host.Outcome State Fault Refusal := finishRun s (postCoord 12 true a b c s)

/-! ### The course of an exchange (R229, R230, R235) -/

/-- A change to a gang's exchange. -/
def onGang (id : Nat) (f : GangExch → GangExch) (s : State) : State :=
  { s with gangs := insert id (f ((lookup id s.gangs).getD {})) s.gangs }

/-- The poisoned words among `n` array bytes from a key up (R245). -/
def poisonedWords (s : State) (key n : Nat) : List Nat := (List.range (n / 4)).filter fun i => scratchPoisoned s (key + 4 * i) 4

/-- The flits that a member's sources give, with the mesh cycles at which they leave. A source named before a later `xtt` of the step is
kept, with the new entry's FLITS and no further check of its bound [DESIGN CHOICE, log 89]. -/
def flitsOf (k : Task) (t : Thread) (s : State) : List (Nat × Flight) :=
  t.exch.sources.flatMap fun x =>
    match t.exch.table.find? fun e => e.slot = x.1 with
    | none => []
    | some e => (List.range e.flits).map fun i =>
      let key := scratchKey t (x.2 + 128 * i)
      (e.cycle + i,
        { task := k.id, sender := t.num, receiver := (k.slots[e.drank]?).getD 0, coord := none, first := e.doff
          doff := e.doff + 128 * i
          last := e.doff + 128 * e.flits, bytes := scratchBytes s key 128, poison := poisonedWords s key 128
          topinf := topinfOf t.fmode, isReply := false, slot := x.1 })

/-- The coordinate packets of a member: those it posted, then its replies to the gathers of the last exchange, which hold its
scratch as it stands now. A reply carries the owner's TOPINF [DEDUCED, log 40]. -/
def coordsOf (k : Task) (g : GangExch) (t : Thread) (s : State) : List Flight :=
  (t.exch.posted.map fun p =>
    { task := k.id, sender := t.num, receiver := (k.slots[p.owner]?).getD 0, coord := some p, first := p.ooff
      doff := p.ooff
      last := p.ooff + 4 * p.words, bytes := [], poison := [], topinf := p.topinf, isReply := false, slot := 0 })
  ++ ((g.serving.filter fun r => r.owner = t.num).map fun r =>
    let key := scratchKey t r.ooff
    { task := k.id, sender := t.num, receiver := r.requester, coord := none, first := r.localOff
      doff := r.localOff
      last := r.localOff + 4 * r.words, bytes := scratchBytes s key (4 * r.words), poison := poisonedWords s key (4 * r.words)
      topinf := topinfOf t.fmode, isReply := true, slot := 0 })

/-- Coordinate packets of cores that have no timetable flit left to send go on their way. -/
def releaseCoords (id : Nat) (s : State) : State :=
  let g := (lookup id s.gangs).getD {}
  let ready (f : Flight) : Bool := !g.toSend.any fun x => x.2.sender = f.sender
  { onGang id (fun g => { g with coords := g.coords.filter fun f => !ready f }) s with
    flights := s.flights ++ g.coords.filter ready }

/-- The exchange starts: every byte that it reads is read (R229 step 1, R235). -/
def startExchange (k : Task) (s : State) : State :=
  let g := (lookup k.id s.gangs).getD {}
  let ms := (List.range k.slots.length).filterMap fun r => member k r s
  releaseCoords k.id (onGang k.id (fun g' =>
    { g' with started := true, toSend := ms.flatMap fun t => flitsOf k t s, coords := ms.flatMap fun t => coordsOf k g t s
              requests := [] }) s)

/-- An exchange that has not ended is abandoned (R358, R374): its packets are dropped, and every member's `step` counts as not
executed. Journals keep what was applied. -/
def abandonExchange (task : Nat) (s : State) : State :=
  match lookup task s.gangs with
  | none => s
  | some g =>
    let kept (x : Nat × Nat) : Bool := x.1 < 2 ^ 24 && x.1 % 8 = 6
    let s := { s with flights := s.flights.filter fun f => f.task ≠ task }
    let s := s.onThreads (fun t => t.taskid = task && !t.exch.done) fun t => { t with exch := { t.exch with arrived := false } }
    onGang task (fun _ => { serving := g.serving, journal := g.journal.filter kept }) s

/-- Whether a gang exchanges no more: its scope is cancelling or it is ending (R374). -/
def isOver (s : State) (task : Nat) : Bool :=
  match lookup task s.tasks with
  | none => true
  | some k => k.doomed || match k.stage with | .ending _ => true | _ => false

/-- A timetable flit leaves (the row TIMETABLE_FLIT_SEND): the first of a thread's slot, unless another flit of the gang has
an earlier mesh cycle. -/
def execEvTimetableFlitSend (thread slot : Nat) (s : State) : Host.Outcome State Fault Refusal :=
  match s.gangs.find? fun g => g.2.toSend.any fun x => x.2.sender = thread && x.2.slot = slot with
  | none => .next s
  | some (id, g) =>
    if isOver s id then .next (abandonExchange id s) else
    let i := g.toSend.findIdx fun x => x.2.sender = thread && x.2.slot = slot
    match g.toSend[i]? with
    | none => .next s
    | some (cycle, f) =>
      if g.toSend.any fun x => x.1 < cycle then .next s
      else .next (releaseCoords id
        { onGang id (fun g => { g with toSend := dropAt i g.toSend }) s with flights := s.flights ++ [f] })

/-- Keys of what a receiver has counted in a running exchange: 0 flits, 1 replies, 2 adds, 3 rejected, 4 a TOPINF mismatch,
5 one more than the offset of its first packet rejected elsewhere, 6 its journal is cleared, 7 a packet met no journal. -/
def tallyKey (num kind : Nat) : Nat := 8 * num + kind
/-- The key of how many packets of a rank a receiver has taken. -/
def pairKey (num rank : Nat) : Nat := 2 ^ 24 + 2 ^ 13 * num + rank

/-- A count of a gang's running exchange. -/
def tally (id key : Nat) (s : State) : Nat := (lookup key ((lookup id s.gangs).getD {}).journal).getD 0
/-- A count raised. -/
def tallyUp (id key : Nat) (s : State) : State := onGang id (fun g => { g with journal := countUp key 1 g.journal }) s
/-- A value kept. -/
def tallySet (id key v : Nat) (s : State) : State := onGang id (fun g => { g with journal := insert key v g.journal }) s

/-- The journal of a receiver (R359): the offset of its table, where its SPILLTOP leaves room for it. [DEDUCED, log 60] -/
def journalOf (c : Card) (t : Thread) : Option Nat :=
  let size := (2 * c.rcount + 15) / 16 * 16
  let top := t.spilltop.toNat
  if size ≤ top ∧ top ≤ t.spsize.toNat then some (top - size) else none

/-- The first coordinate packet of an exchange clears the receiver's journal, but not in a replay (R359). -/
def openJournal (id : Nat) (c : Card) (t : Thread) (s : State) : State :=
  match journalOf c t with
  | none => tallySet id (tallyKey t.num 7) 1 s
  | some o =>
    if tally id (tallyKey t.num 6) s = 1 then s
    else tallySet id (tallyKey t.num 6) 1
      (scratchPut (scratchKey t o) (List.replicate ((2 * c.rcount + 15) / 16 * 16) 0) s)

/-- A coordinate packet of a rank taken at a receiver: whether its journal marks it as taken before, and the state with the
packet counted in the journal. -/
def journalTake (id : Nat) (c : Card) (t : Thread) (rank : Nat) (s : State) : Bool × State :=
  let s := openJournal id c t s
  let n := tally id (pairKey t.num rank) s
  let s := tallyUp id (pairKey t.num rank) s
  match journalOf c t with
  | none => (false, s)
  | some o =>
    let key := scratchKey t (o + 2 * rank)
    if n < scratchNat s key 2 then (true, s) else (false, scratchPut key (bytesOf 2 (n + 1)) s)

/-- Bytes written into a member's partition by an exchange: the full bits of their granules are set (R229 step 5). -/
def exchangeWrite (t : Thread) (f : Flight) (s : State) : State :=
  let key := scratchKey t f.doff
  let s := scratchPut key f.bytes s
  let s := f.poison.foldl (fun s i => s.onMem fun m => { m with poison := insertKey (scratchPoison (key + 4 * i)) m.poison }) s
  (granulesOf key f.bytes.length).foldl (fun s g => setFull g s) s

/-- A scatter-add applied at its owner (R229 step 4): the new words and the flags that f32 adds raise. -/
def applyAdd (p : Coord) (t : Thread) (s : State) : State :=
  let key := scratchKey t p.ooff
  let go (s : State) (x : Lane × Nat) : State :=
    let k := key + 4 * x.2
    let old : Lane := BitVec.ofNat 32 (scratchNat s k 4)
    let r := if p.ty = 8 then laneFadd .f32 (roundOf (BitVec.ofNat 64 p.rm)) old x.1 else plainLane (old + x.1)
    let wasPoisoned := scratchPoisoned s k 4
    let s := (scratchPut k (bytesOf 4 r.lane.toNat) s).onThread t.num fun t => t.raise r.flags
    if wasPoisoned then s.onMem fun m => { m with poison := insertKey (scratchPoison k) m.poison } else s
  (p.values.zip (List.range p.values.length)).foldl go s

/-- A packet rejected because it reaches outside the receiver's partition; its sender remembers the first (R229). REJ counts it at its
receiver [DESIGN CHOICE, log 58]. -/
def rejectBound (id : Nat) (f : Flight) (offset : Nat) (s : State) : State :=
  let s := tallyUp id (tallyKey f.receiver 3) s
  if tally id (tallyKey f.sender 5) s = 0 then tallySet id (tallyKey f.sender 5) (1 + offset) s else s

/-- A packet rejected because of its TOPINF (R122); REJ counts it at its receiver [DESIGN CHOICE, log 58]. -/
def rejectTopinf (id : Nat) (f : Flight) (s : State) : State :=
  tallySet id (tallyKey f.receiver 4) 1 (tallyUp id (tallyKey f.receiver 3) s)

/-- A packet of an exchange at its receiver. -/
def landFlight (k : Task) (c : Card) (f : Flight) (s : State) : State :=
  match (s.thread? f.receiver).filter fun t => t.taskid = k.id with
  | none => s
  | some t =>
    let size := t.spsize.toNat
    let sender := rankOf k f.sender
    let isOther : Bool := f.topinf ≠ topinfOf t.fmode
    match f.coord with
    | none =>
      if f.isReply then
        let (isOld, s) := journalTake k.id c t sender s
        if isOther then rejectTopinf k.id f s
        else tallyUp k.id (tallyKey t.num 1) (if isOld then s else exchangeWrite t f s)
      else if size < f.last then rejectBound k.id f f.first s
      else if isOther then rejectTopinf k.id f s
      else tallyUp k.id (tallyKey t.num 0) (exchangeWrite t f s)
    | some p =>
      let s := if (journalOf c t).isNone then tallySet k.id (tallyKey t.num 7) 1 s else s
      if size < f.last then rejectBound k.id f p.ooff s
      else if p.add then
        let (isOld, s) := journalTake k.id c t sender s
        if isOther then rejectTopinf k.id f s
        else tallyUp k.id (tallyKey t.num 2) (if isOld then s else applyAdd p t s)
      else
        onGang k.id (fun g => { g with requests := g.requests ++
          [{ requester := f.sender, localOff := p.localOff, owner := f.receiver, ooff := p.ooff, words := p.words
             topinf := p.topinf }] }) s

/-- Whether a packet may be taken now: packets of one sender for one receiver keep their order, and a receiver applies adds in
order of sender rank (R229 step 4). -/
def mayLand (k : Task) (i : Nat) (f : Flight) (s : State) : Bool :=
  let g := (lookup k.id s.gangs).getD {}
  let isAdd (f : Flight) : Bool := f.coord.any fun p => p.add
  !((s.flights.take i).any fun x => x.task = f.task && x.sender = f.sender && x.receiver = f.receiver) &&
    !(isAdd f && (s.flights ++ g.coords).any fun x =>
      x.task = f.task && x.receiver = f.receiver && isAdd x && rankOf k x.sender < rankOf k f.sender)

/-- A packet of an exchange arrives (the row EXCHANGE_PACKET_ARRIVAL). -/
def execEvExchangePacketArrival (i : Nat) (s : State) : Host.Outcome State Fault Refusal :=
  match s.flights[i]? with
  | none => .next s
  | some f =>
    if isOver s f.task then .next (abandonExchange f.task { s with flights := s.flights.filter fun x => x.task ≠ f.task }) else
    match lookup f.task s.tasks with
    | none => .next { s with flights := dropAt i s.flights }
    | some k =>
      match lookup k.card s.cards with
      | none => .next { s with flights := dropAt i s.flights }
      | some c => if mayLand k i f s then .next (landFlight k c f { s with flights := dropAt i s.flights }) else .next s

/-- The exchange of a gang ends (the row EXCHANGE_END): every packet has been sent and received, and each member's `step` can
return with its counts (R229 step 6, R230). -/
def execEvExchangeEnd (task : Nat) (s : State) : Host.Outcome State Fault Refusal :=
  match lookup task s.tasks, lookup task s.gangs with
  | some k, some g =>
    if isOver s task then .next (abandonExchange task s)
    else if !g.started || !g.toSend.isEmpty || !g.coords.isEmpty || s.flights.any (fun f => f.task = task) then .next s
    else
      let n (num kind : Nat) : Nat := (lookup (tallyKey num kind) g.journal).getD 0
      let close (t : Thread) : Thread :=
        { t with exch :=
          { t.exch with
            sources := [], posted := [], arrived := false, done := true, flits := n t.num 0, repl := n t.num 1, adds := n t.num 2
            rej := n t.num 3, topcode := n t.num 4 ≠ 0
            remote := if n t.num 5 = 0 then none else some (n t.num 5 - 1) } }
      .next (onGang task (fun g => { serving := g.requests })
        (k.slots.foldl (fun s num => s.onThread num fun t => if t.taskid = task then close t else t) s))
  | _, _ => .next s

/-- Whether a pre-emption may abandon a gang's exchange now: no core without a journal has met a coordinate packet (R359). -/
def mayAbandon (task : Nat) (s : State) : Bool :=
  match lookup task s.gangs with
  | none => true
  | some g => !g.started || !g.journal.any fun x => x.1 < 2 ^ 24 && x.1 % 8 = 7

/-! ### step and xcnt (R229, R230) -/

/-- `step` (R229): the arrival after a release, the wait, and the return with its acquire, its completion traps (R340) or the
next instruction. [DEDUCED, log 59] -/
def superstep (len : Nat) (s : State) : Run State := do
  let (k, _) ← needGang s
  let x := s.th.exch
  if x.done then
    let s := acquire (gangLevel k) (s.setExch { x with done := false, topcode := false, remote := none })
    match x.remote with
    | some o => .ok (takeTrap clsExchange 3 (BitVec.ofNat 64 o) s)
    | none => if x.topcode then .ok (takeTrap clsTopcode 1 0 s) else .ok (s.advance len)
  else if x.arrived || s.th.inHandler then .error .block
  else
    require (x.beyond = 0) clsExchOver 0 (BitVec.ofNat 64 x.beyond)
    let s ← releaseAt (gangLevel k) s
    let s := s.setExch { x with arrived := true }
    let isLast := !isOver s k.id && (List.range k.slots.length).all fun r => (member k r s).any fun t => t.exch.arrived
    .error (.waitIn (if isLast then startExchange k s else s))

/-- `step` (R229). -/
def execStep (s : State) : Host.Outcome State Fault Refusal := finishRun s (superstep 4 s)
/-- `step` in the X form (R229). -/
def execStepX (s : State) : Host.Outcome State Fault Refusal := finishRun s (superstep 12 s)

/-- The counts of the exchange that last ended (R230). -/
def exchangeCounts (x : Exchange) : Word :=
  BitVec.ofNat 64 (x.flits % 65536 + 65536 * (x.repl % 65536) + 4294967296 * (x.adds % 65536)
    + 281474976710656 * (x.rej % 65536))

/-- `xcnt` (R230). -/
def execXcnt (a : DReg) (s : State) : Host.Outcome State Fault Refusal :=
  finishRun s (.ok ((s.setD a (exchangeCounts s.th.exch)).advance 4))
/-- `xcnt` in the X form (R230). -/
def execXcntX (a : DReg) (s : State) : Host.Outcome State Fault Refusal :=
  finishRun s (.ok ((s.setD a (exchangeCounts s.th.exch)).advance 12))

end Sys2Proof.Machine
end

