-- ==== Sys2Proof/Machine/System.lean ====
section
/-! DEFINITION. The meanings of majors 0x36, 0x37 and 0x3F, of words that decode to no instruction, of failed fetches and of
interrupt entry (R24 to R35, R69 to R72, R106 to R111, R338, R341, R345, R346, R360). -/

namespace Sys2Proof.Machine

/-! ### System registers (R25, R106) -/

/-- `srd` (R25, R106). -/
def execSrd (a : DReg) (n : BitVec 10) (s : State) : Host.Outcome State Fault Refusal :=
  finishRun s (
    match sysValue s s.th n.toNat with
    | none => .error (.trap clsIll 7 0)
    | some v => do
      require (isSupervisor s.th.status || !isSupervisorOnly n.toNat) clsPriv 1
      .ok ((s.setD a v).advance 4))

/-- `swr` (R25, R106). -/
def execSwr (n : BitVec 10) (a : DReg) (s : State) : Host.Outcome State Fault Refusal :=
  finishRun s (do
    let k := n.toNat
    require (sysValue s s.th k).isSome clsIll 7
    require (!isReadOnly k) clsIll 8
    require (isSupervisor s.th.status || isUserWritable k) clsPriv 1
    require (sysFits s.th k (s.getD a)) clsIll illValue
    .ok ({ s with th := sysPut k (s.getD a) s.th }.advance 4))

/-! ### Instructions that trap, and trap return (R107, R37) -/

/-- An instruction that always traps, with the low eight bits of its immediate as subcode (R107). -/
def alwaysTrap (cls : Nat) (i : BitVec 10) (s : State) : Host.Outcome State Fault Refusal :=
  finishRun s (.error (.trap cls (i.toNat % 256) 0))

/-- `svc` (R107). -/
def execSvc (i : BitVec 10) (s : State) : Host.Outcome State Fault Refusal := alwaysTrap clsSvc i s
/-- `trap` (R107). -/
def execTrap (i : BitVec 10) (s : State) : Host.Outcome State Fault Refusal := alwaysTrap clsTrap i s
/-- `brk` (R107). -/
def execBrk (i : BitVec 10) (s : State) : Host.Outcome State Fault Refusal := alwaysTrap clsBrk i s

/-- `tret` (R37, R111). -/
def execTret (s : State) : Host.Outcome State Fault Refusal :=
  finishRun s (do
    needSupervisor s
    .ok (trapReturn s))

/-! ### Events and the snapshot (R108 to R110) -/

/-- `wfe` (R108). -/
def execWfe (s : State) : Host.Outcome State Fault Refusal :=
  finishRun s (do
    blockUntil s.th.event
    .ok ({ s with th := { s.th with event := false } }.advance 4))

/-- Whether something addressed to a slot is discarded because the slot's die is fenced or lost (R387, R389). -/
def isLostDie (s : State) (num : Nat) : Bool := (s.dieOf num).fenced || !(s.dieOf num).live

/-- `sev` (R108): one addressed to a die that is fenced is discarded and counted (R389). -/
def execSev (a : DReg) (s : State) : Host.Outcome State Fault Refusal :=
  finishRun s (do
    let t := (s.getD a).toNat
    require (t < 16384) clsIll illValue
    let s := s.advance 4
    .ok (if (s.dieOf t).fenced && (s.thread? t).isNone then
        onDie (dieOfCore (coreOf t)) (fun d => { d with discard := d.discard + 1 }) s
      else setEvent t s))

/-- Every register of the snapshot block latches once the latch time has come (R405). -/
def latchSnapshot (s : State) : State :=
  match s.snap.latchAt with
  | none => s
  | some t =>
    if s.time < t then s
    else
      { s with snap := { s.snap with
        latchAt := none, seq := (s.snap.seq + 1) % 4294967296, time := t, retired := s.snap.liveRetired
        issued := s.eng.ctxs.map fun c => (c.1, c.2.issued)
        bytes := s.snap.liveBytes } }

/-- A snapshot trigger (R405): it joins one that has not latched yet. -/
def triggerSnapshot (s : State) : State :=
  let s := latchSnapshot s
  if s.snap.latchAt.isSome then s else { s with snap := { s.snap with latchAt := some (s.time + 2048) } }

/-- `snap` (R109). -/
def execSnap (s : State) : Host.Outcome State Fault Refusal := finishRun s (.ok (triggerSnapshot (s.advance 4)))

/-- `idle` (R110). `micro` 5 marks a suspended thread: the interrupt that ends its `idle` is taken behind it. -/
def execIdle (s : State) : Host.Outcome State Fault Refusal :=
  finishRun s (do
    needSupervisor s
    let resting (n : Nat) (s : State) : State := { s with th := { s.th with micro := n } }
    if s.th.intrs.isEmpty then .error (if s.th.inHandler then .block else .waitAfter (resting 5))
    else .ok ((resting 0 s).advance 4))

/-! ### Fault records (R111, R344 to R346) -/

/-- `rsm` (R346): the resume packet is posted after a release of device scope. -/
def execRsm (a : DReg) (s : State) : Host.Outcome State Fault Refusal :=
  finishRun s (do
    needSupervisor s
    let va := (s.getD a).toNat
    needGlobalAligned va 64
    let s ← releaseAt (scopeLevel .device) s
    let s := s.onEng fun e => { e with resumes := e.resumes ++ [(s.th.num, va)] }
    .ok ({ s with th := { s.th with cntGlobal := s.th.cntGlobal + 1 } }.advance 4))

/-- The records of a die's fault ring that the Laster has not reclaimed, newest first (R345, R412). -/
def liveRecords (d : DieRec) : List Nat :=
  let n := d.frslots.toNat
  if n = 0 then []
  else
    let count := (d.frtail.toNat + n - d.frhead.toNat % n) % n
    (List.range count).map fun i => d.frbase.toNat + 64 * ((d.frtail.toNat + n - 1 - i) % n)

/-- `fltr` (R111, R345). -/
def execFltr (a : DReg) (e : EReg) (s : State) : Host.Outcome State Fault Refusal :=
  finishRun s (do
    needSupervisor s
    let tile := tileOfCore (coreOf s.th.num)
    let isOurs (p : Nat) : Bool :=
      readNat s.mem.dram (p + 3) 1 = e.toNat && readNat s.mem.dram (p + 4) 2 = tile
    let found := (liveRecords (s.dieOf s.th.num)).find? isOurs
    .ok ((s.setD a (BitVec.ofNat 64 (found.getD 0))).advance 4))

/-! ### Contexts (R350, R360) -/

/-- A word of 8 bytes read by the thread at device scope, checked against its lease. -/
def readArea (va : Nat) (s : State) : Run (Word × State) := do
  checkAccess false va 8 s
  let (x, s) ← loadGlobal (scopeLevel .device) .normal va 8 s
  .ok (BitVec.ofNat 64 x, s)

/-- A word of 8 bytes written by the thread at device scope, checked against its lease. -/
def writeArea (va : Nat) (x : Word) (s : State) : Run State := do
  checkAccess true va 8 s
  storeGlobal (scopeLevel .device) .normal va 8 x.toNat s

/-- The words of a context save area. -/
def areaSize : Nat := 7104

/-- Whether every stream operation of the thread in focus whose operand flits have all reached the matrix unit has completed (R350
step 5). One that follows in its stream an operation whose flits have not waits with it. -/
def streamsDrained (s : State) : Bool :=
  !s.eng.ops.any fun o => o.thread = s.th.num && o.home = s.th.taskid && (match o.kind with | .stream _ _ _ _ => true | _ => false) &&
    o.flits = 0 && !s.eng.ops.any fun p => p.tile = o.tile && p.ctx = o.ctx && p.num < o.num && 0 < p.flits

/-- `ctxsave` (R360, R350): the flits that it catches go on to the unit when an area that holds them is loaded. [DEDUCED, log 67] -/
def execCtxsave (a : DReg) (s : State) : Host.Outcome State Fault Refusal :=
  finishRun s (do
    needSupervisor s
    let va := (s.getD a).toNat
    needGlobalAligned va 65536
    blockUntil (s.th.cntRemote = 0 && s.th.cntGlobal = 0 && s.th.cntDevice = 0)
    blockUntil (streamsDrained s)
    let s : State := { s with th := { s.th with resv := none } }
    let ws := areaWords s s.th (s.th.pc + 4)
    let s ← (ws.zip (List.range ws.length)).foldlM (fun s x => writeArea (va + 8 * x.2) x.1 s) s
    .ok ((catchFlits s.th s).advance 4))

/-- The generators of a core that no other context holds. -/
def generatorsFor (s : State) (t : Thread) : List Nat :=
  let held := (s.threads.filter fun u => u.num ≠ t.num && coreOf u.num = coreOf t.num).flatMap fun u =>
    u.binds.toList.filterMap fun b => b.map fun b => b.gen
  (List.range 4).filter fun g => !held.contains g

/-- What the state of an area makes of the thread in focus and its surroundings (R360): the handles that its task defined are those of
the area, the flits of its ring go to the matrix unit, and sets that nothing names any more are gone. -/
def loadContext (w : Nat → Word) (s : State) : State :=
  let t := s.th
  let tile := tileOfCore (coreOf t.num)
  let s := s.onEng fun e =>
    { e with
      handles := e.handles.map fun h =>
        if h.1 / 64 ≠ tile then h
        else if (w 164).getLsbD (h.1 % 64) then (h.1, { h.2 with task := t.taskid })
        else if h.2.task = t.taskid then (h.1, { h.2 with task := 0 })
        else h }
  let s := replayRing t (ringOfArea w) s
  let exch : Exchange := if (w 0).getLsbD 19 then t.exch else { t.exch with table := [], sources := [], posted := [] }
  let u : Thread := contextOfArea w (generatorsFor s t) (otherEnergy s t) { t with exch := exch }
  sweepSets { s with th := u }

/-- `ctxload` (R360): an area whose ring is not empty is taken only on the tile that saved it. -/
def execCtxload (a : DReg) (s : State) : Host.Outcome State Fault Refusal :=
  finishRun s (do
    needSupervisor s
    let va := (s.getD a).toNat
    needGlobalAligned va 65536
    let (ws, s) ← (List.range areaSize).foldlM (fun (r : List Word × State) i => do
      let (x, s) ← readArea (va + 8 * i) r.2
      .ok (x :: r.1, s)) ([], s)
    let arr := ws.reverse.toArray
    let w (i : Nat) : Word := (arr[i]?).getD 0
    require (areaOk w && w 9 = s.th.spbase && w 10 = s.th.spsize && w 13 = BitVec.ofNat 64 s.th.taskid) clsIll illValue
    require (bits (w 0).toNat 39 32 = 0 || bits (w 15).toNat 15 0 / 4 = tileOfCore (coreOf s.th.num)) clsIll illValue
    let gens := generatorsFor s s.th
    let need := ((List.range 8).filter fun i => (w (133 + 2 * i)).toNat % 4294967296 ≠ 0).length
    blockUntil (need ≤ gens.length)
    .ok (loadContext w s))

/-- `preempt` (R360): the thread waits (`micro` 1) until the context asked for has been saved or its slot holds none. Its own
slot names a yield that always pre-empts. -/
def execPreempt (a : DReg) (s : State) : Host.Outcome State Fault Refusal :=
  finishRun s (do
    needSupervisor s
    let n := (s.getD a).toNat
    require (n < 16384) clsIll illValue
    let finish (s : State) : State := { s with th := { s.th with micro := 0 } }.advance 4
    if n = s.th.num then .ok (askPreempt n (s.advance 4))
    else match s.thread? n with
      | none => .ok (finish s)
      | some t =>
        let isDoomedTask : Bool := (s.taskOf t).any fun k => k.doomed
        if s.th.micro = 1 then
          if s.preempts.contains n || isDoomedTask then .error .block else .ok (finish s)
        else if s.th.inHandler then .error .block
        else
          let s := askPreempt n s
          .error (.waitIn { s with th := { s.th with micro := 1 } }))

/-! ### Words that are no instruction, and asynchronous entry (R69, R72, R341, R338) -/

/-- MAJ 0x3F (R72): ILL FACTORY, but in a die in factory test mode an operation this manual does not describe. -/
def execFactoryTest (_word : BitVec 32) (s : State) : Host.Outcome State Fault Refusal :=
  if (s.dieOf s.th.num).ftm then .fault .factoryOperation else finishRun s (.error (.trap clsIll illFactory 0))

/-- The subcode of a word that decodes to no instruction (R35, R69). -/
def Reject.sub : Reject → Nat
  | .opcode => 0
  | .mbz => 1
  | .length => 2
  | .literal => 3
  | .zero => 6
  | .value => 9

/-- A word that decodes to no instruction traps ILL (R69). -/
def execIllegalWord (why : Reject) (s : State) : Host.Outcome State Fault Refusal :=
  finishRun s (.error (.trap clsIll (Reject.sub why) 0))

/-- A failed fetch (R35, R341): EADDR is the target that is not aligned, or the base of the failing 64 KiB block. -/
def execIfetchFault (why : FetchFail) (addr : Word) (s : State) : Host.Outcome State Fault Refusal :=
  finishRun s (match why with
    | .absent => .error (.trap clsIfetch 0 (addr &&& 0xFFFFFFFFFFFF0000))
    | .noexec => .error (.trap clsIfetch 1 (addr &&& 0xFFFFFFFFFFFF0000))
    | .straddle => .error (.trap clsIfetch 2 (addr &&& 0xFFFFFFFFFFFF0000))
    | .align => .error (.trap clsIfetch 3 addr))

/-- Entry for the oldest pending interrupt (R338): a waiting instruction counts as not executed. Nothing happens while none is
pending, while IE = 0, or while an access only waits for its reply (R255). [DEDUCED, log 61] -/
def execIntrEntry (s : State) : Host.Outcome State Fault Refusal :=
  match s.th.intrs with
  | [] => .next s
  | v :: rest =>
    if !interruptsOn s.th.status || (s.th.waiting && isCommitted s) then .next s
    else
      let s := undoWait s
      .next (takeTrap clsIntr (v % 256) 0 { s with th := { s.th with intrs := rest } })

end Sys2Proof.Machine
end

