-- ==== Sys2Proof/Machine/Launch.lean ====
section
/-! DEFINITION. The distributor's events (R193 to R200, R237, R241, R349 to R360, R385, R402): dispatch, placement, launch and
start of a task, pre-emption, resumption and eviction. -/

namespace Sys2Proof.Machine

/-! ### Choosing work (R196, R349, R355) -/

/-- The unit that a pre-empted task left its slots with (R349), named by one of its tasks: record key 6. -/
def unitOf (k : Task) : Nat := (lookup 6 k.record).getD k.id

/-- The tasks of a pre-empted unit. -/
def unitTasks (s : State) (k : Task) : List Task := (s.tasks.map Prod.snd).filter fun x => x.parked && unitOf x = unitOf k

/-- The stream bindings of a context. -/
def boundCount (t : Thread) : Nat := (t.binds.toList.filter Option.isSome).length

/-- Whether a context can come back into a slot: the slot, its die, the segments where its partition was evicted, and the
generators it needs are free, and neither a ring nor a router holds another task's flits (R354 to R356, R358). -/
def mayReturnTo (s : State) (t : Thread) (num : Nat) : Bool :=
  let t' := { t with num := num }
  isSlotFree s num && (s.dieOf num).isOpen && !holdsRing s num t.taskid && !(isGangThread s t && holdsExchange s num t.taskid) &&
    (!t.evicted || (grantRun s (coreOf num) t.segCount).isSome) && boundCount t ≤ (generatorsFor s t').length

/-- Whether the contexts of a unit that come back to one core have generators enough between them (R158). -/
def hasGenerators (s : State) (xs : List (Thread × Nat)) : Bool :=
  xs.all fun x => ((xs.filter fun y => coreOf y.2 = coreOf x.2).map fun y => boundCount y.1).foldl (· + ·) 0 ≤
    (generatorsFor s { x.1 with num := x.2 }).length

/-- Whether a slot lies on a retired arithmetic core (R402). -/
def isRetired (s : State) (num : Nat) : Bool :=
  coreOf num % 4 = 3 && ((lookup (tileOfCore (coreOf num)) s.eng.tiles).getD {}).retired

/-- The units of other tiles that a pre-empted unit may take: those of its card, or, for a phrase of several tasks, its own shape on
another phrase row and slot. -/
def otherUnits (s : State) (ks : List Task) (ts : List Thread) : List (List Nat) :=
  match ks with
  | [k] => match lookup k.card s.cards with | some c => freeUnits s c | none => []
  | _ => (List.range 256).flatMap fun r => (List.range 4).map fun i => ts.map fun t =>
      4 * (4 * (4 * r + tileX (tileOfCore (coreOf t.num)) % 4) + coreOf t.num % 4) + (t.num + i) % 4

/-- The contexts of a pre-empted task's unit with the slots in which it can come back now: the slots it left, or, where one of them
lies on a retired core, a unit of other tiles that meets the constraints of its card, once its partitions are evicted (R402). A card's
limit on placement units holds for it (R193). [DEDUCED, log 68] -/
def returnSlots (s : State) (k : Task) : Option (List (Thread × Nat)) :=
  let ks := unitTasks s k
  let ts := s.parked.filter fun t => ks.any fun k => t.taskid = k.id
  if !k.parked || ts.isEmpty || ks.any (fun k => (lookup k.card s.cards).any fun c => !isBelowLimit s c) then none
  else if !ts.any fun t => isRetired s t.num then
    if (ts.all fun t => mayReturnTo s t t.num) && hasGenerators s (ts.map fun t => (t, t.num)) then some (ts.map fun t => (t, t.num))
    else none
  else
    let fits (u : List Nat) : Bool := u.length = ts.length && ((ts.zip u).all fun x =>
      coreOf x.1.num % 4 = coreOf x.2 % 4 && mayReturnTo s x.1 x.2 && !isRetired s x.2 && (x.1.evicted || x.1.segCount = 0)) &&
      hasGenerators s (ts.zip u)
    let us := (otherUnits s ks ts).filter fits
    (us[Config.placement s.fresh % us.length]?).map fun u => ts.zip u

/-- The class of a task's card. -/
def taskRank (s : State) (k : Task) : Nat := match lookup k.card s.cards with | some c => c.rank | none => 7

/-- Whether work of a higher class wants one of the slots, or a doomed pre-empted task of the same class goes first (R364). -/
def isOutranked (s : State) (k : Task) (slots : List Nat) : Bool :=
  let own := taskRank s k
  s.cards.any (fun c => c.2.rank < own && mayPlace s c.2 && slots.any (couldTake s c.2)) ||
    (!k.doomed && s.tasks.any fun t => t.2.doomed && taskRank s t.2 = own && (returnSlots s t.2).isSome)

/-- Whether a pre-empted task of a card can come back into one of the slots. -/
def hasReturn (s : State) (card : Nat) (unit : List Nat) : Bool :=
  s.tasks.any fun t => t.2.card = card && match returnSlots s t.2 with
    | some xs => xs.any fun x => unit.contains x.2
    | none => false

/-- The card that is given a free unit: the highest class, and within it the next card after the one served last that can use
the unit (R196). -/
def chooseCard (s : State) (unit : List Nat) : Option Card :=
  let cs := (s.cards.map Prod.snd).filter fun c => (mayPlace s c && fitsUnit s c unit) || hasReturn s c.id unit
  let best := cs.foldl (fun r c => min r c.rank) 8
  let same := cs.filter fun c => c.rank = best
  let last := (lookup best s.lastServed).getD 0
  match same.find? fun c => last < c.id with
  | some c => some c
  | none => same.head?

/-! ### Dispatch (R193, R195, R196, R233) -/

/-- An operation that stands for the distributor's own reads and writes of an address space. -/
def distOp (tile asid : Nat) : EngOp :=
  ({ tile := tile, part := Thread.empty, asid := asid, task := 0, topinf := false, rm := 0 } : Issuer).op 0 (.transfer none) [] []

/-- The matching word's address and value written into a record (R233). None while the write must wait; a record that cannot
be written is left. -/
def writeMatch (c : Card) (index : Nat) (w : Nat × Nat) (tile : Nat) (s : State) : Option State :=
  let va := c.rbase + index * c.rsize
  let put (va x : Nat) (s : State) : Option State :=
    match engWrite (distOp tile c.asid) va (bytesOf 8 x) s with
    | .ok (_, s) => some s
    | .error .stall => none
    | .error _ => some s
  (put va w.1 s).bind (put (va + 8) w.2)

/-- The oldest pending dispatch of a card taken: a re-dealt chunk, a watch deal, or a new chunk (R196). None while it must
wait. -/
def takeDispatch (c : Card) (tile : Nat) (s : State) : Option ((Nat × Nat) × State) :=
  match c.redeals, c.watchDeals with
  | x :: rest, _ => some (x, s.onCard c.id fun c => { c with redeals := rest })
  | [], w :: rest =>
    (writeMatch c c.next w tile s).map fun s =>
      let s := s.onCard c.id fun c => { c with watchDeals := rest, next := c.next + 1 }
      ((c.next, 1), if c.rcount ≤ c.next + 1 then disarm c.id s else s)
  | [], [] =>
    if c.gang then some ((0, c.rcount), s.onCard c.id fun c => { c with next := c.rcount })
    else
      let n := chunkSize s c
      some ((c.next, n), s.onCard c.id fun c => { c with next := c.next + n })

/-- A dispatch (the row DISPATCH): a free unit is given the next work of the chosen card, unless a pre-empted task of it comes
back first [DEDUCED, log 18]. The energy of every task of the card is added to its total first; whose energy a deal adds the spec does not
say [DESIGN CHOICE, log 26]. -/
def dispatch (unit : List Nat) (s : State) : State :=
  if !s.welt.run then s
  else match chooseCard s unit with
    | none => s
    | some c =>
      if hasReturn s c.id unit then s
      else
        let s := s.tasks.foldl (fun s t => if t.2.card = c.id then countEnergy t.1 s else s) s
        match takeDispatch c (tileOfCore (coreOf (unit.headD 0))) s with
        | none => s
        | some (x, s) =>
          let id := s.nextId
          let k : Task := { id := id, card := c.id, asid := c.asid, scope := c.scope, stage := .requested, slots := unit
                            live := unit, chunk := x, deals := [x] }
          { (s.onCard c.id fun c => { c with count := c.count + 1 }) with
            nextId := id + 1, tasks := insert id k s.tasks, lastServed := insert c.rank c.id s.lastServed }

/-- `DISPATCH` (R196). -/
def execEvDispatch (unit : List Nat) (s : State) : Host.Outcome State Fault Refusal := .next (dispatch unit s)

/-- A launch that ends without running its task (R199). -/
def isLaunchDoomed (s : State) (k : Task) : Bool := 3 ≤ scopeState s k.scope

/-- `PLACEMENT_REQUEST` (R385): the die confirms while the unit is still free, and refuses otherwise; a refused dispatch goes
back to the head of its card's. -/
def execEvPlacementRequest (i : Nat) (s : State) : Host.Outcome State Fault Refusal :=
  match lookup i s.tasks with
  | none => .next s
  | some k =>
    match k.stage, lookup k.card s.cards with
    | .requested, some c =>
      if isLaunchDoomed s k then .next (finishTask i (cancelStatus s k.scope) s)
      else if fitsUnit s c k.slots then .next (s.onTask i fun k => { k with stage := .launching })
      else
        .next (refusePlacement k s)
    | _, _ => .next s

/-! ### Launch (R39, R199, R237, R241) -/

/-- The context that a slot of a launch receives. -/
def launchContext (k : Task) (c : Card) (num rank base : Nat) (s : State) : Thread :=
  let (d3, d4) := if c.gang then chunkRegs c (rank, 1) else chunkRegs c k.chunk
  { Thread.dispatched num c.asid k.id k.scope (BitVec.ofNat 64 c.entry) (s.dieOf num).tvec base c.scratch c.spill
      (Config.spillArea k.id num) d3 d4 with
    ownPages := 1, rank := rank }

/-- Partitions granted, their segments taken out of the L1, and contexts made for slots in turn; none where a core cannot grant one
now (R237, R238). -/
def grantContexts (k : Task) (c : Card) : List (Nat × Nat) → State → Option State
  | [], s => some s
  | (num, rank) :: rest, s =>
    match grantRun s (coreOf num) c.scratch with
    | none => none
    | some base => (drainWays (coreOf num) base c.scratch s).bind fun s =>
      grantContexts k c rest { s with others := s.others ++ [launchContext k c num rank base s] }

/-- A cluster becomes fused for an address space (R241). None while a slice has no room. -/
def fuseFor (c : Card) (num : Nat) (s : State) : Option State :=
  let cluster := clusterOfCore (coreOf num)
  if !c.fused || isFused s cluster then some s
  else (dropClusterL1 cluster s).map fun s => s.onMem fun m => { m with fused := m.fused ++ [(cluster, c.asid)] }

/-- `LAUNCH` (R199 step 1): partitions, overflow pages and the dispatch state. It waits while a partition or a page is
missing. -/
def execEvLaunch (i : Nat) (s : State) : Host.Outcome State Fault Refusal :=
  match lookup i s.tasks with
  | none => .next s
  | some k =>
    match k.stage, lookup k.card s.cards with
    | .launching, some c =>
      if s.threads.any fun t => t.taskid = i then .next s
      else if isLaunchDoomed s k then .next (finishTask i (cancelStatus s k.scope) s)
      else if freePages s < k.slots.length then .next s
      else .next ((do
        let s ← grantContexts k c (k.slots.zip (List.range k.slots.length)) s
        k.slots.foldlM (fun s n => fuseFor c n s) s).getD s)
    | _, _ => .next s

/-! ### Start (R191, R199 steps 2 to 6) -/

/-- The ranges of a lease list: up to eight, ended by one of size 0 (R191). The spec says nothing of a base or a size that is no multiple
of 64 KiB: such a range is taken as it stands [DESIGN CHOICE, log 82]. -/
def parseLease : Nat → List Byte → List (Nat × Nat)
  | 0, _ => []
  | n + 1, bs =>
    let size := natOfBytes ((bs.drop 8).take 8)
    if size = 0 then [] else (natOfBytes (bs.take 8), size) :: parseLease n (bs.drop 16)

/-- Whether every page of a range is mapped and at rest. -/
def isResident (s : State) (asid : Nat) (r : Nat × Nat) : Bool :=
  (List.range ((r.2 + 65535) / 65536)).all fun i => match walk s asid (r.1 + 65536 * i) with
    | .page _ _ _ _ _ _ moving => !moving
    | _ => false

/-- The footprint fetches of a launch, after the checks of R199: one for each entry and each partition. A check that fails
traps here, which no context sees. [DEDUCED, log 69] -/
def footprintOps (k : Task) (c : Card) (ts : List Thread) (s : State) : Run (List EngOp × State) := do
  let tile := tileOfCore (coreOf (k.slots.headD 0))
  let o := distOp tile c.asid
  let (h, s) ← atIssue (engReadLong o c.footprint 64 s)
  let n := natOfBytes (h.take 1)
  if 8 < n || (h.drop 1).any fun b => b ≠ 0 then refuse
  (List.range n).foldlM (fun (r : List EngOp × State) i => do
    let (bs, s) ← atIssue (engReadLong o (c.footprint + 64 + 384 * i) 384 r.2)
    let desc := natOfBytes (bs.take 8)
    let off := natOfBytes ((bs.drop 8).take 8)
    if desc % 64 ≠ 0 || off % 16 ≠ 0 || ((bs.drop 16).take 48).any fun b => b ≠ 0 then refuse
    let q ← recordRegion bs 64
    let (db, s) ← atIssue (engReadLong o desc 64 s)
    let d ← recordTensor db 0
    if q.rank ≠ d.rank then refuse
    ts.foldlM (fun (r : List EngOp × State) t => do
      let iss : Issuer := { tile := tileOfCore (coreOf t.num), part := t, asid := c.asid, task := k.id, scope := k.scope
                            topinf := false, rm := 0, command := true }
      let (op, s) ← transferPlan iss true footprintCtx 0x10 { q with tv := true } (some d) off [t] r.2
      .ok (r.1 ++ [op], s)) (r.1, s)) ([], s)

/-- A footprint fetch takes its place among the operations, off every timeline. -/
def enterFetch (o : EngOp) (s : State) : State :=
  let o := { o with num := s.nextId }
  let s := { s.onEng fun e => { e with ops := e.ops ++ [o] } with nextId := s.nextId + 1 }
  o.marks.foldl (fun s g => addPending g s) s

/-- A launch that fails ends its task with a status. -/
def failLaunch (id status : Nat) (s : State) : State := finishTask id status s

/-- The last steps of a launch: the set, the acquire and the start. -/
def startTask (k : Task) (c : Card) (s : State) : State :=
  if c.mset ≠ 0 ∧ (lookup c.mset s.sets).isNone then failLaunch k.id statusCardForm s
  else
    let s := if c.mset = 0 then s
      else
        let r := s.set c.mset
        let s := putSet c.mset { r with e := r.e + k.slots.length } s
        k.slots.foldl (fun s n => s.onThread n fun t => t.setM 0 { bound := .set c.mset, member := true }) s
    let s := k.slots.foldl (fun s n => let f := s.focus n; acquire (scopeLevel .device) f) s
    let head := coreOf (k.slots.headD 0)
    let s := if !c.phrase then s
      else (k.slots.zip (List.range k.slots.length)).foldl (fun s x => s.onThread x.1 fun t =>
        { t with phrase := if x.2 = 0 then .head c.pwidth else .dependent head }) s
    s.onTask k.id fun k => { k with stage := .running }

/-- `TASK_START` (R199): the next step of a launch whose contexts stand: the lease list once its pages are resident, the
footprint fetches, and, when they have completed, the start. The record keys 4 and 5 say how far it has come. A footprint list or a
descriptor on a page that does not translate ends the launch with LEASE_OUT, and a lease list that cannot be read leaves it waiting; the
spec says neither [DESIGN CHOICE, log 90]. -/
def execEvTaskStart (i : Nat) (s : State) : Host.Outcome State Fault Refusal :=
  match lookup i s.tasks with
  | none => .next s
  | some k =>
    match k.stage, lookup k.card s.cards with
    | .launching, some c =>
      let ts := k.slots.filterMap fun n => (s.thread? n).filter fun t => t.taskid = i
      let ops := s.eng.ops.filter fun o => o.task = i
      if ts.length ≠ k.slots.length then .next s
      else if isLaunchDoomed s k then
        if ops.isEmpty then .next (failLaunch i (cancelStatus s k.scope) s) else .next (endTask i (cancelStatus s k.scope) s)
      else if (lookup 4 k.record).isNone then
        if c.lease = 0 then .next (s.onTask i fun k => { k with record := insert 4 1 k.record })
        else match engReadLong (distOp (tileOfCore (coreOf (k.slots.headD 0))) c.asid) c.lease 128 s with
          | .error _ => .next s
          | .ok (bs, s') =>
            let rs := parseLease 8 bs
            if (rs.filter fun r => r.1 < 2 ^ 63).all (isResident s c.asid) then
              .next (s'.onTask i fun k => { k with leases := rs, leased := true, record := insert 4 1 k.record })
            else .next s
      else if (lookup 5 k.record).isNone then
        if c.footprint = 0 then .next (s.onTask i fun k => { k with record := insert 5 1 k.record })
        else match footprintOps k c ts s with
          | .ok (ops, s) => .next ((ops.foldl (fun s o => enterFetch o s) s).onTask i fun k => { k with record := insert 5 1 k.record })
          | .error (.endTask st) => .next (failLaunch i st s)
          | .error (.trap _ _ _) => .next (failLaunch i statusCardForm s)
          | .error _ => .next s
      else if !ops.isEmpty then .next s
      else .next (startTask k c s)
    | _, _ => .next s

/-! ### Pre-emption (R349, R350, R358) -/

/-- A context as it is kept while it is away (R350): its reservation is dropped, and its queue leads its overflow area. -/
def parkThread (t : Thread) : Thread :=
  { t.unqueue with
    resv := none, waiting := false, trapped := false, icache := []
    csa := 65536 * (1 + Config.saveAreaPage t.taskid t.num) }

/-- A kept context written to its context save area (R350 step 6, R351). -/
def keepArea (s : State) (t : Thread) : State := putMemory t.csa ((areaWords s t t.pc).flatMap fun w => bytesOf 8 w.toNat) s

/-- Whether a higher-class card can be placed only by displacing the context in a slot (R349). -/
def isDisplaced (s : State) (num : Nat) : Bool :=
  match (s.thread? num).bind (fun t => s.taskOf t) with
  | none => false
  | some k => k.stage = .running && !k.doomed && s.welt.run &&
      s.cards.any fun c => c.2.rank < taskRank s k && mayPlace s c.2 && (freeUnits s c.2).isEmpty && couldTake s c.2 num

/-- The tasks that a pre-emption takes with some: those that share a phrase with one of their threads; the first argument bounds the
chain of phrases (R349). -/
def withPhrases (s : State) : Nat → List Nat → List Nat
  | 0, ids => ids
  | f + 1, ids =>
    let mine := s.threads.filter fun t => ids.contains t.taskid
    let slots := mine.flatMap fun t => match t.phrase with
      | .head w => phraseSlots t.num w
      | .dependent h => [4 * h + t.num % 4]
      | _ => []
    let more := (s.threads.filter fun u => u.taskid ≠ 0 && slots.contains u.num && !ids.contains u.taskid &&
      (match u.phrase with | .head _ => true | .dependent _ => true | _ => false)).map fun u => u.taskid
    withPhrases s f (ids ++ more.eraseDups)

/-- A pre-emption made: an exchange in progress is abandoned, every waiting instruction counts as not executed, the contexts leave
their slots, and the flits between a core 3 and its matrix unit are caught. None while it must wait. -/
def saveUnit (k : Task) (s : State) : Option State :=
  let ids := withPhrases s s.threads.length [k.id]
  let s? : Option State := ids.foldlM (fun s id => if (lookup id s.gangs).any fun g => g.started then
      (if mayAbandon id s then some (abandonExchange id s) else none)
    else some s) s
  s?.bind fun s =>
    let ts := s.threads.filter fun t => ids.contains t.taskid
    let isQuiet (t : Thread) : Bool :=
      let f := s.focus t.num
      t.cntRemote = 0 && t.cntGlobal = 0 && t.cntDevice = 0 && streamsDrained f && !(t.waiting && isCommitted f)
    if !ts.all isQuiet || ids.any fun id => (lookup id s.tasks).any fun k => k.doomed || k.stage ≠ .running then none
    else
      let s := ts.foldl (fun s t => let f := s.focus t.num; undoWait f) s
      let ts := s.threads.filter fun t => ids.contains t.taskid
      let mine (t : Thread) : Bool := t.live && ids.contains t.taskid
      let away := ts.map parkThread
      let s := away.foldl keepArea s
      let s := ts.foldl (fun s t => catchFlits t s) s
      let s := ids.foldl (fun s id => s.onTask id fun x => { x with parked := true, record := insert 6 k.id x.record }) s
      some { s with
        th := if mine s.th then Thread.empty else s.th
        others := s.others.filter fun t => !mine t
        parked := s.parked ++ away
        preempts := s.preempts.filter fun n => !ts.any fun t => t.num = n }

/-- `PREEMPTION` (R349): a context that is to be displaced is asked for; the unit of one that has been asked for is saved once
its counts are zero, and a request whose slot holds no context is over. -/
def execEvPreemption (slot : Nat) (s : State) : Host.Outcome State Fault Refusal :=
  if s.preempts.contains slot then
    match (s.thread? slot).bind (fun t => s.taskOf t) with
    | none => .next { s with preempts := s.preempts.filter fun n => n ≠ slot }
    | some k => .next ((saveUnit k s).getD s)
  else if isDisplaced s slot then .next (askPreempt slot s)
  else .next s

/-! ### Eviction and resumption (R355, R356) -/

/-- The image of a partition: its bytes, then its full bits (R356). -/
def partitionImage (s : State) (t : Thread) : List Byte :=
  let key := coreOf t.num * 327680 + 8192 * t.segBase
  scratchBytes s key (8192 * t.segCount) ++ (List.range (64 * t.segCount)).map fun i =>
    BitVec.ofNat 8 (((List.range 8).map fun b => if isFull s (key + 128 * i + 16 * b) then 2 ^ b else 0).foldl (· + ·) 0)

/-- Whether nothing addressed to a context's partition is in progress (R356), a waiting load of another thread among it (R100). -/
def isPartitionQuiet (s : State) (t : Thread) : Bool :=
  let lo := coreOf t.num * 327680 + 8192 * t.segBase
  isPartitionIdle s t && !(s.threads.any fun u => u.kept.any fun ks => ks.any fun k => lo ≤ k && k < lo + 8192 * t.segCount)

/-- Poison copied with the words of a range of word numbers to another (R245). -/
def copyPoison (src dst n : Nat) (s : State) : State :=
  s.onMem fun m => { m with poison := (List.range n).foldl (fun ps i => if ps.contains (src + i) then insertKey (dst + i) ps else ps) m.poison }

/-- Whether no core can place the work that waits for a partition, and a core holds too much for it: a card that finds no free unit, a
launch whose grant waits, or a pre-empted task that needs its own partition back or another core (R356, R402). -/
def isCrowded (s : State) (core : Nat) : Bool :=
  (s.cards.any fun c => mayPlace s c.2 && (freeUnits s c.2).isEmpty && 0 < c.2.scratch) ||
    (s.tasks.any fun k => k.2.stage = .launching && (lookup k.2.card s.cards).any fun c =>
      k.2.slots.any fun n => coreOf n = core && (grantRun s core c.scratch).isNone) ||
    s.parked.any fun t => (t.evicted && coreOf t.num = core && (grantRun s core t.segCount).isNone) || isRetired s t.num

/-- `PARTITION_EVICT` (R356): the partition of the i-th pre-empted context goes to its image, whose address PIMAGE of its save
area takes (R352), and its segments are freed. -/
def execEvPartitionEvict (i : Nat) (s : State) : Host.Outcome State Fault Refusal :=
  match s.parked[i]? with
  | none => .next s
  | some t =>
    if t.evicted || t.segCount = 0 || !isPartitionQuiet s t || !isCrowded s (coreOf t.num) then .next s
    else
      let at' := 65536 * (1 + Config.imagePage t.taskid t.num)
      let key := coreOf t.num * 327680 + 8192 * t.segBase
      let s := putMemory (t.csa + 152) (bytesOf 8 at') (putMemory at' (partitionImage s t) s)
      let s := copyPoison (scratchPoison key) (at' / 4) (2048 * t.segCount) s
      .next { freePartition t s with parked := s.parked.set i { t with pimage := at', evicted := true } }

/-- A partition read back from its image into segments from a number up. -/
def restoreImage (t : Thread) (num base : Nat) (s : State) : State :=
  let key := coreOf num * 327680 + 8192 * base
  let n := 8192 * t.segCount
  let s' := copyPoison (t.pimage / 4) (scratchPoison key) (2048 * t.segCount) (scratchPut key (readBytes s.mem.dram t.pimage n) s)
  (List.range (512 * t.segCount)).foldl (fun s' g =>
    if (readByte s.mem.dram (t.pimage + n + g / 8)).getLsbD (g % 8) then setFull (key + 16 * g) s' else s') s'

/-- A context comes back into a slot (R355). None while a partition that was evicted cannot be granted. -/
def bringBack (move : Nat → Nat) (x : Thread × Nat) (s : State) : Option State := do
  let (t, num) := x
  let k := (lookup t.taskid s.tasks).getD { id := 0, card := 0, asid := 0, scope := 0, stage := .running, slots := [], live := [], chunk := (0, 0) }
  let (base, s) ← if !t.evicted then some (t.segBase, s)
    else do
      let base ← grantRun s (coreOf num) t.segCount
      let s ← drainWays (coreOf num) base t.segCount s
      pure (base, restoreImage t num base s)
  let gens := generatorsFor s { t with num := num }
  let order (i : Nat) : Nat := ((t.binds.toList.take i).filter Option.isSome).length
  let u : Thread := { t.requeue with
    num := num
    segBase := base
    spbase := t.spbase - BitVec.ofNat 64 (8192 * t.segBase) + BitVec.ofNat 64 (8192 * base)
    binds := Vector.ofFn fun i => (t.binds[i.val]).map fun b => { b with gen := gens.getD (order i.val) 0 }
    killCount := 0
    phrase := match t.phrase with | .dependent h => .dependent (coreOf (move (4 * h + t.num % 4))) | p => p
    pimage := 0
    evicted := false
    csa := 0
    marked := t.marked || k.doomed
    fmode := t.fmode ||| k.flags }
  let s := s.onEng fun e =>
    { e with ops := e.ops.map fun o =>
        let o := { o with targets := o.targets.map fun x => if x = (t.num, t.taskid) then (num, t.taskid) else x }
        if o.thread = t.num && o.home = t.taskid then { o with thread := num, caught := false } else o }
  pure { s with others := s.others ++ [u], parked := s.parked.filter fun p => p ≠ t }

/-- A doomed context that comes back in user mode observes at its PC (R364). -/
def observeBack (num : Nat) (s : State) : State :=
  let s := s.focus num
  if s.th.num = num && isDoomed s then observe s else s

/-- The requests of a gang's exchanges follow its members to their new slots (R230). -/
def moveRequests (move : Nat → Nat) (g : GangExch) : GangExch :=
  let go (r : Reply) : Reply := { r with requester := move r.requester, owner := move r.owner }
  { g with requests := g.requests.map go, serving := g.serving.map go }

/-- `RESUMPTION` (R355): a pre-empted task comes back with its unit once its slots, segments and generators are free and no work of a
higher class wants them. -/
def execEvResumption (i : Nat) (s : State) : Host.Outcome State Fault Refusal :=
  match lookup i s.tasks with
  | none => .next s
  | some k =>
    match returnSlots s k with
    | none => .next s
    | some xs =>
      if isOutranked s k (xs.map Prod.snd) then .next s
      else
        let move (n : Nat) : Nat := match xs.find? fun x => x.1.num = n with | some x => x.2 | none => n
        match xs.foldlM (fun s x => bringBack move x s) s with
        | none => .next s
        | some s =>
          let ids := (unitTasks s k).map Task.id
          let s := (unitTasks s k).foldl (fun s x => s.onTask x.id fun x =>
            { x with parked := false, flags := 0, slots := x.slots.map move, live := x.live.map move, record := remove 6 x.record }) s
          let s := { s with
            lastServed := insert (taskRank s k) k.card s.lastServed
            gangs := s.gangs.map fun g => if ids.contains g.1 then (g.1, moveRequests move g.2) else g }
          .next (xs.foldl (fun s x => observeBack x.2 s) s)

end Sys2Proof.Machine
end

