-- ==== Sys2Proof/Machine/Events.lean ====
section
/-! DEFINITION. Events of memory, messages, engines, reservations and cancellation (R101, R220 to R222, R243, R257, R266, R285,
R302, R310, R334, R343 to R348, R362 to R377, R391 to R393). -/

namespace Sys2Proof.Machine

/-! ### Messages and stores (R101, R220 to R222, R266) -/

/-- A packet leaves its sender's remote-scratch count (R220). -/
def endPacket (p : Packet) (s : State) : State :=
  s.onThreads (isContext p.sender p.task) fun t => { t with cntRemote := t.cntRemote - 1 }

/-- `PACKET_ARRIVAL` (R221, R222, R357): the packets of one sender for one receiver arrive in order. -/
def execEvPacketArrival (i : Nat) (s : State) : Host.Outcome State Fault Refusal :=
  match s.packets[i]? with
  | none => .next s
  | some p =>
    if (s.packets.take i).any fun q => q.sender = p.sender && q.target = p.target then .next s
    else .next (deliverPacket p.target p.msg (endPacket p { s with packets := dropAt i s.packets }))

/-- `REMOTE_SCRATCH_WRITE` (R101). -/
def execEvRemoteScratchWrite (i : Nat) (s : State) : Host.Outcome State Fault Refusal :=
  match s.stores[i]? with
  | none => .next s
  | some r => .next (if storeFirst s i r then landStore i r s else s)

/-- `GLOBAL_STORE_REGISTER` (R266). -/
def execEvGlobalStoreRegister (i : Nat) (s : State) : Host.Outcome State Fault Refusal :=
  match s.mem.posted[i]? with
  | none => .next s
  | some p => .next ((arrivePosted i p s).getD s)

/-! ### The banks (R243, R391 to R393) -/

/-- The recalls that a bank sends for a line: one to each cluster whose slices may hold a copy, under its registration (R243). -/
def sendRecalls (line : Nat) (s : State) : State :=
  let l := llcLine s line
  let cs := (List.range 32).filter fun c => l.present.getLsbD c
  s.onMem fun m => { m with recalls := m.recalls ++ cs.map fun c => { line := line, cluster := c, seq := (lookup c l.seqs).getD 0 } }

/-- A slice answers a recall: it gives the line up, or, where its registration is another, answers "not held" (R243). A recall that
must wait stays. -/
def answerRecall (s : State) (r : Recall) : State :=
  let gone (s : State) : State := s.onMem fun m => { m with recalls := m.recalls.erase r }
  let l := llcLine s r.line
  let held := s.mem.slices.find? fun h => h.cluster = r.cluster && h.pw.any fun p => p / 32 = r.line
  match held with
  | none => gone s
  | some h =>
    if !l.present.getLsbD r.cluster || (lookup r.cluster l.seqs).getD 0 ≠ r.seq then gone s
    else match recallLine r.cluster h.asid (h.wa / 32) r.line s with
      | some s => gone s
      | none => s

/-- `LLC_EVICT` (R243): a line that no slice may hold leaves its bank; for another the recalls are sent, and the line leaves once they
are answered. -/
def execEvLlcEvict (line : Nat) (s : State) : Host.Outcome State Fault Refusal :=
  let mine (s : State) : List Recall := s.mem.recalls.filter fun r => r.line = line
  if (lookup line s.mem.llc).isNone then .next s
  else
    let s := if (mine s).isEmpty then sendRecalls line s else (mine s).foldl answerRecall s
    .next (if (mine s).isEmpty then (evictBank line s).getD s else s)

/-- The bank a publish goes to, as a number of the device. -/
def Publish.bank (p : Publish) : Nat :=
  match p.words with
  | [] => 0
  | w :: _ => 16 * (4 * w.1 / 2 ^ 37) + bits (4 * w.1) 10 7

/-- `PUBLISH_APPLY` (R392): a publish whose dependencies are met is applied; another waits in the pending buffer of its bank,
which refuses it when 64 wait there. -/
def execEvPublishApply (i : Nat) (s : State) : Host.Outcome State Fault Refusal :=
  match s.mem.pubs[i]? with
  | none => .next s
  | some p =>
    match applyPublish i p s with
    | some s => .next s
    | none =>
      if p.buffered || p.refused || depsMet s p.die p.deps then .next s
      else
        let isFull := 64 ≤ (s.mem.pubs.filter fun q => q.buffered && q.bank = p.bank).length
        let p' := if isFull then { p with refused := true } else { p with buffered := true }
        .next (s.onMem fun m => { m with pubs := m.pubs.set i p' })

/-- `SUMMARY_EXCHANGE` (R392, R393): every bank learns the applied summaries, and each publish unit raises its dependency
vector to them. -/
def execEvSummaryExchange (s : State) : Host.Outcome State Fault Refusal :=
  let sums := s.mem.applied
  let raised (v : Vector Nat 8) : Vector Nat 8 := Vector.ofFn fun d => seqMax (sums[d.val]) (v[d.val])
  .next (s.onMem fun m =>
    { m with summary := sums, depV := m.depV.map raised, pubs := m.pubs.map fun p => if p.refused then { p with due := true } else p })

/-- `PUBLISH_RESEND` (R392): a refused publish is sent again after the next exchange of summaries. -/
def execEvPublishResend (i : Nat) (s : State) : Host.Outcome State Fault Refusal :=
  match s.mem.pubs[i]? with
  | none => .next s
  | some p =>
    .next (if p.refused && p.due then s.onMem fun m => { m with pubs := m.pubs.set i { p with refused := false, due := false } } else s)

/-! ### Engines (R285, R302, R310, R334) -/

/-- `ENGINE_OP_COMPLETE` (R285). -/
def execEvEngineOpComplete (tile ctx : Nat) (s : State) : Host.Outcome State Fault Refusal :=
  .next ((completeOp tile ctx s).getD s)

/-- `WALK_SLOT_CLAIM` (R302). -/
def execEvWalkSlotClaim (tile ctx num : Nat) (s : State) : Host.Outcome State Fault Refusal :=
  match opAt s tile ctx num with
  | none => .next s
  | some o => .next ((claimSlot o s).getD s)

/-- The operation that a command of a lost task became is cut (R389). -/
def cutArrived (c : Command) (before : State) (s : State) : State :=
  if c.lost then (s.eng.ops.filter fun o => (opAt before o.tile o.ctx o.num).isNone).foldl (fun s o => cutOp o s) s else s

/-- A command of some engines at its target: the commands of one sender for one tile keep their order. A command to a die that
is fenced is refused. -/
def commandArrival (i : Nat) (isFor : Nat → Bool) (accept : Command → State → Run State) (s : State) : State :=
  match s.eng.commands[i]? with
  | none => s
  | some c =>
    if !isFor c.engine || (s.eng.commands.take i).any (fun q => q.sender = c.sender && capTile q.cap = capTile c.cap) then s
    else if isLostDie s (16 * capTile c.cap) then (settleCommand c refuse s).getD s
    else ((settleCommand c (accept c s) s).map (cutArrived c s)).getD s

/-- `COMMAND_ARRIVAL` (R310). -/
def execEvCommandArrival (i : Nat) (s : State) : Host.Outcome State Fault Refusal :=
  .next (commandArrival i (fun e => e < 2) acceptCommand s)

/-- `MATRIX_COMMAND_ARRIVAL` (R334). -/
def execEvMatrixCommandArrival (i : Nat) (s : State) : Host.Outcome State Fault Refusal :=
  .next (commandArrival i (fun e => e = 2) acceptMatrix s)

/-! ### Engine faults (R343 to R348) -/

/-- `ENGINE_FAULT` (R343): what comes before the faulting granule is written first. -/
def execEvEngineFault (tile ctx num : Nat) (s : State) : Host.Outcome State Fault Refusal :=
  match opAt s tile ctx num with
  | none => .next s
  | some o =>
    let s := runJobs tile ctx num (2 * o.todo.length + 64) s
    match opAt s tile ctx num with
    | none => .next s
    | some o =>
      if o.halt.isSome || o.status.any (· ≠ 3) then .next s
      else match faultOf o s with
        | some (cause, va) => .next (haltOp o cause va s)
        | none => .next s

/-- The dirty words of a range that slices hold, written to the banks as far as they can be now: a shoot-down waits for none of them
(R251, R348). `base` is the place of the page, whose translation the slices are about to drop. -/
def writePage (asid lo size base : Nat) (s : State) : State :=
  let mine := s.mem.slices.filter fun h => h.asid = asid && lo ≤ 4 * h.wa && 4 * h.wa < lo + size
  let r := mine.foldl (fun (r : State × List Nat) h =>
    let pw := (base + (4 * h.wa - lo)) / 4
    match homeFind r.1 h.cluster h.asid h.wa with
    | some h => if (homeDirty r.1 h).isNone then r
      else match (roomFor [pw] r.1).bind (writeKnown false h pw) with
        | some s => (s, r.2 ++ [pw])
        | none => r
    | none => r) (s, [])
  (List.range 32).foldl (fun s c => clearNarrow c s) (watchWords false r.2 r.1)

/-- A page that has moved to a new place: what slices and publishes on their way hold of it goes there, and the directory at the new
place, which makes room for them, knows the slices that do. None where it has no room yet. -/
def rebase (m : MovingPage) (base : Nat) (s : State) : Option State :=
  let move (w : Nat) : Nat := if m.pbase ≤ 4 * w && 4 * w < m.pbase + m.size then w - m.pbase / 4 + base / 4 else w
  let mine := s.mem.slices.filter fun h => h.asid = m.asid && h.pw.any fun w => move w ≠ w
  let s := s.onMem fun x =>
    { x with
      slices := x.slices.map fun h => if h.asid = m.asid then { h with pw := h.pw.map move } else h
      pubs := x.pubs.map fun p => { p with words := p.words.map fun w => (move w.1, w.2) } }
  mine.foldlM (fun s h => match h.pw with
    | some w =>
      let line := move w / 32
      if isRemote (4 * move w) then some s
      else (roomBank line s).map fun s =>
        let s := setPresent h.cluster line s
        if h.narrow then onLlc line (fun l => { l with narrow := l.narrow ||| bit32 h.cluster }) s else s
    | none => some s) s

/-- A page shot down (R251, R348): every unit drops its translations. Where the leaf is moving, the slices write the page's dirty
lines, and requests stall until a shoot-down finds the leaf settled; the watches of its lines then live at their present homes (R232). A
shoot-down that must wait for room leaves the page moving. [DEDUCED, log 66] -/
def shootPage (asid va : Nat) (s : State) : State :=
  let isOld (m : MovingPage) : Bool := m.asid = asid && m.base ≤ va && va < m.base + m.size
  let settled (s : State) : State := s.onMem fun x => { x with moving := x.moving.filter fun m => !isOld m }
  let s := shootDown asid va s
  match walk s asid va with
  | .page _ base size _ _ _ true =>
    let lo := va - va % size
    let s := if s.mem.moving.any isOld then s
      else s.onMem fun x => { x with moving := x.moving ++ [{ asid := asid, base := lo, size := size, pbase := base }] }
    writePage asid lo size base s
  | .page _ base _ _ _ _ false => moveWatches asid (match s.mem.moving.find? isOld with
    | some m => ((rebase m base s).map settled).getD s
    | none => settled s)
  | _ => moveWatches asid (settled s)

/-- `SHOOTDOWN` (R348). -/
def execEvShootdown (asid va : Nat) (s : State) : Host.Outcome State Fault Refusal := .next (shootPage asid va s)

/-- The engine's answer to a resume packet that names a record at a physical address (R346, R347): with DISP 0 and 1 the halted granule
is walked again. None while it must wait. -/
def resumeOp (pa : Nat) (s : State) : Option State :=
  let f (k n : Nat) : Nat := readNat s.mem.dram (pa + k) n
  let state (x : Byte) (s : State) : State := s.onMem fun m => { m with dram := writeByte m.dram (pa + 7) x }
  match s.eng.ops.find? fun o => o.tile = f 4 2 && o.ctx % 16 = f 3 1 && o.num = f 16 8 && o.halt.any fun h => h.seq = f 48 8 with
  | none => some s
  | some o =>
    if f 7 1 ≠ 1 then some s
    else match f 8 1 with
      | 0 => some (state 2 (putOp { o with halt := none } (s.onMem fun m => { m with tlb := m.tlb.filter fun e =>
          !(e.unit = 1024 + o.tile && e.asid = o.asid && e.vbase ≤ f 24 8 && f 24 8 < e.vbase + e.size) })))
      | 1 => some (state 2 (putOp { o with halt := none } (shootPage (f 12 2) (f 24 8) s)))
      | _ => some (state 3 (stopOp o 8 true s))

/-- `RESUME_PACKET` (R346): the packet leaves its sender's global count. -/
def execEvResumePacket (i : Nat) (s : State) : Host.Outcome State Fault Refusal :=
  match s.eng.resumes[i]? with
  | none => .next s
  | some (num, va) =>
    let gone (s : State) : State :=
      (s.onEng fun e => { e with resumes := dropAt i e.resumes }).onThread num fun t => { t with cntGlobal := t.cntGlobal - 1 }
    match (s.thread? num).map fun t => walk s t.asid va with
    | some (.page pa _ _ _ _ _ _) => .next (match resumeOp pa s with | some s => gone s | none => s)
    | _ => .next (gone s)

/-! ### Reservations and kill points by count (R257, R365, R366, R369) -/

/-- `RESERVATION_EXPIRY` (R257): the reservation is lost after 64 retired instructions. -/
def execReservationExpiry (s : State) : Host.Outcome State Fault Refusal :=
  match s.th.resv with
  | some r => .next (if 64 ≤ r.since then { s with th := { s.th with resv := none } } else s)
  | none => .next s

/-- `KILL_COUNT_BOUNDARY` (R365): the boundary is a kill point, and the count starts again. -/
def execKillCountBoundary (s : State) : Host.Outcome State Fault Refusal :=
  if s.th.killCount < 4096 then .next s
  else
    let s : State := { s with th := { s.th with killCount := 0 } }
    .next (if isDoomed s then observe s else s)

/-- `CANCEL_HANDLER_LIMIT` (R369). -/
def execCancelHandlerLimit (s : State) : Host.Outcome State Fault Refusal :=
  .next (if s.th.inHandler && 2048 ≤ s.th.handlerCount then killHere s else s)

/-- `CANCEL_MARK_ARRIVAL` (R366): the mark reaches a thread's core. -/
def execEvCancelMarkArrival (slot : Nat) (s : State) : Host.Outcome State Fault Refusal :=
  if s.marks.contains slot then
    .next ({ s with marks := s.marks.erase slot }.onThread slot fun t => { t with marked := true })
  else .next s

/-! ### The end of killed tasks and of scopes (R362, R370, R371, R375) -/

/-- The contexts of a task, live and pre-empted. -/
def contextsOf (s : State) (id : Nat) : List Thread := (s.threads ++ s.parked).filter fun t => t.taskid = id

/-- A release of device scope for a context that need not be in focus. None while it must wait. -/
def releaseFor (t : Thread) (s : State) : Option State :=
  let f := s.focus t.num
  if f.th.num = t.num && f.th.taskid = t.taskid then
    match releaseAt (scopeLevel .device) f with | .ok s => some s | .error _ => none
  else
    match releaseAt (scopeLevel .device) { s with th := t } with | .ok r => some { r with th := s.th } | .error _ => none

/-- `EndKilled` (R370): one step towards the end of a task that a status has ended. Its stores are delivered, its operations cut
and completed, its words released; then nothing of it is left. -/
def endKilled (id : Nat) (s : State) : State :=
  match lookup id s.tasks with
  | none => s
  | some k =>
    match k.stage with
    | .ending status =>
      let s := abandonExchange id s
      let ts := contextsOf s id
      if ts.any fun t => t.cntRemote ≠ 0 || t.cntGlobal ≠ 0 || t.cntDevice ≠ 0 then s
      else
        let ops := s.eng.ops.filter fun o => o.task = id
        let uncut := ops.filter fun o => !o.status.any fun st => st = 1 || st = 7
        if !uncut.isEmpty then uncut.foldl (fun s o => cutOp o s) s
        else if !ops.isEmpty then s
        else match ts.foldl (fun r t => r.bind (releaseFor t)) (some s) with
          | none => s
          | some s => if (contextsOf s id).any fun t => t.cntDevice ≠ 0 then s else finishTask id status s
    | _ => s

/-- `END_KILLED` (R370). -/
def execEvEndKilled (task : Nat) (s : State) : Host.Outcome State Fault Refusal := .next (endKilled task s)

/-- A scope freed, with the card whose scope it was. -/
def freeScope (id : Nat) (s : State) : State :=
  let s := putScope id none s
  { s with cards := s.cards.filter fun c => !(c.2.scope = id && c.2.complete) }

/-- Whether an operation or a command that a task of some scopes issued has not completed, or a store, an atomic or a packet of an ended
task of theirs has not arrived (R375, R376). -/
def hasWork (s : State) (ids : List Nat) : Bool :=
  (s.eng.ops.any fun o => ids.contains o.scope) || (s.eng.commands.any fun c => ids.contains c.scope) ||
    s.trailing.any fun x => ids.contains x.2 && isStillSent s x.1

/-- `SCOPE_CANCELLED` (R375, R362): a cancelling scope whose subtree has finished. Its card completes; a card scope, and an
opened scope whose owner has ended, are free at once. -/
def execEvScopeCancelled (id : Nat) (s : State) : Host.Outcome State Fault Refusal :=
  match s.scope? id with
  | none => .next s
  | some r =>
    let below := (subtree s id).filter fun x => x ≠ id
    let isBusy : Bool := (s.tasks.any fun t => t.2.scope = id || below.contains t.2.scope) || hasWork s (id :: below) ||
      (below.any fun x => scopeState s x ≠ 4) || s.cards.any fun c => c.2.scope = id && c.2.isPending
    if r.state ≠ 3 || isBusy then .next s
    else
      let s := putScope id (some { r with state := 4 }) s
      let s := (s.cards.filter fun c => c.2.scope = id).foldl (fun s c => completeCard c.1 s) s
      .next (if r.kind = 1 || (r.kind = 2 && (lookup r.owner s.tasks).isNone) then freeScope id s else s)

/-- `SCOPE_FREED` (R362): a closing scope whose subtree is empty. An opened scope waits for its owner's `scope.close` while the
owner runs. [DEDUCED, log 71] -/
def execEvScopeFreed (id : Nat) (s : State) : Host.Outcome State Fault Refusal :=
  match s.scope? id with
  | none => .next s
  | some r =>
    if r.state = 2 && isScopeIdle s id && (r.kind ≠ 2 || (lookup r.owner s.tasks).isNone) then .next (freeScope id s) else .next s

end Sys2Proof.Machine
end

