-- ==== Sys2Proof/Machine/Power.lean ====
section
/-! DEFINITION. Dies, power and the Welt registers (R384 to R390, R402, R403, R405, R406, R412 to R416, R420, R421): the fence of a
die and its reset, retirement of a core, snapshots, the start of the device, and writes to the Welt register space. -/

namespace Sys2Proof.Machine

/-! ### Lost tasks (R195, R386, R387) -/

/-- A slot's die. -/
def dieOfSlot (num : Nat) : Nat := dieOfCore (coreOf num)

/-- Whether a task has a thread on a die, one whose launch the die has confirmed, or a pre-empted context whose partition lies there. -/
def hasThreadOn (die : Nat) (s : State) (k : Task) : Bool :=
  if k.parked then s.parked.any fun t => t.taskid = k.id && dieOfSlot t.num = die && !t.evicted
  else match k.stage with
    | .requested => k.slots.any fun n => dieOfSlot n = die
    | .launching => k.slots.any fun n => dieOfSlot n = die
    | _ => s.threads.any fun t => t.taskid = k.id && dieOfSlot t.num = die

/-- Whether a task is lost with a die: one of its unit, which a phrase of several tasks or a pre-emption makes, is there (R387). -/
def isLostWith (die : Nat) (s : State) (k : Task) : Bool :=
  if k.parked then (unitTasks s k).any (hasThreadOn die s)
  else (withPhrases s s.threads.length [k.id]).any fun id => (lookup id s.tasks).any (hasThreadOn die s)

/-- What a lost task leaves behind elsewhere: its operations are cut, those that its commands have yet to become among them, and its
exchange ends (R387, R389). -/
def cutLost (k : Task) (s : State) : State :=
  let s := (abandonExchange k.id s).onEng fun e =>
    { e with commands := e.commands.map fun c => if c.senderTask = k.id then { c with lost := true } else c }
  (s.eng.ops.filter fun o => o.task = k.id).foldl (fun s o => cutOp o s) s

/-- A task lost with its die (R387). A restartable card gets every chunk of it back, unless its scope is cancelling, and counts no
end; the scope of another card is cancelled by the loss, and the task ends with DIE_LOST. [DEDUCED, log 24] -/
def loseTask (k : Task) (s : State) : State :=
  let s := cutLost k s
  match lookup k.card s.cards with
  | none => clearTask k.id k s
  | some c =>
    if c.restart then
      let isAbandoned : Bool := 3 ≤ scopeState s c.scope
      let s := s.onCard c.id fun c =>
        { c with
          redeals := if isAbandoned then c.redeals else (k.deals.filter fun x => x.2 ≠ 0).foldl (fun r x => insertChunk x r) c.redeals
          count := c.count - 1 }
      clearTask k.id k s
    else finishTask k.id statusDieLost (markCancelling c.scope statusDieLost s)

/-! ### Lost words (R384, R388) -/

/-- A word reverts at its home to the last value on the Welt: it is marked, and its line's address is logged. An entry of the
log has 8 bytes, and a word whose line its slice does not hold and has no room for gets no mark [DESIGN CHOICE, log 43]. -/
def revertWord (die cluster asid wa : Nat) (s : State) : State :=
  let h := homeGet s cluster asid wa
  let s := match roomSlice cluster asid wa s with
    | some s => homePut { h with owner := none, narrow := h.narrow && h.dirty, lostWrite := true } s
    | none => s
  let line := match h.pw with
    | some p => p / 32 * 128
    | none => match walk s asid (4 * wa) with | .page pa _ _ _ _ _ _ => pa / 128 * 128 | _ => 0
  let d := (s.dies[die]?).getD {}
  let s := if d.lwbase = 0 then s
    else s.onMem fun m => { m with dram := writeBytes m.dram (d.lwbase.toNat + 8 * d.lwcount) (bytesOf 8 line) }
  onDie die (fun d => { d with lwcount := d.lwcount + 1 }) s

/-- A store that a tile of the die has accepted goes on (R384): a wide one carries its data, and one that only registers a word
leaves it reverted. -/
def settlePosted (die : Nat) (p : Posted) (s : State) : State :=
  let out (q : Option Posted) (s : State) : State := s.onMem fun m =>
    { m with posted := m.posted.flatMap fun x => if x = p then q.toList else [x] }
  match p.kind with
  | .store vals cp =>
    if cp = .noAlloc || (2 ≤ classAt s p.asid p.va && (5 ≤ p.scope || isFar s p.asid p.va)) then
      out (some { p with thread := 16384, kind := .store vals .noAlloc }) s
    else (wordsOf p.va p.size).foldl (fun s w => revertWord die (clusterOfCore p.core) p.asid w s) (out none s)
  | _ => out (some { p with thread := 16384 }) s

/-- The L1s of a die are lost (R388). -/
def loseWords (die : Nat) (s : State) : State :=
  let s := (s.mem.posted.filter fun p => dieOfCore p.core = die).foldl (fun s p => settlePosted die p s) s
  let ws := s.mem.l1.filter fun w => dieOfCore w.core = die
  let s := ws.foldl (fun s w =>
    let h := homeGet s (clusterOfCore w.core) w.asid w.wa
    if h.owner ≠ some w.core then s
    else if w.registered && w.dirty then revertWord die (clusterOfCore w.core) w.asid w.wa s
    else homePut { h with owner := none } s) s
  let s := s.onMem fun m =>
    { m with
      l1 := m.l1.filter fun w => dieOfCore w.core ≠ die
      slices := m.slices.map fun h => match h.owner with
        | some c => if dieOfCore c = die then { h with owner := none } else h
        | none => h
      fused := m.fused.filter fun f => f.1 / 4 ≠ die }
  (List.range 4).foldl (fun s c => clearNarrow (4 * die + c) s) s

/-! ### The fence (R386, R389) -/

/-- Counts of slots of a die that no context answers for any more. -/
def forgetSlots (die : Nat) (s : State) : State :=
  let gone (n : Nat) : Bool := n < 16384 && dieOfSlot n = die
  let s := s.onEng fun e => { e with resumes := e.resumes.map fun r => if gone r.1 then (16384, r.2) else r }
  { s with
    th := if s.th.live && gone s.th.num then Thread.empty else s.th
    others := s.others.filter fun t => !(t.live && gone t.num)
    stores := s.stores.filter fun r => !gone r.slot
    marks := s.marks.filter fun n => !gone n
    preempts := s.preempts.filter fun n => !gone n
    mgmt := { s.mgmt with halts := s.mgmt.halts.filter fun h => !gone h.1 } }

/-- The fence of a die, in the order of R386. A die that is fenced or that has not come up stays as it is. [DEDUCED, log 23] -/
def fenceDie (die : Nat) (s : State) : State :=
  let d := (s.dies[die]?).getD {}
  if d.fenced || !d.live then s
  else
    let s := onDie die (fun d => { d with live := false, fenced := true }) s
    let s := { s with mgmt := { s.mgmt with fences := s.mgmt.fences + 1 } }
    let onThis (k : Task) : Bool := k.slots.any fun n => dieOfSlot n = die
    let asked := (s.tasks.map Prod.snd).filter fun k => k.stage = .requested && onThis k
    let s := asked.foldl (fun s k =>
      if isLaunchDoomed s k then finishTask k.id (cancelStatus s k.scope) s else refusePlacement k s) s
    let lost := (s.tasks.map Prod.snd).filter (isLostWith die s)
    let s := lost.foldl (fun s k => match lookup k.id s.tasks with | some k => loseTask k s | none => s) s
    let s := loseWords die s
    let isMatrix (o : EngOp) : Bool := match o.kind with | .stream .. => true | _ => false
    let s := (s.eng.ops.filter fun o => dieOfTile o.tile = die && isMatrix o).foldl (fun s o => cutOp o s) s
    settleCards (s.cards.length + 1) (forgetSlots die s)

/-- `DIE_FENCE` (R386): a fatal error that ECC cannot correct may come at any time. -/
def execEvDieFence (die : Nat) (s : State) : Host.Outcome State Fault Refusal := .next (fenceDie die s)

/-- `WATCHDOG_EXPIRY` (R386). -/
def execEvWatchdogExpiry (die : Nat) (s : State) : Host.Outcome State Fault Refusal :=
  .next (if ((s.dies[die]?).getD {}).watchdog then fenceDie die s else s)

/-- `THERMAL_THROTTLE` (R421): the die's clock is throttled while its junction is at 95 °C. It changes timing only. -/
def execEvThermalThrottle (die : Nat) (s : State) : Host.Outcome State Fault Refusal :=
  .next (onDie die (fun d => { d with throttled := d.hot }) s)

/-- `THERMAL_TRIP` (R421). -/
def execEvThermalTrip (die : Nat) (s : State) : Host.Outcome State Fault Refusal :=
  .next (if ((s.dies[die]?).getD {}).trip then fenceDie die s else s)

/-- `DIECTL_FENCE` (R386, R412). -/
def execWeltDiectlFence (die : Nat) (value : Word) (s : State) : Host.Outcome State Fault Refusal :=
  .next (if value.getLsbD 0 then fenceDie die s else s)

/-- A fenced die is reset, which clears its factory-test latch (R72), and comes up or, where it fails its bring-up, stays fenced
(R390, R403). -/
def resetDie (die : Nat) (bringUp : Bool) (s : State) : State :=
  let d := (s.dies[die]?).getD {}
  if !d.fenced then s
  else
    let s := onDie die (fun d =>
      { d with ftm := false, watchdog := false, hot := false, trip := false, throttled := false, live := bringUp, fenced := !bringUp }) s
    if bringUp then s else { s with mgmt := { s.mgmt with replace := true } }

/-- `DIECTL_RESET` (R390, R412). -/
def execWeltDiectlReset (die : Nat) (value : Word) (bringUp : Bool) (s : State) : Host.Outcome State Fault Refusal :=
  .next (if value.getLsbD 1 then resetDie die bringUp s else s)

/-! ### Retirement (R402, R403) -/

/-- A tile's arithmetic core is retired: its key tables are emptied and the tasks on it are to be pre-empted. [DEDUCED, log 29] -/
def retireCore (tile : Nat) (s : State) : State :=
  let r := (lookup tile s.eng.tiles).getD {}
  if r.retired then s
  else
    let s := s.onEng fun e =>
      { e with tiles := insert tile { r with retired := true } e.tiles, keys := e.keys.filter fun k => k.tile ≠ tile }
    let s := { s with mgmt := { s.mgmt with replace := true } }
    (List.range 4).foldl (fun s i => askPreempt (16 * tile + 12 + i) s) s

/-- TILECTL written (R402, R412). -/
def writeTilectl (tile : Nat) (value : Word) (s : State) : State :=
  if 1024 ≤ tile then s
  else if value.getLsbD 0 then retireCore tile s
  else s.onEng fun e => match lookup tile e.tiles with
    | some r => { e with tiles := insert tile { r with retired := false } e.tiles }
    | none => e

/-- `TILECTL` (R402, R412). -/
def execWeltTilectl (tile : Nat) (value : Word) (s : State) : Host.Outcome State Fault Refusal := .next (writeTilectl tile value s)

/-! ### Health and snapshots (R403, R405, R406) -/

/-- A number with the bits that a test names. -/
def bitsWhere (n : Nat) (p : Nat → Bool) : Nat := ((List.range n).map fun i => if p i then 2 ^ i else 0).foldl (· + ·) 0

/-- The health record (R403). -/
def healthRecord (s : State) : List Byte :=
  let down := bitsWhere 8 fun d => ((s.dies[d]?).getD {}).fenced
  let ports := bitsWhere 6 fun p => !(s.fab.ports[p]?).getD false
  let retired := (s.eng.tiles.filter fun t => t.2.retired).length
  let isDegraded : Bool := down ≠ 0 || ports ≠ 0 || retired ≠ 0
  let sum (f : TileRec → Nat) : Nat := (s.eng.tiles.map fun t => f t.2).foldl (· + ·) 0
  let peers := bitsWhere 64 fun n => (lookup n s.fab.conns).any fun c => !c.up
  bytesOf 2 1 ++ bytesOf 1 ((if s.mgmt.replace then 1 else 0) + if isDegraded then 2 else 0) ++ bytesOf 1 down ++ bytesOf 1 ports
    ++ bytesOf 3 0 ++ bytesOf 4 retired ++ bytesOf 4 s.mgmt.fences ++ bytesOf 8 (sum TileRec.achks) ++ bytesOf 8 (sum TileRec.retries)
    ++ bytesOf 8 peers ++ List.replicate 24 0

/-- `SNAPTRIG_EDGE` (R405). -/
def execEvSnaptrigEdge (s : State) : Host.Outcome State Fault Refusal := .next (triggerSnapshot s)

/-- `SNAPCMD` (R405, R412). -/
def execWeltSnapcmd (value : Word) (s : State) : Host.Outcome State Fault Refusal :=
  .next (if value.getLsbD 0 then triggerSnapshot s else s)

/-- `SNAPSHOT_LATCH` (R405): the step in which the latch time comes latches at its end. -/
def execEvSnapshotLatch (s : State) : Host.Outcome State Fault Refusal := .next (latchSnapshot s)

/-! ### Welt registers (R412) -/

/-- A register of a die block written that has no behaviour of its own: bits that a field does not hold are ignored (R10). -/
def writeDieRegister (die off : Nat) (value : Word) (s : State) : State :=
  match off with
  | 0x008 => onDie die (fun d => { d with tvec := value &&& 0xFFFFFFFFFFFFC000 }) s
  | 0x010 => onDie die (fun d => { d with frbase := value &&& 0xFFFFFFFFFFFFFFC0 }) s
  | 0x018 => onDie die (fun d => { d with frslots := value }) s
  | 0x020 => onDie die (fun d => { d with frhead := value }) s
  | 0x030 => onDie die (fun d => { d with super := value &&& 0x0000000000FF3FFF }) s
  | 0x040 => onDie die (fun d => { d with lwbase := value }) s
  | _ => s

/-- A register of the Welt space written that has no behaviour of its own. The scope table follows its base (R363), and an
address space whose root is cleared loses its objects (R253). -/
def writeWelt (off : Nat) (value : Word) (s : State) : State :=
  if off % 8 ≠ 0 then s
  else if off = 0x18 then
    let s := { s with welt := { s.welt with scopebase := value &&& 0xFFFFFFFFFFE00000 } }
    s.scopes.foldl (fun s x => putScope x.1 (some x.2) s) s
  else if off = 0x20 then { s with welt := { s.welt with hotbase := value &&& 0x000FFFFFF8000001 } }
  else if off = 0x28 then { s with welt := { s.welt with poolbase := value } }
  else if off = 0x30 then { s with welt := { s.welt with poolpages := value } }
  else if 0x80 ≤ off ∧ off < 0x100 then
    { s with welt := { s.welt with qroot := insert ((off - 0x80) / 8) (value &&& 0xFFFF) s.welt.qroot } }
  else if 0x01000000 ≤ off ∧ off < 0x01080000 then
    let asid := (off - 0x01000000) / 8
    let s := if value.getLsbD 0 then s
      else s.onMem fun m => { m with objects := m.objects.filter fun o => o.2.asid ≠ asid }
    { s with welt := { s.welt with roots := insert asid (value &&& 0x000FFFFFFFFFF801) s.welt.roots } }
  else if 0x02000000 ≤ off ∧ off < 0x02800000 then
    writeDieRegister ((off - 0x02000000) / 0x100000) ((off - 0x02000000) % 0x100000) value s
  else s

/-- DISCARD written (R10, R412): each bit written 1 is cleared. -/
def writeDiscard (die : Nat) (value : Word) (s : State) : State :=
  onDie die (fun d => { d with discard := (BitVec.ofNat 64 d.discard &&& ~~~value).toNat }) s

/-- `DISCARD` (R412). -/
def execWeltDiscard (die : Nat) (value : Word) (s : State) : Host.Outcome State Fault Refusal := .next (writeDiscard die value s)

/-- A completion-node slot written (R412, R420): one bound to a card that has completed, or that is gone, fires at once.
[DEDUCED, log 27] -/
def bindNode (die k : Nat) (value : Word) (s : State) : State :=
  if 64 ≤ k then s
  else
    let w := value &&& 0x00000FFFFFFFFFFF
    let s := onDie die (fun d => { d with nodes := insert k w d.nodes }) s
    let isOpen : Bool := s.cards.any fun c => c.2.scope = bits w.toNat 15 0 && !c.2.complete
    if bits w.toNat 29 28 = 0 || isOpen then s else fireNode die k w s

/-- `NODE_BIND` (R412, R420). -/
def execWeltNodeBind (die k : Nat) (value : Word) (s : State) : Host.Outcome State Fault Refusal := .next (bindNode die k value s)

/-! ### READY (R408, R412, R415, R416) -/

/-- A CTAIL at or above the ring size stops its queue (R408). -/
def checkTail (q : Nat) (s : State) : State :=
  match s.host.queues[q]? with
  | none => s
  | some h => if h.csize ≤ h.ctail then onQueue q (fun h => { h with enabled := false, error := true }) s else s

/-- The tails of the enabled queues taken afresh (R408, R413). -/
def checkTails (s : State) : State :=
  (List.range 16).foldl (fun s q => if (s.host.queues[q]?).any HostQueue.enabled then checkTail q s else s) s

/-- What authenticates a FLOOR value: HMAC-SHA-384 over its 4 bytes under the key that the device seed gives (R415). [DESIGN CHOICE,
log 28] -/
def floorTag (seed : BitVec 256) (floor : Nat) : List Byte := Config.hmacSha384 (Config.hkdf seed 2) (bytesOf 4 floor)

/-- FLOOR raised to the accepted set's SVN with the tag of its new value; it never falls (R415). -/
def raiseFloor (m : Mgmt) : Mgmt :=
  if m.floor < m.recSvn then
    { m with floor := m.recSvn, floorMac := match m.seed with | some k => floorTag k m.recSvn | none => m.floorMac }
  else m

/-- The device becomes ready: FLOOR is raised, and the enabled queues' tails are read. -/
def enterReady (s : State) : State :=
  let m := raiseFloor s.mgmt
  checkTails { s with mgmt := { m with devstate := 3 } }

/-- DISTCTL written (R412): READY is copied to DEVSTATE once the Laster runs; its clearing shows there as 2 [DESIGN CHOICE,
log 100]. -/
def writeDistctl (value : Word) (s : State) : State :=
  let s := { s with welt := { s.welt with run := value.getLsbD 0, ready := value.getLsbD 1 } }
  if value.getLsbD 1 then (if s.mgmt.devstate = 2 then enterReady s else s)
  else if s.mgmt.devstate = 3 then { s with mgmt := { s.mgmt with devstate := 2 } } else s

/-- `DISTCTL` (R412). -/
def execWeltDistctl (value : Word) (s : State) : Host.Outcome State Fault Refusal := .next (writeDistctl value s)

/-- A register of the Welt space written, by its offset (R412): the registers with a behaviour of their own among them. A die
that RESET brings up answers as its self-test does (R413 step 7). -/
def writeWeltAny (off : Nat) (value : Word) (s : State) : State :=
  let die := (off - 0x02000000) / 0x100000
  let at' := (off - 0x02000000) % 0x100000
  if off % 8 ≠ 0 then s
  else if off = 0x10 then writeDistctl value s
  else if off = 0x40 then (if value.getLsbD 0 then triggerSnapshot s else s)
  else if 0x02000000 ≤ off ∧ off < 0x02800000 ∧ at' = 0 then
    let s := if value.getLsbD 0 then fenceDie die s else s
    if value.getLsbD 1 then resetDie die ((s.mgmt.diesOk[die]?).getD false) s else s
  else if 0x02000000 ≤ off ∧ off < 0x02800000 ∧ at' = 0x50 then writeDiscard die value s
  else if 0x02000000 ≤ off ∧ off < 0x02800000 ∧ 0x100 ≤ at' ∧ at' % 16 = 0 then bindNode die ((at' - 0x100) / 16) value s
  else if 0x04000000 ≤ off ∧ off < 0x04010000 ∧ off % 64 = 0 then writeTilectl ((off - 0x04000000) / 64) value s
  else writeWelt off value s

/-- `WELT_REGISTER_WRITE` (R412). -/
def execWeltRegisterWrite (off : Nat) (value : Word) (s : State) : Host.Outcome State Fault Refusal :=
  .next (writeWeltAny off value s)

/-- The writes that a step's accesses have made to the Welt register space take effect in their order (R412). -/
def settleWelt (s : State) : State :=
  s.welt.writes.foldl (fun s w => writeWeltAny w.1 w.2 s) { s with welt := { s.welt with writes := [] } }

/-! ### Images and records (R414, R415) -/

/-- A field of an image's header, of `n` bytes from byte `k` on (R414). -/
def Image.cut (i : Image) (k n : Nat) : List Byte := (i.bytes.drop k).take n
@[inherit_doc Image.cut] def Image.field (i : Image) (k n : Nat) : Nat := natOfBytes (i.cut k n)
/-- An image's security version, its load address and its body (R414). -/
def Image.svn (i : Image) : Nat := i.field 8 4
@[inherit_doc Image.svn] def Image.load (i : Image) : Nat := i.field 16 8
@[inherit_doc Image.svn] def Image.body (i : Image) : List Byte := i.cut 16896 (i.field 24 8)

/-- Whether the reserved bytes of an image's header are zero (R414). -/
def Image.isReservedZero (i : Image) : Bool := [(12, 4), (80, 48), (16736, 160)].all fun r => (i.cut r.1 r.2).all fun b => b = 0

/-- Whether both signatures of an image, SIGR and SIGS, verify over its header's bytes 0 to 127 (R414). -/
def Image.isSigned (i : Image) : Bool :=
  [(0, 128, 384), (1, 512, 16224)].all fun g => Config.verifies g.1 (Config.thavonKey g.1) (i.cut 0 128) (i.cut g.2.1 g.2.2)

/-- Whether an image is accepted at a step (R414). -/
def isAccepted (kind minsvn : Nat) (i : Image) : Bool :=
  i.field 0 4 = 0x4E594C50 && i.field 4 2 = 1 && i.field 6 2 = kind && i.isReservedZero && i.cut 32 48 = Config.sha384 i.body &&
    i.isSigned && minsvn ≤ i.svn

/-- The entries of a record set's body; none where one is malformed. The first argument bounds their number (R415). -/
def parseRecords : Nat → List Byte → Option (List ConfigRecord)
  | 0, _ => none
  | f + 1, bs =>
    let key := natOfBytes (bs.take 2)
    let n := natOfBytes ((bs.drop 2).take 2)
    if bs.length < 4 then none
    else if key = 0 then some []
    else if bs.length < 4 + n then none
    else (parseRecords f (bs.drop ((4 + n + 7) / 8 * 8))).map fun rs => (key, (bs.drop 4).take n) :: rs

/-- Whether a record's value is in its range. The widths and the order of the fields of keys 3 to 5 are the model's
[DESIGN CHOICE, log 44]. -/
def configOk (r : ConfigRecord) : Bool :=
  let n := r.2.length
  let x := natOfBytes r.2
  match r.1 with
  | 1 => n = 4
  | 2 => n = 1 && 1 ≤ x
  | 3 => n = 512
  | 4 => 1 ≤ n && natOfBytes (r.2.take 1) < 64
  | 5 => n = 16 && natOfBytes (r.2.drop 8) ≤ 2 ^ 36
  | 6 => n ≤ 8 && 900 ≤ x && x ≤ 1800
  | _ => true

/-- The records of a set, when it is as R415 says. -/
def recordsOf (body : List Byte) : Option (List ConfigRecord) :=
  (parseRecords (body.length + 1) body).filter fun rs =>
    rs.all configOk && (List.range 7).all fun k => (rs.filter fun r => r.1 = k + 1).length ≤ 1

/-- The record set that the ROM accepts: the copy with the higher SVN among those that verify and are not below FLOOR. -/
def chooseRecords (m : Mgmt) : Option (Image × List ConfigRecord) :=
  let good := m.configs.toList.filterMap fun i =>
    if isAccepted 2 m.floor i then (recordsOf i.body).map fun rs => (i, rs) else none
  good.foldl (fun b x => match b with | some y => if y.1.svn < x.1.svn then some x else b | none => some x) none

/-- A value of the record set. -/
def Mgmt.value (m : Mgmt) (key : Nat) : Option (List Byte) := lookup key m.records

/-! ### Start-up (R413) -/

/-- The boot stops. -/
def bootFails (code : Nat) (s : State) : State := { s with mgmt := { s.mgmt with devstate := 15, code := code } }
/-- The boot goes on with the next step. -/
def bootGoes (f : Mgmt → Mgmt) (s : State) : State :=
  let m := f s.mgmt
  { s with mgmt := { m with stage := m.stage + 1 } }

/-- An image's body loaded into the SRAM at its load address; what lies beyond the 8 MiB has no place. [DESIGN CHOICE, log 28] -/
def loadImage (i : Image) (m : Mgmt) : Mgmt := { m with sram := writeBytes m.sram i.load (i.body.take (8388608 - i.load)) }

/-- Step 2: the seed is rebuilt, and the two private identity keys are derived from it (R413, R417). None where the helper data does not
correct the start-up pattern. -/
def rebuildSeed (m : Mgmt) : Option Mgmt :=
  (Config.rebuildSeed Config.startPattern m.helper).map fun k =>
    { m with seed := some k, keys := some (Config.hkdf k 0, Config.hkdf k 1) }

/-- Whether FLOOR is authentic: the HMAC kept beside it in flash is that of its value under the key from the seed (R415). -/
def isFloorAuthentic (m : Mgmt) : Bool := m.seed.any fun k => m.floorMac = floorTag k m.floor

/-- A host queue as the record set describes its rings. -/
def HostQueue.withRings (h : HostQueue) (bs : List Byte) : HostQueue :=
  { h with
    cbase := natOfBytes (bs.take 8), csize := natOfBytes ((bs.drop 8).take 8)
    pbase := natOfBytes ((bs.drop 16).take 8), psize := natOfBytes ((bs.drop 24).take 8) }

/-- The rings of the host queues, which the Laster sets from the accepted records (R409, R413, R415). -/
def setRings (s : State) : State :=
  match s.mgmt.value 3 with
  | some v => (List.range 16).foldl (fun s q => onQueue q (fun h => h.withRings (v.drop (32 * q))) s) s
  | none => s

/-- The accepted records of the fabric and of BAR2 take effect. -/
def applyRecords (m : Mgmt) (s : State) : State :=
  let s := match m.value 4 with
    | some v => s.onFab fun f => { f with device := natOfBytes (v.take 1) }
    | none => s
  match m.value 5 with
  | some v => { s with host := { s.host with bar2base := natOfBytes (v.take 8), bar2size := natOfBytes (v.drop 8) } }
  | none => s

/-- Step 7: each die is released and tested. -/
def bringUpDies (s : State) : State :=
  let s := (List.range 8).foldl (fun s d =>
    let ok := (s.mgmt.diesOk[d]?).getD false
    onDie d (fun r => { r with live := ok, fenced := !ok }) s) s
  { s with mgmt := { s.mgmt with replace := s.mgmt.replace || (List.range 8).any fun d => !(s.mgmt.diesOk[d]?).getD false } }

/-- Step 8: the Laster sets the registers of the dies and the device, the root scopes of the host queues and of their address spaces
(R361), the queues' rings, and its grants of storage (R308, R421); what it writes there the spec leaves to it [DESIGN CHOICE, log 6]. -/
def setUp (s : State) : State :=
  let die (s : State) (d : Nat) : State :=
    [(0x008, 0), (0x010, 1), (0x018, 2), (0x030, 3), (0x040, 4)].foldl (fun s (r : Nat × Nat) =>
      writeDieRegister d r.1 (Config.lasterValue r.2 d) s) s
  let s := (List.range 8).foldl die s
  let s := [(0x18, 5), (0x20, 6), (0x28, 7), (0x30, 8)].foldl (fun s (r : Nat × Nat) => writeWelt r.1 (Config.lasterValue r.2 8) s) s
  let s := (List.range 16).foldl (fun s q => match createScope 0 0 0 s with
    | some (id, s) => writeWelt (0x80 + 8 * q) (BitVec.ofNat 64 id) s
    | none => s) s
  let s := (List.range 16).foldl (fun s q =>
    if (List.range q).any fun p => Config.queueSpace p = Config.queueSpace q then s
    else match createScope 0 0 0 s with | some (_, s) => s | none => s) s
  let s := setRings s
  { s with
    vectors := true, welt := { s.welt with run := true, ready := true }
    mgmt := { s.mgmt with
      grants := Config.namespaceGrants, drainGrants := Config.drainSpaces, drainTargets := Config.drainTargets } }

/-- `POWER_GOOD` (R413): the next step of the start. The loader closes the region of the private keys when it has loaded the Laster
(R417). [DESIGN CHOICE, log 28] -/
def execEvPowerGood (s : State) : Host.Outcome State Fault Refusal :=
  let m := s.mgmt
  if m.devstate = 15 then .next s
  else match m.stage with
    | 0 => .next (bootGoes (fun m => { m with cores := #v[true, false, false, false], sram := [] }) s)
    | 1 => .next (match rebuildSeed m with
      | some m => bootGoes (fun _ => m) s
      | none => bootFails 1 s)
    | 2 => .next (match (if isFloorAuthentic m then chooseRecords m else none) with
      | none => bootFails 2 s
      | some (i, rs) =>
        let get (k : Nat) : Option Nat := (lookup k rs).map natOfBytes
        let cap := (get 6).getD 1800
        let m' : Mgmt := { m with
          records := rs, recSvn := i.svn, recBody := i.body, minsvn := (get 1).getD 0, hthresh := (get 2).getD 2
          powerCap := cap, clock := if cap < 1800 then 700 - 25 * min 14 (Config.clockSteps cap) else 700
          debugKey := (lookup 7 rs).any fun v => v = m.identity }
        applyRecords m' (bootGoes (fun _ => m') s))
    | 3 => .next (match m.loaders.toList.find? (isAccepted 0 m.minsvn) with
      | some i => bootGoes (fun m => { loadImage i m with devstate := 1, loaderBody := i.body }) s
      | none => bootFails 3 s)
    | 4 => .next (if m.trainOk then bootGoes id s else bootFails 4 s)
    | 5 => .next (match m.lasters.toList.find? (isAccepted 1 m.minsvn) with
      | some i => bootGoes (fun m => { loadImage i m with devstate := 2, lasterBody := i.body, lasterSvn := i.svn, keysLocked := true }) s
      | none => bootFails 5 s)
    | 6 =>
      let s := bringUpDies s
      .next (if m.diesOk.toList.any id then bootGoes id s else bootFails 6 s)
    | 7 => .next (enterReady (bootGoes id (setUp s)))
    | _ => .next s

/-! ### Power and storage (R421) -/

/-- `POWER_CAP_COMMAND` (R421): a cap from 900 to 1,800 W; another changes nothing [DESIGN CHOICE, log 100]. It changes timing only. -/
def execMgmtPowerCap (watts : Nat) (s : State) : Host.Outcome State Fault Refusal :=
  .next (if watts < 900 ∨ 1800 < watts then s
    else { s with mgmt := { s.mgmt with
      powerCap := watts, clock := if watts < 1800 then 700 - 25 * min 14 (Config.clockSteps watts) else 700 } })

/-- `NVME_CONTROLLER_FAILURE` (R421): one of the four controllers fails; the drains in progress to the controller complete with MEDIA. -/
def execEvNvmeFailure (ctrl : Nat) (s : State) : Host.Outcome State Fault Refusal :=
  let isTo (o : EngOp) : Bool := match o.kind with
    | .drain 0 target _ _ _ => lookup (o.asid * 4294967296 + target) s.mgmt.grants = some ctrl
    | _ => false
  if 4 ≤ ctrl then .next s
  else
  let c := (s.mgmt.nvme[ctrl]?).getD {}
  let s := { s with mgmt := { s.mgmt with nvme := s.mgmt.nvme.setIfInBounds ctrl { c with ok := false } } }
  .next ((s.eng.ops.filter fun o => isTo o && o.status.isNone).foldl (fun s o => stopOp o 6 false s) s)

end Sys2Proof.Machine
end

