-- ==== Sys2Proof/Machine/Hostlink.lean ====
section
/-! DEFINITION. The host link (R406 to R410, R416): BAR0 registers, doorbells and queues, version negotiation, and accesses
through BAR2. Byte counts of the link are those of the data it carries [DESIGN CHOICE, log 42]. -/

namespace Sys2Proof.Machine

/-! ### Link and versions (R407, R408, R410) -/

/-- `HOST_LINK_UP` (R413): the link trains at step 1 of the start. -/
def execEvHostLinkUp (s : State) : Host.Outcome State Fault Refusal :=
  .next (if s.mgmt.stage = 0 then s else { s with host := { s.host with up := true } })

/-- The highest version that two ranges hold, or 0 (R410). -/
def commonVersion (lo hi lo' hi' : Nat) : Nat := if max lo lo' ≤ min hi hi' then min hi hi' else 0

/-- HOSTVER written (R408): the offered range, and with NEG the negotiation. Without a common version the queues are
disabled. -/
def writeHostver (value : Word) (s : State) : State :=
  let x := value.toNat
  let s := { s with host := { s.host with hmax := bits x 31 24, hmin := bits x 23 16 } }
  if value.getLsbD 40 then
    let v := commonVersion 1 2 s.host.hmin s.host.hmax
    { s with host := { s.host with
      chosen := v, queues := if v = 0 then s.host.queues.map fun h => { h with enabled := false } else s.host.queues } }
  else s

/-- `HOSTVER_NEG` (R408). -/
def execHostVerNeg (value : Word) (s : State) : Host.Outcome State Fault Refusal := .next (writeHostver value s)

/-! ### Queues (R408, R409) -/

/-- Whether the device works on doorbells (R413). -/
def isReady (s : State) : Bool := s.mgmt.devstate = 3

/-- CTAIL written (R408): before READY the doorbell is ignored, and the tail is read afresh at READY (R413). -/
def writeCtail (q : Nat) (value : Word) (s : State) : State :=
  let s := onQueue q (fun h => { h with ctail := bits value.toNat 31 0 }) s
  if isReady s then checkTail q s else s

/-- `CTAIL` (R408). -/
def execHostCtail (q : Nat) (value : Word) (s : State) : Host.Outcome State Fault Refusal := .next (writeCtail q value s)

/-- PHEAD written (R408): held entries follow. -/
def writePhead (q : Nat) (value : Word) (s : State) : State :=
  let s := onQueue q (fun h => { h with phead := bits value.toNat 31 0 }) s
  flushEntries q ((s.host.queues[q]?.map fun h => h.held.length).getD 0) s

/-- `PHEAD` (R408). -/
def execHostPhead (q : Nat) (value : Word) (s : State) : Host.Outcome State Fault Refusal := .next (writePhead q value s)

/-- A queue enabled or disabled (R408, R409): enabling starts the count of refusals and the pass of PHASE again; the
indices stay as they are [DESIGN CHOICE, log 100]. -/
def HostQueue.enable (h : HostQueue) (on : Bool) : HostQueue :=
  if on && !h.enabled then { h with enabled := true, refused := 0, phase := true } else { h with enabled := on }

/-- QENABLE written (R408): no effect while no version is chosen. -/
def writeQenable (value : Word) (s : State) : State :=
  if s.host.chosen = 0 then s
  else
    let s := (List.range 16).foldl (fun s q => onQueue q (fun h => h.enable (value.getLsbD q)) s) s
    if isReady s then checkTails s else s

/-- `QENABLE` (R408). -/
def execHostQenable (value : Word) (s : State) : Host.Outcome State Fault Refusal := .next (writeQenable value s)

/-- QERROR written: 1 clears (R408, R10). -/
def writeQerror (value : Word) (s : State) : State :=
  (List.range 16).foldl (fun s q => if value.getLsbD q then onQueue q (fun h => { h with error := false }) s else s) s

/-- `QERROR` (R408). -/
def execHostQerror (value : Word) (s : State) : Host.Outcome State Fault Refusal := .next (writeQerror value s)

/-- The next card slot of a queue is read and submitted into the queue's root scope (R409). -/
def readCard (q : Nat) (h : HostQueue) (s : State) : State :=
  let bs := readBytes s.host.memory (h.cbase + 64 * h.chead) 64
  let root := ((lookup q s.welt.qroot).getD 0).toNat
  let s := countBytes 28 64 (onQueue q (fun h => { h with chead := (h.chead + 1) % h.csize }) s)
  let (st, _, s) := submit { scope := root, asid := (Config.queueSpace q).toNat, host := some (q, h.chead) } bs s
  if st = 0 then s
  else postEntry q h.chead st 0 (onQueue q (fun h => { h with refused := (h.refused + 1) % 4294967296 }) s)

/-- `HOST_CARD_READ` (R409). -/
def execEvHostCardRead (q : Nat) (s : State) : Host.Outcome State Fault Refusal :=
  match s.host.queues[q]? with
  | none => .next s
  | some h => .next (if isReady s && h.enabled && h.chead ≠ h.ctail && h.csize ≠ 0 then readCard q h s else s)

/-! ### BAR0 (R408) -/

/-- A BAR0 register written, by its offset; bits that a field does not hold are ignored (R10). -/
def writeBar0 (off : Nat) (value : Word) (s : State) : State :=
  let q := (off - 0x1000) / 64
  if off = 0x08 then writeHostver value s
  else if off = 0x10 then writeQenable value s
  else if off = 0x18 then writeQerror value s
  else if 0x1000 ≤ off ∧ off < 0x1400 then
    match off % 64 with
    | 0x00 => writeCtail q value s
    | 0x18 => writePhead q value s
    | 0x20 => onQueue q (fun h => { h with vec := bits value.toNat 5 0 }) s
    | _ => s
  else s

/-- `BAR0_REGISTER_WRITE` (R408). -/
def execHostBar0Write (off : Nat) (value : Word) (s : State) : Host.Outcome State Fault Refusal :=
  .next (countBytes 28 8 (writeBar0 off value s))

/-- DEVSTATE (R416). -/
def deviceState (s : State) : Word :=
  BitVec.ofNat 64 (s.mgmt.devstate + 256 * bitsWhere 8 (fun d => ((s.dies[d]?).getD {}).live) + 65536 * (s.mgmt.lasterSvn % 65536)
    + 4294967296 * s.mgmt.code)

/-- A BAR0 register as it reads (R408). -/
def bar0Register (s : State) (off : Nat) : Word :=
  let of (f : HostQueue → Nat) : Word := BitVec.ofNat 64 ((s.host.queues[(off - 0x1000) / 64]?.map f).getD 0)
  if off = 0 then deviceState s
  else if off = 0x08 then
    BitVec.ofNat 64 (1 + 256 * 2 + 65536 * s.host.hmin + 16777216 * s.host.hmax + 4294967296 * s.host.chosen)
  else if off = 0x10 then BitVec.ofNat 64 (bitsWhere 16 fun q => (s.host.queues[q]?).any fun h => h.enabled)
  else if off = 0x18 then BitVec.ofNat 64 (bitsWhere 16 fun q => (s.host.queues[q]?).any fun h => h.error)
  else if 0x100 ≤ off ∧ off < 0x140 ∧ off % 8 = 0 then BitVec.ofNat 64 (natOfBytes (((healthRecord s).drop (off - 0x100)).take 8))
  else if 0x1000 ≤ off ∧ off < 0x1400 then
    match off % 64 with
    | 0x00 => of HostQueue.ctail
    | 0x08 => of HostQueue.chead
    | 0x10 => of HostQueue.ptail
    | 0x18 => of HostQueue.phead
    | 0x20 => of HostQueue.vec
    | 0x28 => of HostQueue.refused
    | _ => 0
  else if 0x100000 ≤ off ∧ off < 0x200000 then snapshotRegister s (off - 0x100000)
  else 0

/-! ### Accesses by physical address at the banks (R267, R399, R407) -/

/-- The lines of `n` bytes at a physical address. -/
def linesOf (pa n : Nat) : List Nat := (List.range ((pa % 128 + n + 127) / 128)).map fun i => pa / 128 + i

/-- Lines brought into their banks, with the narrow words of every cluster collected (R267). None while one must wait. -/
def collectLines (ls : List Nat) (s : State) : Option State :=
  ls.foldlM (fun s l => (bankMiss 0 l s).bind (forcedPublish l none)) s

/-- Whether a protection refuses an access to physical bytes at their banks (R304). -/
def isDenied (s : State) (writes : Bool) (pa n : Nat) : Bool := protectsPhys s 1 pa n || (writes && protectsPhys s 0 pa n)

/-- Bytes read at their banks at device scope, after forced publishes; those under a no-access protection read as zeros (R304). None
while it must wait. [DESIGN CHOICE, log 25] -/
def readPhys (pa n : Nat) (s : State) : Option (List Byte × State) :=
  (collectLines (linesOf pa n) s).map fun s =>
    ((readBytes s.mem.dram pa n).zip (List.range n) |>.map fun x => if protectsPhys s 1 (pa + x.2) 1 then 0 else x.1, s)

/-- Bytes written at their banks by no die: narrow words are collected first, and every copy is invalidated. A word written in part
stays poisoned (R245); a write that a protection refuses is not made (R304). None while it must wait. -/
def writePhys (pa : Nat) (bs : List Byte) (s : State) : Option State :=
  let n := bs.length
  if isDenied s true pa n then some s
  else if stallsPhys s pa n then none
  else
    (collectLines (linesOf pa n) s).map fun s =>
      watchWords true (wordsOf pa n) ((wordsOf pa n).foldl (fun s w =>
        let isWhole : Bool := pa ≤ 4 * w && 4 * w + 4 ≤ pa + n
        dropCopies w (bankPut (w, mergeWord pa n (natOfBytes bs) w (bankWord s w), isPoisoned s w && !isWhole) s)) s)

/-! ### BAR2 (R407) -/

/-- The physical address of an access through the window, where it lies in it whole. -/
def windowAddr (s : State) (off n : Nat) : Option Nat :=
  let pa := s.host.bar2base + off
  if n ≠ 0 && off + n ≤ min s.host.bar2size (2 ^ 36) && isLocal pa && isLocal (pa + n - 1) then some pa else none

/-- `BAR2_READ` (R407). -/
def execHostBar2Read (off len : Nat) (s : State) : Host.Outcome State Fault Refusal :=
  .next (match (windowAddr s off len).bind fun pa => readPhys pa len s with
    | some (bs, s) => countBytes 29 len { s with host := { s.host with reads := s.host.reads ++ [bs] } }
    | none => s)

/-- `BAR2_WRITE` (R407). -/
def execHostBar2Write (off : Nat) (bytes : List Byte) (s : State) : Host.Outcome State Fault Refusal :=
  .next (match (windowAddr s off bytes.length).bind fun pa => writePhys pa bytes s with
    | some s => countBytes 28 bytes.length s
    | none => s)

end Sys2Proof.Machine
end

