-- ==== Sys2Proof/Machine/Fabric.lean ====
section
/-! DEFINITION. The fabric (R398 to R401, R404, R410): reception in sequence, the operations of a packet, acknowledgement,
retransmission, peers that are down, versions and ports. -/

namespace Sys2Proof.Machine

/-! ### Connections (R398, R399) -/

/-- A change to a connection that exists. -/
def onConn (peer : Nat) (f : FabConn → FabConn) (s : State) : State :=
  s.onFab fun g => { g with conns := g.conns.map fun c => if c.1 = peer then (c.1, f c.2) else c }

/-- A packet outside the sequence: ACK, NAK, HELLO and HELLOR have SEQ 0. -/
def sendPlain (peer op ver : Nat) (aux : BitVec 32) (payload : List Byte) (s : State) : State :=
  let c := (lookup peer s.fab.conns).getD {}
  let p : FabPacket :=
    { ver := ver, flags := 0, src := s.fab.device, dst := peer, seq := 0, ack := BitVec.ofNat 32 c.recvSeq, tag := 0, aux := aux
      addr := 0, payload := payload }
  (countPacket false payload.length s).onFab fun f => { f with outbox := f.outbox ++ [(op, p)] }

/-- A packet sent again, with the acknowledgement of this moment. -/
def resend (u : Unacked) (s : State) : State :=
  let c := (lookup u.packet.dst s.fab.conns).getD {}
  (countPacket false u.packet.payload.length s).onFab fun f =>
    { f with outbox := f.outbox ++ [(u.op, { u.packet with ack := BitVec.ofNat 32 c.recvSeq })] }

/-- The answer to a request: its tag, with the status of a refusal in AUX [DESIGN CHOICE, log 45: for ATOMICR]. -/
def reply (p : FabPacket) (op : Nat) (status : Nat) (payload : List Byte) (s : State) : State :=
  (fabSend p.src op 0 (BitVec.ofNat 32 (if status = 0 then 0 else 1 + 256 * status)) p.tag.toNat 0 (beats payload) s).1

/-! ### Requests from a peer (R267, R309, R399) -/

/-- The bytes an access of a packet covers: its SIZE, or its whole beats. -/
def packetSize (p : FabPacket) : Nat :=
  match p.flags.toNat % 8 with
  | 0 => 1 | 1 => 2 | 2 => 4 | 3 => 8 | 7 => p.payload.length | _ => 0

/-- Whether an access lies in this device's memory. -/
def isHere (pa n : Nat) : Bool := isLocal pa && isLocal (pa + n - 1)

/-- Whether bytes are poisoned (R245). -/
def isBad (s : State) (pa n : Nat) : Bool := (wordsOf pa n).any (isPoisoned s)

/-- `LOAD` at the home: a refusal carries the status LEASE_OUT for an address that is no memory here [DESIGN CHOICE, log 45],
REGION_PROT for one under a no-access protection (R304), POISON for a poisoned word. -/
def serveLoad (p : FabPacket) (s : State) : Option State :=
  let n := packetSize p
  let pa := p.addr.toNat
  if !isHere pa n then some (reply p 0x11 statusLeaseOut [] s)
  else if isDenied s false pa n then some (reply p 0x11 statusRegionProt [] s)
  else (readPhys pa n s).map fun r =>
    if isBad r.2 pa n then reply p 0x11 statusPoison [] r.2 else reply p 0x11 0 r.1 r.2

/-- `STORE` at the home, acknowledged at once; one to an address that is no memory here or that a protection refuses has no effect
(R304). -/
def serveStore (p : FabPacket) (s : State) : Option State :=
  let n := packetSize p
  let ack (s : State) : State := (fabSend p.src 0x13 0 1 0 0 [] s).1
  if !isHere p.addr.toNat n then some (ack s) else (writePhys p.addr.toNat (p.payload.take n) s).map ack

/-- `ATOMIC` at the home (R258). -/
def serveAtomic (p : FabPacket) (s : State) : Option State :=
  let n := if p.flags.toNat / 256 % 2 = 1 then 8 else 4
  let pa := p.addr.toNat
  let arg (k : Nat) : Nat := natOfBytes ((p.payload.drop k).take n)
  if !isHere pa n then some (reply p 0x15 statusLeaseOut [] s)
  else if isDenied s true pa n then some (reply p 0x15 statusRegionProt [] s)
  else match readPhys pa n s with
    | none => none
    | some (bs, s) =>
      if isBad s pa n then some (reply p 0x15 statusPoison [] s)
      else match amoValue (p.flags.toNat / 16 % 16) n (natOfBytes bs) (arg 0) (arg 8) with
        | none => some (reply p 0x15 0 bs s)
        | some x => (writePhys pa (bytesOf n x) s).map (reply p 0x15 0 bs)

/-- The key under which a reservation of a peer's thread is kept. -/
def resvKey (p : FabPacket) : Nat := 128 * (p.addr.toNat / 8) + 16 * (p.addr.toNat % 8) + packetSize p

/-- A reservation of a peer's thread, which AUX names [DEDUCED, log 45], put in place of an earlier one or taken away. -/
def setResv (p : FabPacket) (key : Option Nat) (s : State) : State :=
  onConn p.src (fun c => { c with resvs := (c.resvs.filter fun r => r.1 ≠ p.aux.toNat) ++ (key.map fun k => (p.aux.toNat, k)).toList }) s

/-- `RSV` at the home (R257). -/
def serveRsv (p : FabPacket) (s : State) : Option State := (serveLoad p s).map (setResv p (some (resvKey p)))

/-- `CMT` at the home (R257). -/
def serveCmt (p : FabPacket) (s : State) : Option State :=
  let n := packetSize p
  let isHeld : Bool := (lookup p.src s.fab.conns).any fun c => c.resvs.contains (p.aux.toNat, resvKey p)
  let answer (x : BitVec 32) (s : State) : State := (fabSend p.src 0x18 0 x p.tag.toNat 0 [] s).1
  if !isHeld || !isHere p.addr.toNat n || isDenied s true p.addr.toNat n then some (answer 1 (setResv p none s))
  else (writePhys p.addr.toNat (p.payload.take n) s).map fun s => answer 0 (setResv p none s)

/-- `DRAIN` at the target (R308): the payload goes to the address space that the Laster granted; a page that is not mapped or not
writable, or a protection of the target (R304), refuses it. An address that is not a multiple of 128 is refused too: the spec gives
ADDR no alignment [DESIGN CHOICE, log 93]. -/
def serveDrain (p : FabPacket) (s : State) : Option State :=
  let asid := p.aux.toNat
  let va := p.addr.toNat
  let chunks := (List.range (p.payload.length / 128)).map fun i => (va + 128 * i, (p.payload.drop (128 * i)).take 128)
  let answer (x : BitVec 32) (s : State) : State := (fabSend p.src 0x31 0 x p.tag.toNat 0 [] s).1
  let page (a : Nat) : Option Nat := match walk s asid a with
    | .page pa _ _ _ true _ false => if isRemote pa || isWelt pa then none else some pa
    | _ => none
  let isMoving (a : Nat) : Bool := isOnTheMove s asid a || match walk s asid a with | .page _ _ _ _ _ _ m => m | _ => false
  let denied (a : Nat) : Bool := match page a with | some pa => isDenied s true pa 128 | none => false
  if !s.mgmt.drainGrants.contains asid || va % 128 ≠ 0 || chunks.any (fun c => ((page c.1).isNone && !isMoving c.1) || denied c.1) then
    some (answer 1 s)
  else if chunks.any fun c => isMoving c.1 then none
  else (chunks.foldl (fun (r : Option State) c => r.bind fun s => match page c.1 with
    | some pa => writePhys pa c.2 s
    | none => none) (some s)).map (answer 0)

/-! ### Answers from a peer (R46, R399) -/

/-- An operation of a code that a connection counts. -/
def opOfCode (s : State) (code : Nat) : Option EngOp :=
  if code < 32768 then none
  else s.eng.ops.find? fun o => opCode o = code

/-- Something sent for a thread or an operation leaves its count. -/
def endSent (who : Counter) (s : State) : State :=
  match who with
  | .nobody => s
  | .thread num id => s.onThreads (isContext num id) fun t => { t with cntDevice := t.cntDevice - 1 }
  | .op code => match opOfCode s code with
    | some o => putOp { o with sent := o.sent - 1 } s
    | none => s

/-- `STOREA`: the oldest stores are acknowledged in order. -/
def takeStoreAck (p : FabPacket) (s : State) : State :=
  match lookup p.src s.fab.conns with
  | none => s
  | some c =>
    let done := (c.stores.filter fun x => x.1 < 2 ^ 32).take p.aux.toNat
    done.foldl (fun s x => endSent x.2 s) (onConn p.src (fun c => { c with stores := c.stores.filter fun x => !done.contains x }) s)

/-- A reply put where its requester finds it. -/
def keepReply (p : FabPacket) (status : Nat) (s : State) : State :=
  s.onFab fun f => { f with replies := f.replies ++ [(p.tag.toNat, status, p.payload)] }

/-- The status that a reply's AUX carries. -/
def packetStatus (p : FabPacket) : Nat := if p.aux.getLsbD 0 then bits p.aux.toNat 15 8 else 0

/-- `ATOMICR`: the end of a posted atomic's count, or the old value for its thread. -/
def takeAtomicReply (p : FabPacket) (s : State) : State :=
  let key := 2 ^ 32 + p.tag.toNat
  match (lookup p.src s.fab.conns).bind fun c => c.stores.find? fun x => x.1 = key with
  | some x => endSent x.2 (onConn p.src (fun c => { c with stores := c.stores.filter fun y => y.1 ≠ key }) s)
  | none => keepReply p (packetStatus p) s

/-- `DRAINA`: a refusal fails the write, and the drain completes with MEDIA (R308). -/
def takeDrainAck (p : FabPacket) (s : State) : State :=
  match lookup p.tag.toNat s.fab.drains with
  | none => s
  | some code =>
    let s := s.onFab fun f => { f with drains := f.drains.filter fun d => d.1 ≠ p.tag.toNat }
    match opOfCode s code with
    | none => s
    | some o => putOp { o with sent := o.sent - 1, status := if p.aux = 0 then o.status else some (o.status.getD 6) } s

/-- The flits of an operation that this device holds when a flit arrives: those of its source before it, and the results that the operation
has not written. -/
def heldFlits (f : Flit) (s : State) : Nat :=
  let own := s.eng.flits.filter fun x => x.group = f.group && x.src = f.src
  let before := (own.reverse.takeWhile fun x => x.index < f.index).length
  let takers := s.eng.ops.filter (takesFlit s (f.group, f.src) f.index)
  before + match takers[(own.filter fun x => x.index = f.index).length]? with | some o => o.results.length | none => 0

/-- `COLL`: a flit waits for the member's operation (R401). None while 16 flits of that operation are held. -/
def takeFlit (p : FabPacket) (s : State) : Option State :=
  let f : Flit :=
    { group := bits p.aux.toNat 15 0, index := p.addr.toNat, src := p.src, topinf := p.flags.getLsbD 3
      lanes := (List.range (p.payload.length / 4)).map fun i => BitVec.ofNat 32 (natOfBytes ((p.payload.drop (4 * i)).take 4)) }
  if 16 ≤ heldFlits f s then none else some (arriveFlit f s)

/-- A packet applied in its turn. None while it must wait. -/
def applyPacket (op : Nat) (p : FabPacket) (s : State) : Option State :=
  match op with
  | 0x10 => serveLoad p s
  | 0x11 => some (keepReply p (packetStatus p) s)
  | 0x12 => serveStore p s
  | 0x13 => some (takeStoreAck p s)
  | 0x14 => serveAtomic p s
  | 0x15 => some (takeAtomicReply p s)
  | 0x16 => serveRsv p s
  | 0x17 => serveCmt p s
  | 0x18 => some (keepReply p p.aux.toNat s)
  | 0x20 => takeFlit p s
  | 0x30 => serveDrain p s
  | 0x31 => some (takeDrainAck p s)
  | _ => some (s.onFab fun f => { f with dropped := f.dropped + 1 })

/-! ### Reception (R399) -/

/-- Packets that are next in the sequence are applied, as long as they can be; the first argument bounds them. -/
def applyEarly (peer : Nat) : Nat → State → State
  | 0, s => s
  | f + 1, s =>
    match lookup peer s.fab.conns with
    | none => s
    | some c =>
      let next := (c.recvSeq + 1) % 4294967296
      match c.early.find? fun e => e.2.seq.toNat = next with
      | none => s
      | some e =>
        match applyPacket e.1 e.2 s with
        | none => s
        | some s =>
          applyEarly peer f (onConn peer (fun c =>
            { c with recvSeq := next, owed := true, early := c.early.filter fun x => x.2.seq.toNat ≠ next }) s)

/-- What every packet carries: the acknowledgement of what the peer has received in order. -/
def takeAck (p : FabPacket) (s : State) : State :=
  onConn p.src (fun c => { c with unacked := c.unacked.filter fun u => !seqGe p.ack.toNat u.packet.seq.toNat }) s

/-- Whether a packet is for this device and its connection is up, under the chosen version. -/
def isExpected (s : State) (p : FabPacket) : Bool :=
  p.dst = s.fab.device && (lookup p.src s.fab.conns).any fun c => c.up && c.ver = p.ver

/-- A packet that arrives (R399): what it acknowledges is dropped; then it is held, unless it was received before or 256 are
held, and what is next in the sequence is applied. -/
def receive (op : Nat) (p : FabPacket) (s : State) : State :=
  if !isExpected s p then s.onFab fun f => { f with dropped := f.dropped + 1 }
  else
    let s := takeAck p (countPacket true p.payload.length s)
    let c := (lookup p.src s.fab.conns).getD {}
    let isNew : Bool := !seqGe c.recvSeq p.seq.toNat && !c.early.any fun e => e.2.seq = p.seq
    let isNext : Bool := p.seq.toNat = (c.recvSeq + 1) % 4294967296
    let s := if isNew && (isNext || c.early.length < 256) then onConn p.src (fun c => { c with early := c.early ++ [(op, p)], owed := true }) s
      else onConn p.src (fun c => { c with owed := true }) s
    applyEarly p.src (c.early.length + 1) s

/-- `LOAD` (R399). -/
def execPktLoad (p : FabPacket) (s : State) : Host.Outcome State Fault Refusal := .next (receive 0x10 p s)
/-- `LOADR` (R399). -/
def execPktLoadr (p : FabPacket) (s : State) : Host.Outcome State Fault Refusal := .next (receive 0x11 p s)
/-- `STORE` (R399). -/
def execPktStore (p : FabPacket) (s : State) : Host.Outcome State Fault Refusal := .next (receive 0x12 p s)
/-- `STOREA` (R399). -/
def execPktStorea (p : FabPacket) (s : State) : Host.Outcome State Fault Refusal := .next (receive 0x13 p s)
/-- `ATOMIC` (R399). -/
def execPktAtomic (p : FabPacket) (s : State) : Host.Outcome State Fault Refusal := .next (receive 0x14 p s)
/-- `ATOMICR` (R399). -/
def execPktAtomicr (p : FabPacket) (s : State) : Host.Outcome State Fault Refusal := .next (receive 0x15 p s)
/-- `RSV_PACKET` (R399). -/
def execPktRsv (p : FabPacket) (s : State) : Host.Outcome State Fault Refusal := .next (receive 0x16 p s)
/-- `CMT_PACKET` (R399). -/
def execPktCmt (p : FabPacket) (s : State) : Host.Outcome State Fault Refusal := .next (receive 0x17 p s)
/-- `CMTR` (R399). -/
def execPktCmtr (p : FabPacket) (s : State) : Host.Outcome State Fault Refusal := .next (receive 0x18 p s)
/-- `COLL` (R399, R401). -/
def execPktColl (p : FabPacket) (s : State) : Host.Outcome State Fault Refusal := .next (receive 0x20 p s)
/-- `DRAIN` (R399). -/
def execPktDrain (p : FabPacket) (s : State) : Host.Outcome State Fault Refusal := .next (receive 0x30 p s)
/-- `DRAINA` (R399). -/
def execPktDraina (p : FabPacket) (s : State) : Host.Outcome State Fault Refusal := .next (receive 0x31 p s)

/-- A packet outside the sequence that arrives on a connection that is up. -/
def receivePlain (p : FabPacket) (act : State → State) (s : State) : State :=
  if !isExpected s p then s.onFab fun f => { f with dropped := f.dropped + 1 }
  else act (takeAck p (countPacket true p.payload.length s))

/-- `ACK` (R399). -/
def execPktAck (p : FabPacket) (s : State) : Host.Outcome State Fault Refusal := .next (receivePlain p id s)

/-- `NAK` (R399): the packets from the first missing one on are sent again. -/
def execPktNak (p : FabPacket) (s : State) : Host.Outcome State Fault Refusal :=
  .next (receivePlain p (fun s =>
    (((lookup p.src s.fab.conns).getD {}).unacked.filter fun u => seqGe u.packet.seq.toNat p.aux.toNat).foldl (fun s u => resend u s) s) s)

/-! ### Peers that are down (R400) -/

/-- Whether an operation involves a peer: it waits for its packets, or its collective or drain reaches it. -/
def involves (s : State) (peer : Nat) (c : FabConn) (o : EngOp) : Bool :=
  let asks (l : Loc) : Bool := match l with
    | .reply tag q _ => q = peer && !s.fab.replies.any fun r => r.1 = tag
    | _ => false
  let sources (j : Job) : List Loc := match j with
    | .granule es _ => es.map Elem.src
    | .chunk _ _ ls => ls
    | .record _ ls => ls
    | .lengths ls _ => ls
    | .tile _ => []
  c.stores.any (fun x => x.2 = .op (opCode o)) || o.todo.any (fun j => (sources j).any asks) || match o.kind with
    | .collective _ _ _ _ _ _ group _ => (lookup group s.eng.groups).any fun ms => ms.contains peer
    | .drain k target _ _ _ => k ≠ 0 && target = peer
    | _ => false

/-- A posted operation to a peer that is down leaves its thread's count and sets its remote-error bit. -/
def failSent (who : Counter) (s : State) : State :=
  match who with
  | .thread num id => s.onThreads (isContext num id) fun t => { t with cntDevice := t.cntDevice - 1, derr := true }
  | _ => s

/-- The requests of threads that a peer has not answered are answered with REMOTE_LOST, with which their tasks end; a posted atomic that
asked it for its words asks again. -/
def failReplies (peer : Nat) (s : State) : State :=
  let isOpen (r : Awaited) : Bool := r.peer = peer && !s.fab.replies.any fun x => x.1 = r.tag
  let tags := (s.threads.flatMap fun t => t.replies.filter isOpen).map Awaited.tag
  (s.onFab fun f => { f with replies := f.replies ++ tags.map fun tag => (tag, statusRemoteLost, []) }).onMem fun m =>
    { m with posted := m.posted.map fun p => match p.kind with
        | .amo _ _ _ => if p.sent.any isOpen' then { p with sent := none } else p
        | _ => p }
where
  isOpen' (x : Nat × Nat) : Bool := x.1 = peer

/-- A peer is down: what was posted to it fails, tasks that wait for its replies end with REMOTE_LOST, and operations that
involve it complete with REMOTE. -/
def peerDown (peer : Nat) (s : State) : State :=
  match lookup peer s.fab.conns with
  | none => s
  | some c =>
    if !c.up then s
    else
      let ops := s.eng.ops.filter fun o => involves s peer c o
      let isLost (o : EngOp) (d : Nat × Nat) : Bool := d.2 = opCode o && match o.kind with
        | .drain _ target _ _ _ => target = peer
        | _ => false
      let fail (s : State) (o : EngOp) : State :=
        let n := (c.stores.filter fun x => x.2 = .op (opCode o)).length + (s.fab.drains.filter (isLost o)).length
        let s := s.onFab fun f => { f with drains := f.drains.filter fun d => !isLost o d }
        let o := { o with sent := o.sent - n }
        if o.status.any (· ≠ 3) then putOp o s else stopOp o 5 false s
      let s := onConn peer (fun c => { c with up := false, unacked := [], early := [], stores := [], resvs := [], owed := false }) s
      let s := c.stores.foldl (fun s x => failSent x.2 s) s
      failReplies peer (ops.foldl fail s)

/-! ### Timers (R398, R399) -/

/-- `ACK_TIMER`: a receiver that has sent nothing since it received sends an ACK. -/
def execEvAckTimer (peer : Nat) (s : State) : Host.Outcome State Fault Refusal :=
  let s := applyEarly peer ((((lookup peer s.fab.conns).getD {}).early).length) s
  match lookup peer s.fab.conns with
  | none => .next s
  | some c => .next (if c.up && c.owed then onConn peer (fun c => { c with owed := false }) (sendPlain peer 0x01 c.ver 0 [] s) else s)

/-- `NAK_TIMER`: a receiver that sees a gap asks for the first missing packet. -/
def execEvNakTimer (peer : Nat) (s : State) : Host.Outcome State Fault Refusal :=
  match lookup peer s.fab.conns with
  | none => .next s
  | some c =>
    let next := (c.recvSeq + 1) % 4294967296
    let isGap : Bool := !c.early.isEmpty && !c.early.any fun e => e.2.seq.toNat = next
    .next (if c.up && isGap then sendPlain peer 0x02 c.ver (BitVec.ofNat 32 next) [] s else s)

/-- `RETRANSMIT_TIMER`: a packet is sent again at most 8 times; then its peer is down. -/
def execEvRetransmitTimer (peer seq : Nat) (s : State) : Host.Outcome State Fault Refusal :=
  match (lookup peer s.fab.conns).bind fun c => c.unacked.find? fun u => u.packet.seq.toNat = seq with
  | none => .next s
  | some u =>
    if 8 ≤ u.tries then .next (peerDown peer s)
    else .next (onConn peer (fun c => { c with unacked := c.unacked.map fun x => if x = u then { x with tries := x.tries + 1 } else x })
      (resend u s))

/-! ### Versions (R410) -/

/-- A connection set up anew under a version; 0 is none, and the peer is down. -/
def connect (peer ver : Nat) (s : State) : State :=
  let s := peerDown peer s
  if ver = 0 then
    (if (lookup peer s.fab.conns).isSome then s
      else s.onFab fun f => { f with conns := insert peer { ({} : FabConn) with up := false } f.conns })
  else s.onFab fun f => { f with conns := insert peer { ({} : FabConn) with ver := ver } f.conns }

/-- `HELLO`: the highest version that both ranges hold is chosen. -/
def execPktHello (p : FabPacket) (s : State) : Host.Outcome State Fault Refusal :=
  if p.dst ≠ s.fab.device || p.src = s.fab.device || 64 ≤ p.src then .next (s.onFab fun f => { f with dropped := f.dropped + 1 })
  else
    let s := countPacket true p.payload.length s
    let v := commonVersion 1 2 (natOfBytes (p.payload.take 1)) (natOfBytes ((p.payload.drop 1).take 1))
    .next (sendPlain p.src 0x41 v (BitVec.ofNat 32 v) [] (connect p.src v s))

/-- `HELLOR`: the version that the peer has chosen. -/
def execPktHellor (p : FabPacket) (s : State) : Host.Outcome State Fault Refusal :=
  if p.dst ≠ s.fab.device || p.src = s.fab.device || 64 ≤ p.src then .next (s.onFab fun f => { f with dropped := f.dropped + 1 })
  else .next (connect p.src (if p.aux.toNat ≤ 2 then p.aux.toNat else 0) (countPacket true p.payload.length s))

/-! ### Ports (R403, R404) -/

/-- `PORT_LINK_DOWN` (R404): with no port left every peer is down. -/
def execEvPortLinkDown (port : Nat) (s : State) : Host.Outcome State Fault Refusal :=
  let s := s.onFab fun f => { f with ports := f.ports.setIfInBounds port false }
  .next (if (livePorts s).isEmpty then s.fab.conns.foldl (fun s c => peerDown c.1 s) s else s)

/-- `PORT_LINK_TRAINING` (R403): a port comes up, or fails and asks for replacement. The first port to come up offers this
device's versions to the peers that are down [DEDUCED, log 46]. -/
def execEvPortLinkTraining (port : Nat) (trained : Bool) (s : State) : Host.Outcome State Fault Refusal :=
  if !trained then .next { s with mgmt := { s.mgmt with replace := true } }
  else
    let isFirst := (livePorts s).isEmpty
    let s := s.onFab fun f => { f with ports := f.ports.setIfInBounds port true }
    .next (if isFirst && !(livePorts s).isEmpty then
        (s.fab.conns.filter fun c => !c.2.up).foldl (fun s c => sendPlain c.1 0x40 2 0 (beats [1, 2]) s) s
      else s)

end Sys2Proof.Machine
end

