-- ==== Sys2Proof/Machine/Management.lean ====
section
/-! DEFINITION. Attestation, test access and debug (R72, R417, R418, R421, R422). -/

namespace Sys2Proof.Machine

/-- A change to the management cluster. -/
def State.onMgmt (s : State) (f : Mgmt → Mgmt) : State := { s with mgmt := f s.mgmt }

/-! ### Attestation (R418)

The order of the messages and what a transcript holds are those of DMTF SPDM 1.2, which the spec names and does not give: the
model keeps the request codes and nonces in turn [PRESUMED, log 47]. -/

/-- A message of SPDM after its predecessors: what it answers and the stage it reaches. One out of turn is answered with nothing.
The Laster answers them, once it runs. -/
def spdmMessage (code : Nat) (extra : List Byte) (need reach : Nat) (answer : List Byte → Mgmt → List Byte) (s : State) : State :=
  s.onMgmt fun m =>
    if m.stage < 6 then m
    else if m.spdm < need then { m with response := [] }
    else
      let t := (if code = 0x84 then [] else m.transcript) ++ bytesOf 1 code ++ extra
      { m with transcript := t, response := answer t m, spdm := if code = 0x84 then reach else max m.spdm reach }

/-- What the cluster's signing port gives over the hash of a transcript with one of the two private identity keys: 0 RSA, 1 SLH-DSA
(R417). -/
def signed (m : Mgmt) (scheme : Nat) (t : List Byte) : List Byte :=
  match m.keys with
  | some k => Config.signature scheme (if scheme = 0 then k.1 else k.2) (Config.sha384 t)
  | none => []

/-- A measurement block by its index. -/
def measurement (m : Mgmt) (t : List Byte) (index : Nat) : List Byte :=
  match index with
  | 1 => Config.sha384 Config.rom.toList
  | 2 => Config.sha384 m.recBody
  | 3 => Config.sha384 m.loaderBody
  | 4 => Config.sha384 m.lasterBody
  | 0xFD => signed m 1 t
  | _ => []

/-- `GET_VERSION` (R418): version 1.2. -/
def execSpdmGetVersion (s : State) : Host.Outcome State Fault Refusal := .next (spdmMessage 0x84 [] 0 1 (fun _ _ => [0x12]) s)
/-- `GET_CAPABILITIES` (R418). -/
def execSpdmGetCapabilities (s : State) : Host.Outcome State Fault Refusal := .next (spdmMessage 0xE1 [] 1 2 (fun _ _ => [0x12]) s)
/-- `NEGOTIATE_ALGORITHMS` (R418). -/
def execSpdmNegotiateAlgorithms (s : State) : Host.Outcome State Fault Refusal := .next (spdmMessage 0xE3 [] 2 3 (fun _ _ => [0x12]) s)
/-- `GET_DIGESTS` (R418). -/
def execSpdmGetDigests (s : State) : Host.Outcome State Fault Refusal :=
  .next (spdmMessage 0x81 [] 3 3 (fun _ _ => Config.sha384 Config.certificates) s)
/-- `GET_CERTIFICATE` (R417, R418). -/
def execSpdmGetCertificate (s : State) : Host.Outcome State Fault Refusal := .next (spdmMessage 0x82 [] 3 3 (fun _ _ => Config.certificates) s)
/-- `CHALLENGE` (R418): the device authenticates itself by its RSA signature over the transcript. -/
def execSpdmChallenge (nonce : List Byte) (s : State) : Host.Outcome State Fault Refusal :=
  .next (spdmMessage 0x83 nonce 3 4 (fun t m => signed m 0 t) s)
/-- `GET_MEASUREMENTS` (R418): index 0xFF asks for every block. Every report carries both signatures: it holds the block 0xFD and ends with
the RSA signature. -/
def execSpdmGetMeasurements (index : Nat) (nonce : List Byte) (s : State) : Host.Outcome State Fault Refusal :=
  .next (spdmMessage 0xE0 (bytesOf 1 index ++ nonce) 3 4 (fun t m =>
    ((if index = 0xFF then [1, 2, 3, 4] else [index].filter (· ≠ 0xFD)) ++ [0xFD]).flatMap (measurement m t) ++ signed m 0 t) s)

/-! ### Test access (R72, R421): 0 BYPASS, 1 SAMPLE/PRELOAD, 2 EXTEST, 3 IDCODE, 4 FTEST -/

/-- A TAP instruction with what its data register holds. -/
def tapInstruction (n : Nat) (data : Word) (s : State) : State := s.onMgmt fun m => { m with tap := n, tapData := data }

/-- `BYPASS` (R421). -/
def execTapBypass (s : State) : Host.Outcome State Fault Refusal := .next (tapInstruction 0 0 s)
/-- `SAMPLE_PRELOAD` (R421): what the pins show the spec leaves open [DESIGN CHOICE, log 7]. -/
def execTapSamplePreload (s : State) : Host.Outcome State Fault Refusal := .next (tapInstruction 1 (Config.pins s.fresh) s)
/-- `EXTEST` (R421): the pins are driven from the boundary register. -/
def execTapExtest (s : State) : Host.Outcome State Fault Refusal := .next (tapInstruction 2 s.mgmt.tapData s)
/-- `IDCODE` (R421). -/
def execTapIdcode (s : State) : Host.Outcome State Fault Refusal := .next (tapInstruction 3 0x18049D5B s)
/-- `FTEST` (R72): refused without the debug key, or on a die that is not fenced. -/
def execTapFtest (die : Nat) (s : State) : Host.Outcome State Fault Refusal :=
  .next (if s.mgmt.debugKey && ((s.dies[die]?).getD { fenced := false }).fenced then
      onDie die (fun d => { d with ftm := true }) (tapInstruction 4 0 s)
    else s)

/-! ### Halted threads (R422) -/

/-- The address of a slot's debug save area. -/
def debugArea (num : Nat) : Nat := 65536 * (1 + Config.debugPage num)

/-- The thread in focus halts at its PC: once its counts are zero and its stream operands have arrived, its state goes to its debug
save area, and HALTED is sent with an address. It keeps its slot, partition and generators. -/
def haltHere (addr : Nat) (s : State) : State :=
  if s.th.cntRemote ≠ 0 || s.th.cntGlobal ≠ 0 || s.th.cntDevice ≠ 0 || !streamsDrained s then s.waitHere
  else
    let area := debugArea s.th.num
    let t : Thread := { s.th.unqueue with resv := none, waiting := false }
    let s : State := { s with th := t }
    let ws := areaWords s t t.pc
    let s := s.onMem fun m => { m with dram := writeBytes m.dram area (ws.flatMap fun w => bytesOf 8 w.toNat) }
    { s with th := { s.th with run := .halted addr area false } }.onMgmt fun m => { m with halts := m.halts ++ [(t.num, addr, area)] }

/-- A halted thread resumes with the state of its debug save area; an area out of its format traps ILL VALUE (R410). It observes
cancellation then. `stepping` lets it go for one instruction. [DESIGN CHOICE, log 73] -/
def resumeHalted (num : Nat) (stepping : Bool) (s : State) : State :=
  let s := s.focus num
  match s.th.run with
  | .halted addr area false =>
    if s.th.num ≠ num || !s.th.live then s
    else
      let w (i : Nat) : Word := BitVec.ofNat 64 (readNat s.mem.dram (area + 8 * i) 8)
      let run : RunState := if stepping then .halted addr area true else .running
      let go (t : Thread) : Thread := { t.requeue with run := run, killCount := 0 }
      let s := s.onMgmt fun m => { m with halts := m.halts.filter fun h => h.1 ≠ num }
      if !areaOk w then takeTrap clsIll illValue 0 { s with th := go s.th }
      else
        let s := loadContext w s
        let s : State := { s with th := go s.th }
        if isDoomed s then observe s else s
  | _ => s

/-! ### The debug session (R422) -/

/-- A command of an open session: the session's time runs anew. -/
def inSession (f : State → State) (s : State) : State :=
  if s.mgmt.session then f (s.onMgmt fun m => { m with idle := s.time, response := [] }) else s

/-- `OPEN` (R422): only with the debug key, after an SPDM session has authenticated the device, and one at a time. -/
def execDbgOpen (s : State) : Host.Outcome State Fault Refusal :=
  .next (if s.mgmt.debugKey && s.mgmt.spdm = 4 && !s.mgmt.session then s.onMgmt fun m => { m with session := true, idle := s.time }
    else s)

/-- A session closed: every halted thread resumes, and one that was let go for one instruction goes on. -/
def closeSession (s : State) : State :=
  let s := (s.mgmt.halts.foldl (fun s h => resumeHalted h.1 false s) s).onMgmt fun m => { m with session := false }
  let isStepping (t : Thread) : Bool := match t.run with | .halted _ _ stepping => stepping | _ => false
  s.onThreads isStepping fun t => { t with run := .running, micro := if t.micro = 3 then 0 else t.micro }

/-- `CLOSE` (R422). -/
def execDbgClose (s : State) : Host.Outcome State Fault Refusal := .next (inSession closeSession s)

/-- The debug save area of a halted thread. -/
def areaOf (s : State) (num : Nat) : Option Nat := (lookup num s.mgmt.halts).map Prod.snd

/-- `READCTX` (R422). -/
def execDbgReadctx (thread off len : Nat) (s : State) : Host.Outcome State Fault Refusal :=
  .next (inSession (fun s => match areaOf s thread with
    | some a => if off + len ≤ 8 * areaSize then s.onMgmt fun m => { m with response := readBytes s.mem.dram (a + off) len } else s
    | none => s) s)

/-- `WRITECTX` (R422): changes take effect at resume. -/
def execDbgWritectx (thread off : Nat) (bytes : List Byte) (s : State) : Host.Outcome State Fault Refusal :=
  .next (inSession (fun s => match areaOf s thread with
    | some a => if off + bytes.length ≤ 8 * areaSize then s.onMem fun m => { m with dram := writeBytes m.dram (a + off) bytes } else s
    | none => s) s)

/-- `RESUME` (R422). -/
def execDbgResume (thread : Nat) (s : State) : Host.Outcome State Fault Refusal := .next (inSession (resumeHalted thread false) s)

/-- `DEBUG_STEP` (R422). -/
def execDbgStep (thread : Nat) (s : State) : Host.Outcome State Fault Refusal := .next (inSession (resumeHalted thread true) s)

/-- Pieces of a range of virtual addresses, each inside one line. -/
def linePieces (va n : Nat) : List (Nat × Nat) :=
  (List.range ((va % 128 + n + 127) / 128)).map fun i =>
    let lo := max va (va / 128 * 128 + 128 * i)
    (lo, min (va + n) (va / 128 * 128 + 128 * i + 128) - lo)

/-- Where an address lies that the management cluster reads or writes: its physical address, and whether its page is moving. None where
no memory is mapped. -/
def placeAt (s : State) (asid va : Nat) : Option (Nat × Bool) :=
  match walk s asid va with
  | .page pa _ _ _ _ _ moving => if isWelt pa then none else some (pa, moving || isOnTheMove s asid va)
  | _ => none

/-- Bytes of one line written at device scope by the management cluster: at their bank, or by packets to the device that homes them, whose
copies here are dropped. None while the write must wait. -/
def writeAt (pa : Nat) (bs : List Byte) (s : State) : Option State :=
  if isRemote pa then
    let k := if pa % 8 = 0 && bs.length % 8 = 0 then 8 else 1
    let s := (List.range (bs.length / k)).foldl (fun s i =>
      sendStore .nobody false (pa + k * i) ((bs.drop (k * i)).take k) s) s
    some ((wordsOf pa bs.length).foldl (fun s w => dropCopies w s) s)
  else writePhys pa bs s

/-- What is left of a debugger's access after its next `n` bytes, with what a read took. -/
def DebugAccess.past (d : DebugAccess) (n : Nat) (bs : List Byte) : DebugAccess :=
  { d with va := d.va + n, len := d.len - n, data := d.data.map fun x => x.drop n, read := d.read ++ bs, reply := none }

/-- The next piece of a debugger's access: the bytes to the end of their line, or what one packet moves of another device's memory. One
that meets a page no longer mapped, a device that is down or a refusal ends with no answer; none while it must wait.
[DESIGN CHOICE, log 73] -/
def debugPiece (d : DebugAccess) (s : State) : Option (Option DebugAccess × State) :=
  let far := if d.va % 8 = 0 && 8 ≤ d.len then 8 else 1
  match d.reply with
  | some (tag, peer) => match s.fab.replies.find? fun r => r.1 = tag with
    | some (_, st, bs) =>
      some (if st = 0 then some (d.past far (bs.take far)) else none, s.onFab fun f => { f with replies := f.replies.filter fun r => r.1 ≠ tag })
    | none => if isPeerUp s peer then none else some (none, s)
  | none => match placeAt s d.asid d.va with
    | none => some (none, s)
    | some (_, true) => none
    | some (pa, false) =>
      let n := if isRemote pa then far else min d.len (128 - d.va % 128)
      match d.data with
      | some bs => (writeAt pa (bs.take n) s).map fun s => (some (d.past n []), s)
      | none =>
        if !isRemote pa then (readPhys pa n s).map fun r => (some (d.past n r.1), r.2)
        else if !isPeerUp s (remoteDevice pa) then some (none, s)
        else
          let tag := s.fab.tag
          let r := fabSend (remoteDevice pa) 0x10 (BitVec.ofNat 16 (accessFlags n false)) 0 tag (pa % 2 ^ 40) [] s
          some (some { d with reply := some (tag, remoteDevice pa) }, r.1.onFab fun f => { f with tag := tag + 1 })

/-- The debugger's oldest access goes on, and the next ones after it, until one must wait; the first argument bounds the pieces. A read
that is whole is answered (R422). -/
def debugRun : Nat → State → State
  | 0, s => s
  | k + 1, s =>
    match s.mgmt.accesses with
    | [] => s
    | d :: rest =>
      if d.len = 0 then
        debugRun k (s.onMgmt fun m => { m with accesses := rest, response := if d.data.isNone then d.read else m.response })
      else match debugPiece d s with
        | none => s
        | some (d', s) => debugRun k (s.onMgmt fun m => { m with accesses := d'.toList ++ rest })

/-- What is left to do of the debugger's accesses at most. -/
def piecesLeft (s : State) : Nat := (s.mgmt.accesses.map fun d => 2 * d.len + 1).foldl (· + ·) 0

/-- A debugger's access begins; a range that is not mapped whole is answered with nothing, and nothing of it is written. -/
def debugAccess (d : DebugAccess) (s : State) : State :=
  if (linePieces d.va d.len).all fun x => (placeAt s d.asid x.1).isSome then
    let s := s.onMgmt fun m => { m with accesses := m.accesses ++ [d] }
    debugRun (piecesLeft s) s
  else s

/-- `READMEM` (R422). -/
def execDbgReadmem (asid va len : Nat) (s : State) : Host.Outcome State Fault Refusal :=
  .next (inSession (debugAccess { asid := asid, va := va, len := len }) s)

/-- `WRITEMEM` (R422). -/
def execDbgWritemem (asid va : Nat) (bytes : List Byte) (s : State) : Host.Outcome State Fault Refusal :=
  .next (inSession (debugAccess { asid := asid, va := va, len := bytes.length, data := some bytes }) s)

/-- `DEBUG_SESSION_TIMEOUT` (R422): 60 s without a command. -/
def execEvDebugSessionTimeout (s : State) : Host.Outcome State Fault Refusal :=
  .next (if s.mgmt.session && s.mgmt.idle + 60000000000 ≤ s.time then closeSession s else s)

end Sys2Proof.Machine
end

