-- ==== Sys2Proof/Machine/Laster.lean ====
section
/-! DEFINITION. The trap vectors that the Laster installs (R335, R339, R368, R419, R422). Once it has installed them, a thread that
enters one is served as the spec says the vector acts, in one step; where none are installed, the vector's code is fetched. -/

namespace Sys2Proof.Machine

/-- The class of the vector at which the thread in focus stands in a trap, while the Laster's vectors are installed (R33, R39).
[DESIGN CHOICE, log 19] -/
def vectorAt (s : State) : Option Nat :=
  let d := (s.th.pc - s.th.tvec).toNat
  if s.vectors && isSupervisor s.th.status && trapInProgress s.th.status && d % 64 = 0 && d / 64 < 30 then some (d / 64) else none

/-- A trap was taken in user mode: STATUS.PSV = 0. -/
def fromUser (s : State) : Bool := !s.th.status.getLsbD 1

/-- A vector ends the task with TRAPPED, and the CAUSE, EPC and EADDR at entry are recorded (R339). In a cancel handler it ends
CANCELLED (R369). -/
def endTrapped (s : State) : State :=
  if s.th.inHandler then killWith statusCancelled s
  else
    let isFirst : Bool := (s.taskOf s.th).any fun k => match k.stage with | .ending _ => false | _ => true
    let note (k : Task) : Task :=
      { k with record := insert 0 s.th.cause.toNat (insert 1 s.th.epc.toNat (insert 2 s.th.eaddr.toNat k.record)) }
    endHere statusTrapped (if isFirst then s.onTask s.th.taskid note else s)

/-- A vector returns to an address past the trapping instruction. -/
def returnPast (n : Nat) (s : State) : State :=
  trapReturn { s with th := { s.th with epc := s.th.epc + BitVec.ofNat 64 n } }

/-- The report packet of SPARSE_META (R335). -/
def metaReport (t : Thread) : Msg :=
  { sender := t.num, topinf := topinfOf t.fmode
    body := lanesFrom fun i =>
      let w : Word := match i / 2 with | 0 => t.epc | 1 => t.cause | 2 => t.eaddr | 3 => BitVec.ofNat 64 t.taskid | _ => 0
      BitVec.ofNat 32 (w.toNat / 2 ^ (32 * (i % 2))) }

/-- All ones: what a service answers that it cannot give. -/
def noService : Word := 0xFFFFFFFFFFFFFFFF

/-- SVC 0x01 (R419): pages added to the overflow area, as many as the pool has. -/
def addPages (s : State) : State :=
  let n := min (s.getD 5).toNat (freePages s)
  { s with th := { s.th with ownPages := s.th.ownPages + n } }.setD 5 (BitVec.ofNat 64 n)

/-- SVC 0x02 (R419): the health record copied to an address in the lease, whatever the permissions of its page; an address that no page
maps counts as outside it [DESIGN CHOICE, log 48]. None while a page is moving or a write must wait. -/
def copyHealth (s : State) : Option State :=
  let va := (s.getD 5).toNat
  let place (a : Nat) : Option (Nat × Bool) := placeAt s s.th.asid a
  let ps := linePieces va 64
  if !leaseAllows s s.th va 64 || ps.any fun x => (place x.1).isNone then some (s.setD 5 noService)
  else if ps.any fun x => (place x.1).any Prod.snd then none
  else
    let record := healthRecord s
    let r : Option State := ps.foldlM (fun s x => match place x.1 with
      | some (pa, _) => writeAt pa ((record.drop (x.1 - va)).take x.2) s
      | none => none) s
    r.map fun s => s.setD 5 0

/-- A service (R419). -/
def service (sub : Nat) (s : State) : Option State :=
  match sub with
  | 0 => some (s.setD 5 (BitVec.ofNat 64 (s.mgmt.lasterSvn % 4294967296)))
  | 1 => some (addPages s)
  | 2 => copyHealth s
  | _ => some (s.setD 5 noService)

/-- The vector of SVC: after its service the thread observes cancellation at the boundary (R419). -/
def serveSvc (s : State) : State :=
  match service (s.th.cause.toNat % 256) s with
  | none => s.waitHere
  | some s =>
    let s := returnPast 4 s
    if isDoomed s then observe s else s

/-- The vector of CANCEL (R368): d1 receives the first instruction not executed, and the handler is entered. -/
def enterHandler (s : State) : State :=
  let s := acquire (scopeLevel .device) (s.setD 1 s.th.epc)
  trapReturn { s with th := { s.th with epc := s.th.onc } }

/-- The vector of BRK (R419, R422): while a debug session is open the thread halts behind the `brk`, with the state its return
would have. -/
def serveBrk (s : State) : State :=
  if s.mgmt.session then
    let addr := s.th.epc.toNat
    let s' := returnPast 4 s
    let s' := haltHere addr s'
    if s'.th.waiting then s.waitHere else s'
  else endTrapped s

/-- A vector of the Laster serves the thread in focus (R335, R339, R368, R419). -/
def lasterVector (cls : Nat) (s : State) : State :=
  if cls = clsIntr then trapReturn { s with th := { s.th with event := true } }
  else if !fromUser s then endTrapped s
  else if cls = clsSparseMeta then
    match s.thread? s.th.num with
    | some _ => returnPast 12 (deliverPacket s.th.num (metaReport s.th) s)
    | none => endTrapped s
  else if cls = clsSvc then serveSvc s
  else if cls = clsCancel then enterHandler s
  else if cls = clsBrk then serveBrk s
  else endTrapped s

end Sys2Proof.Machine
end

