-- ==== Sys2Proof/Machine/Scalar.lean ====
section
/-! DEFINITION. The meanings of majors 0x01 to 0x04 and 0x08 to 0x0F (R82 to R89): integer arithmetic, logic, shifts, bit
fields, compares, selects, constants and predicates. -/

namespace Sys2Proof.Machine

/-- `bext` under a control value (R87): ILL VALUE where the control value is malformed. -/
def bextWith (len : Nat) (a b : DReg) (c : Word) (s : State) : Run State := do
  require (fieldCtlOk c) clsIll illValue
  .ok ((s.setD a (bitExtract (s.getD b) c)).advance len)

/-- `bins` under a control value, into the old value of dA (R87). -/
def binsWith (len : Nat) (a b : DReg) (c : Word) (s : State) : Run State := do
  require (fieldCtlOk c) clsIll illValue
  .ok ((s.setD a (bitInsert (s.getD a) (s.getD b) c)).advance len)

/-! ### Integer arithmetic (R84, R85) -/

/-- `add` (R84): (b + c) mod 2⁶⁴. -/
def execAdd (a b c : DReg) (s : State) : Host.Outcome State Fault Refusal :=
  finishRun s (scalar2 4 a b c (fun x y => x + y) s)

/-- `sub` (R84): (b − c) mod 2⁶⁴. -/
def execSub (a b c : DReg) (s : State) : Host.Outcome State Fault Refusal :=
  finishRun s (scalar2 4 a b c (fun x y => x - y) s)

/-- `mul` (R84): low 64 bits of b × c. -/
def execMul (a b c : DReg) (s : State) : Host.Outcome State Fault Refusal :=
  finishRun s (scalar2 4 a b c (fun x y => x * y) s)

/-- `mulh` (R84): high half of the signed product. -/
def execMulh (a b c : DReg) (s : State) : Host.Outcome State Fault Refusal :=
  finishRun s (scalar2 4 a b c mulHighS s)

/-- `mulhn` (R84): high half of the unsigned product. -/
def execMulhn (a b c : DReg) (s : State) : Host.Outcome State Fault Refusal :=
  finishRun s (scalar2 4 a b c mulHighU s)

/-- `div` (R84, R85): signed quotient. -/
def execDiv (a b c : DReg) (s : State) : Host.Outcome State Fault Refusal :=
  finishRun s (scalarDiv 4 a b (s.getD c) divS s)

/-- `divn` (R84, R85): unsigned quotient. -/
def execDivn (a b c : DReg) (s : State) : Host.Outcome State Fault Refusal :=
  finishRun s (scalarDiv 4 a b (s.getD c) divU s)

/-- `rem` (R84, R85): signed remainder. -/
def execRem (a b c : DReg) (s : State) : Host.Outcome State Fault Refusal :=
  finishRun s (scalarDiv 4 a b (s.getD c) remS s)

/-- `remn` (R84, R85): unsigned remainder. -/
def execRemn (a b c : DReg) (s : State) : Host.Outcome State Fault Refusal :=
  finishRun s (scalarDiv 4 a b (s.getD c) remU s)

/-- `min` (R84): smaller signed value. -/
def execMin (a b c : DReg) (s : State) : Host.Outcome State Fault Refusal :=
  finishRun s (scalar2 4 a b c minS s)

/-- `max` (R84): larger signed value. -/
def execMax (a b c : DReg) (s : State) : Host.Outcome State Fault Refusal :=
  finishRun s (scalar2 4 a b c maxS s)

/-- `minn` (R84): smaller unsigned value. -/
def execMinn (a b c : DReg) (s : State) : Host.Outcome State Fault Refusal :=
  finishRun s (scalar2 4 a b c minU s)

/-- `maxn` (R84): larger unsigned value. -/
def execMaxn (a b c : DReg) (s : State) : Host.Outcome State Fault Refusal :=
  finishRun s (scalar2 4 a b c maxU s)

/-- `add` with a literal (R83, R84). -/
def execAddLit (a b : DReg) (k : Word) (s : State) : Host.Outcome State Fault Refusal :=
  finishRun s (scalarK 12 a b k (fun x y => x + y) s)

/-- `sub` with a literal (R83, R84). -/
def execSubLit (a b : DReg) (k : Word) (s : State) : Host.Outcome State Fault Refusal :=
  finishRun s (scalarK 12 a b k (fun x y => x - y) s)

/-- `mul` with a literal (R83, R84). -/
def execMulLit (a b : DReg) (k : Word) (s : State) : Host.Outcome State Fault Refusal :=
  finishRun s (scalarK 12 a b k (fun x y => x * y) s)

/-- `mulh` with a literal (R83, R84). -/
def execMulhLit (a b : DReg) (k : Word) (s : State) : Host.Outcome State Fault Refusal :=
  finishRun s (scalarK 12 a b k mulHighS s)

/-- `mulhn` with a literal (R83, R84). -/
def execMulhnLit (a b : DReg) (k : Word) (s : State) : Host.Outcome State Fault Refusal :=
  finishRun s (scalarK 12 a b k mulHighU s)

/-- `div` with a literal (R83, R85). -/
def execDivLit (a b : DReg) (k : Word) (s : State) : Host.Outcome State Fault Refusal :=
  finishRun s (scalarDiv 12 a b k divS s)

/-- `divn` with a literal (R83, R85). -/
def execDivnLit (a b : DReg) (k : Word) (s : State) : Host.Outcome State Fault Refusal :=
  finishRun s (scalarDiv 12 a b k divU s)

/-- `rem` with a literal (R83, R85). -/
def execRemLit (a b : DReg) (k : Word) (s : State) : Host.Outcome State Fault Refusal :=
  finishRun s (scalarDiv 12 a b k remS s)

/-- `remn` with a literal (R83, R85). -/
def execRemnLit (a b : DReg) (k : Word) (s : State) : Host.Outcome State Fault Refusal :=
  finishRun s (scalarDiv 12 a b k remU s)

/-- `min` with a literal (R83, R84). -/
def execMinLit (a b : DReg) (k : Word) (s : State) : Host.Outcome State Fault Refusal :=
  finishRun s (scalarK 12 a b k minS s)

/-- `max` with a literal (R83, R84). -/
def execMaxLit (a b : DReg) (k : Word) (s : State) : Host.Outcome State Fault Refusal :=
  finishRun s (scalarK 12 a b k maxS s)

/-- `minn` with a literal (R83, R84). -/
def execMinnLit (a b : DReg) (k : Word) (s : State) : Host.Outcome State Fault Refusal :=
  finishRun s (scalarK 12 a b k minU s)

/-- `maxn` with a literal (R83, R84). -/
def execMaxnLit (a b : DReg) (k : Word) (s : State) : Host.Outcome State Fault Refusal :=
  finishRun s (scalarK 12 a b k maxU s)

/-- `add` with a sign-extended IMM14 (R84). -/
def execAddImm (a b : DReg) (i : BitVec 14) (s : State) : Host.Outcome State Fault Refusal :=
  finishRun s (scalarK 4 a b (imm14 i) (fun x y => x + y) s)

/-! ### Logic, shifts and bit fields (R86, R87) -/

/-- `and` (R86). -/
def execAnd (a b c : DReg) (s : State) : Host.Outcome State Fault Refusal :=
  finishRun s (scalar2 4 a b c (fun x y => x &&& y) s)

/-- `or` (R86). -/
def execOr (a b c : DReg) (s : State) : Host.Outcome State Fault Refusal :=
  finishRun s (scalar2 4 a b c (fun x y => x ||| y) s)

/-- `xor` (R86). -/
def execXor (a b c : DReg) (s : State) : Host.Outcome State Fault Refusal :=
  finishRun s (scalar2 4 a b c (fun x y => x ^^^ y) s)

/-- `andn` (R86). -/
def execAndn (a b c : DReg) (s : State) : Host.Outcome State Fault Refusal :=
  finishRun s (scalar2 4 a b c (fun x y => x &&& ~~~ y) s)

/-- `orn` (R86). -/
def execOrn (a b c : DReg) (s : State) : Host.Outcome State Fault Refusal :=
  finishRun s (scalar2 4 a b c (fun x y => x ||| ~~~ y) s)

/-- `sll` by bits 5:0 of the source (R86). -/
def execSll (a b c : DReg) (s : State) : Host.Outcome State Fault Refusal :=
  finishRun s (scalar2 4 a b c (fun x y => x <<< (y.toNat % 64)) s)

/-- `srl` by bits 5:0 of the source (R86). -/
def execSrl (a b c : DReg) (s : State) : Host.Outcome State Fault Refusal :=
  finishRun s (scalar2 4 a b c (fun x y => x >>> (y.toNat % 64)) s)

/-- `sra` by bits 5:0 of the source (R86). -/
def execSra (a b c : DReg) (s : State) : Host.Outcome State Fault Refusal :=
  finishRun s (scalar2 4 a b c (fun x y => x.sshiftRight (y.toNat % 64)) s)

/-- `rol` by bits 5:0 of the source (R86). -/
def execRol (a b c : DReg) (s : State) : Host.Outcome State Fault Refusal :=
  finishRun s (scalar2 4 a b c (fun x y => rotL x (y.toNat % 64)) s)

/-- `ror` by bits 5:0 of the source (R86). -/
def execRor (a b c : DReg) (s : State) : Host.Outcome State Fault Refusal :=
  finishRun s (scalar2 4 a b c (fun x y => rotR x (y.toNat % 64)) s)

/-- `bext` (R87). -/
def execBext (a b c : DReg) (s : State) : Host.Outcome State Fault Refusal :=
  finishRun s (bextWith 4 a b (s.getD c) s)

/-- `bins` (R87). -/
def execBins (a b c : DReg) (s : State) : Host.Outcome State Fault Refusal :=
  finishRun s (binsWith 4 a b (s.getD c) s)

/-- `clz` (R86): leading zero bits. -/
def execClz (a b : DReg) (s : State) : Host.Outcome State Fault Refusal :=
  finishRun s (scalar1 4 a b (fun x => BitVec.ofNat 64 (leadingZeros x)) s)

/-- `ctz` (R86): trailing zero bits. -/
def execCtz (a b : DReg) (s : State) : Host.Outcome State Fault Refusal :=
  finishRun s (scalar1 4 a b (fun x => BitVec.ofNat 64 (trailingZeros x)) s)

/-- `popc` (R86): one bits. -/
def execPopc (a b : DReg) (s : State) : Host.Outcome State Fault Refusal :=
  finishRun s (scalar1 4 a b (fun x => BitVec.ofNat 64 (popCount x)) s)

/-- `brev` (R86). -/
def execBrev (a b : DReg) (s : State) : Host.Outcome State Fault Refusal :=
  finishRun s (scalar1 4 a b bitReverse s)

/-- `sll` by a constant amount (R86). -/
def execSllAmount (a b : DReg) (n : BitVec 6) (s : State) : Host.Outcome State Fault Refusal :=
  finishRun s (scalar1 4 a b (fun x => x <<< n.toNat) s)

/-- `srl` by a constant amount (R86). -/
def execSrlAmount (a b : DReg) (n : BitVec 6) (s : State) : Host.Outcome State Fault Refusal :=
  finishRun s (scalar1 4 a b (fun x => x >>> n.toNat) s)

/-- `sra` by a constant amount (R86). -/
def execSraAmount (a b : DReg) (n : BitVec 6) (s : State) : Host.Outcome State Fault Refusal :=
  finishRun s (scalar1 4 a b (fun x => x.sshiftRight n.toNat) s)

/-- `rol` by a constant amount (R86). -/
def execRolAmount (a b : DReg) (n : BitVec 6) (s : State) : Host.Outcome State Fault Refusal :=
  finishRun s (scalar1 4 a b (fun x => rotL x n.toNat) s)

/-- `ror` by a constant amount (R86). -/
def execRorAmount (a b : DReg) (n : BitVec 6) (s : State) : Host.Outcome State Fault Refusal :=
  finishRun s (scalar1 4 a b (fun x => rotR x n.toNat) s)

/-- `and` with a literal (R83, R86). -/
def execAndLit (a b : DReg) (k : Word) (s : State) : Host.Outcome State Fault Refusal :=
  finishRun s (scalarK 12 a b k (fun x y => x &&& y) s)

/-- `or` with a literal (R83, R86). -/
def execOrLit (a b : DReg) (k : Word) (s : State) : Host.Outcome State Fault Refusal :=
  finishRun s (scalarK 12 a b k (fun x y => x ||| y) s)

/-- `xor` with a literal (R83, R86). -/
def execXorLit (a b : DReg) (k : Word) (s : State) : Host.Outcome State Fault Refusal :=
  finishRun s (scalarK 12 a b k (fun x y => x ^^^ y) s)

/-- `andn` with a literal (R83, R86). -/
def execAndnLit (a b : DReg) (k : Word) (s : State) : Host.Outcome State Fault Refusal :=
  finishRun s (scalarK 12 a b k (fun x y => x &&& ~~~ y) s)

/-- `orn` with a literal (R83, R86). -/
def execOrnLit (a b : DReg) (k : Word) (s : State) : Host.Outcome State Fault Refusal :=
  finishRun s (scalarK 12 a b k (fun x y => x ||| ~~~ y) s)

/-- `bext` (R87). -/
def execBextLit (a b : DReg) (k : Word) (s : State) : Host.Outcome State Fault Refusal :=
  finishRun s (bextWith 12 a b k s)

/-- `bins` (R87). -/
def execBinsLit (a b : DReg) (k : Word) (s : State) : Host.Outcome State Fault Refusal :=
  finishRun s (binsWith 12 a b k s)

/-- `and` with a sign-extended IMM14 (R86). -/
def execAndImm (a b : DReg) (i : BitVec 14) (s : State) : Host.Outcome State Fault Refusal :=
  finishRun s (scalarK 4 a b (imm14 i) (fun x y => x &&& y) s)

/-- `or` with a sign-extended IMM14 (R86). -/
def execOrImm (a b : DReg) (i : BitVec 14) (s : State) : Host.Outcome State Fault Refusal :=
  finishRun s (scalarK 4 a b (imm14 i) (fun x y => x ||| y) s)

/-- `xor` with a sign-extended IMM14 (R86). -/
def execXorImm (a b : DReg) (i : BitVec 14) (s : State) : Host.Outcome State Fault Refusal :=
  finishRun s (scalarK 4 a b (imm14 i) (fun x y => x ^^^ y) s)

/-! ### Compare, select and constants (R88) -/

/-- `slt` (R88). -/
def execSlt (a b c : DReg) (s : State) : Host.Outcome State Fault Refusal :=
  finishRun s (scalar2 4 a b c (fun x y => boolWord (compareInt .lt x y)) s)

/-- `sltn` (R88). -/
def execSltn (a b c : DReg) (s : State) : Host.Outcome State Fault Refusal :=
  finishRun s (scalar2 4 a b c (fun x y => boolWord (compareInt .ltn x y)) s)

/-- `seq` (R88). -/
def execSeq (a b c : DReg) (s : State) : Host.Outcome State Fault Refusal :=
  finishRun s (scalar2 4 a b c (fun x y => boolWord (compareInt .eq x y)) s)

/-- `mov` (R88). -/
def execMov (a b : DReg) (s : State) : Host.Outcome State Fault Refusal :=
  finishRun s (scalar1 4 a b (fun x => x) s)

/-- `csel` (R88): b when bit 0 of the predicate is 1, else c. -/
def execCsel (a b c : DReg) (p : PReg) (s : State) : Host.Outcome State Fault Refusal :=
  finishRun s (scalar2 4 a b c (fun x y => if (s.getP p).getLsbD 0 then x else y) s)

/-- `slt` with a literal (R83, R88). -/
def execSltLit (a b : DReg) (k : Word) (s : State) : Host.Outcome State Fault Refusal :=
  finishRun s (scalarK 12 a b k (fun x y => boolWord (compareInt .lt x y)) s)

/-- `sltn` with a literal (R83, R88). -/
def execSltnLit (a b : DReg) (k : Word) (s : State) : Host.Outcome State Fault Refusal :=
  finishRun s (scalarK 12 a b k (fun x y => boolWord (compareInt .ltn x y)) s)

/-- `seq` with a literal (R83, R88). -/
def execSeqLit (a b : DReg) (k : Word) (s : State) : Host.Outcome State Fault Refusal :=
  finishRun s (scalarK 12 a b k (fun x y => boolWord (compareInt .eq x y)) s)

/-- `li` with a literal (R88). -/
def execLiLit (a : DReg) (k : Word) (s : State) : Host.Outcome State Fault Refusal :=
  finishRun s (.ok ((s.setD a k).advance 12))

/-- `slt` with a sign-extended IMM14 (R88). -/
def execSltImm (a b : DReg) (i : BitVec 14) (s : State) : Host.Outcome State Fault Refusal :=
  finishRun s (scalarK 4 a b (imm14 i) (fun x y => boolWord (compareInt .lt x y)) s)

/-- `sltn` with a sign-extended IMM14 (R88). -/
def execSltnImm (a b : DReg) (i : BitVec 14) (s : State) : Host.Outcome State Fault Refusal :=
  finishRun s (scalarK 4 a b (imm14 i) (fun x y => boolWord (compareInt .ltn x y)) s)

/-- `seq` with a sign-extended IMM14 (R88). -/
def execSeqImm (a b : DReg) (i : BitVec 14) (s : State) : Host.Outcome State Fault Refusal :=
  finishRun s (scalarK 4 a b (imm14 i) (fun x y => boolWord (compareInt .eq x y)) s)

/-- `li` with a sign-extended IMM14 (R88). -/
def execLiImm (a : DReg) (i : BitVec 14) (s : State) : Host.Outcome State Fault Refusal :=
  finishRun s (.ok ((s.setD a (imm14 i)).advance 4))

/-! ### Predicates (R89) -/

/-- `pcmp.eq` (R89): bit 0 is the comparison, bits 31:1 are 0. -/
def execPcmpEq (a : PReg) (b c : DReg) (s : State) : Host.Outcome State Fault Refusal :=
  finishRun s (.ok ((s.setP a (if compareInt .eq (s.getD b) (s.getD c) then 1 else 0)).advance 4))

/-- `pcmp.ne` (R89): bit 0 is the comparison, bits 31:1 are 0. -/
def execPcmpNe (a : PReg) (b c : DReg) (s : State) : Host.Outcome State Fault Refusal :=
  finishRun s (.ok ((s.setP a (if compareInt .ne (s.getD b) (s.getD c) then 1 else 0)).advance 4))

/-- `pcmp.lt` (R89): bit 0 is the comparison, bits 31:1 are 0. -/
def execPcmpLt (a : PReg) (b c : DReg) (s : State) : Host.Outcome State Fault Refusal :=
  finishRun s (.ok ((s.setP a (if compareInt .lt (s.getD b) (s.getD c) then 1 else 0)).advance 4))

/-- `pcmp.ge` (R89): bit 0 is the comparison, bits 31:1 are 0. -/
def execPcmpGe (a : PReg) (b c : DReg) (s : State) : Host.Outcome State Fault Refusal :=
  finishRun s (.ok ((s.setP a (if compareInt .ge (s.getD b) (s.getD c) then 1 else 0)).advance 4))

/-- `pcmp.ltn` (R89): bit 0 is the comparison, bits 31:1 are 0. -/
def execPcmpLtn (a : PReg) (b c : DReg) (s : State) : Host.Outcome State Fault Refusal :=
  finishRun s (.ok ((s.setP a (if compareInt .ltn (s.getD b) (s.getD c) then 1 else 0)).advance 4))

/-- `pcmp.gen` (R89): bit 0 is the comparison, bits 31:1 are 0. -/
def execPcmpGen (a : PReg) (b c : DReg) (s : State) : Host.Outcome State Fault Refusal :=
  finishRun s (.ok ((s.setP a (if compareInt .gen (s.getD b) (s.getD c) then 1 else 0)).advance 4))

/-- `pand` (R89), all 32 bits. -/
def execPand (a b c : PReg) (s : State) : Host.Outcome State Fault Refusal :=
  finishRun s (.ok ((s.setP a (s.getP b &&& s.getP c)).advance 4))

/-- `por` (R89), all 32 bits. -/
def execPor (a b c : PReg) (s : State) : Host.Outcome State Fault Refusal :=
  finishRun s (.ok ((s.setP a (s.getP b ||| s.getP c)).advance 4))

/-- `pxor` (R89), all 32 bits. -/
def execPxor (a b c : PReg) (s : State) : Host.Outcome State Fault Refusal :=
  finishRun s (.ok ((s.setP a (s.getP b ^^^ s.getP c)).advance 4))

/-- `pnot` (R89), all 32 bits. -/
def execPnot (a b : PReg) (s : State) : Host.Outcome State Fault Refusal :=
  finishRun s (.ok ((s.setP a (~~~ s.getP b)).advance 4))

/-- `pcnt` (R89): the number of set bits. -/
def execPcnt (a : DReg) (b : PReg) (s : State) : Host.Outcome State Fault Refusal :=
  finishRun s (.ok ((s.setD a (BitVec.ofNat 64 (popCount (s.getP b)))).advance 4))

/-- `pfirst` (R89): the lowest set bit's index, or 32. -/
def execPfirst (a : DReg) (b : PReg) (s : State) : Host.Outcome State Fault Refusal :=
  finishRun s (.ok ((s.setD a (BitVec.ofNat 64 (trailingZeros (s.getP b)))).advance 4))

end Sys2Proof.Machine
end

