-- ==== Sys2Proof/Machine/VectorFloat.lean ====
section
/-! DEFINITION. The meanings of major 0x1C (R145 to R149): floating vectors, compares and conversions. -/

namespace Sys2Proof.Machine

/-- `vfcmp` (R148). -/
def floatCompare (len : Nat) (op : FCmpOp) (t : FTy) (a : PReg) (b c : VReg) (g : Gov) (s : State) : Run State :=
  vectorPred len a b c g (fun x y =>
    let r := compareFloat op ((fmtOf t).lane x) ((fmtOf t).lane y)
    (r.1, { nv := r.2 })) s

/-- `vcvt` and `vcvt.sat` (R149), with RM and TOPINF of the thread's FMODE. -/
def convertLanes (len : Nat) (a b : VReg) (dt st : Ty) (sat : Bool) (g : Gov) (s : State) : Run State :=
  vector1 len a b g (laneConvert dt st (roundOf s.th.fmode) (topinfOf s.th.fmode) sat) s

/-- `vfadd` (R145). -/
def execVfadd (a b c : VReg) (s : State) : Host.Outcome State Fault Refusal :=
  finishRun s (vector2 4 a b c none (laneFadd .f32 (roundOf s.th.fmode)) s)

/-- `vfsub` (R145). -/
def execVfsub (a b c : VReg) (s : State) : Host.Outcome State Fault Refusal :=
  finishRun s (vector2 4 a b c none (laneFsub .f32 (roundOf s.th.fmode)) s)

/-- `vfmul` (R145). -/
def execVfmul (a b c : VReg) (s : State) : Host.Outcome State Fault Refusal :=
  finishRun s (vector2 4 a b c none (laneFmul .f32 (roundOf s.th.fmode)) s)

/-- `vfma` (R145): vA is a third source. -/
def execVfma (a b c : VReg) (s : State) : Host.Outcome State Fault Refusal :=
  finishRun s (vector3 4 a a b c none (laneFma .f32 (roundOf s.th.fmode)) s)

/-- `vfmin` (R146). -/
def execVfmin (a b c : VReg) (s : State) : Host.Outcome State Fault Refusal :=
  finishRun s (vector2 4 a b c none (laneFminmax false .f32) s)

/-- `vfmax` (R146). -/
def execVfmax (a b c : VReg) (s : State) : Host.Outcome State Fault Refusal :=
  finishRun s (vector2 4 a b c none (laneFminmax true .f32) s)

/-- `vfabs` (R146). -/
def execVfabs (a b : VReg) (s : State) : Host.Outcome State Fault Refusal :=
  finishRun s (vector1 4 a b none (fun x => plainLane (laneFabs .f32 x)) s)

/-- `vfneg` (R146). -/
def execVfneg (a b : VReg) (s : State) : Host.Outcome State Fault Refusal :=
  finishRun s (vector1 4 a b none (fun x => plainLane (laneFneg .f32 x)) s)

/-- `vfrcp` (R147). -/
def execVfrcp (a b : VReg) (s : State) : Host.Outcome State Fault Refusal :=
  finishRun s (vector1 4 a b none (laneFrcp .f32 (roundOf s.th.fmode)) s)

/-- `vfrsq` (R147). -/
def execVfrsq (a b : VReg) (s : State) : Host.Outcome State Fault Refusal :=
  finishRun s (vector1 4 a b none (laneFrsq .f32 (roundOf s.th.fmode)) s)

/-- `vfcmp.eq` (R148). -/
def execVfcmpEq (a : PReg) (b c : VReg) (s : State) : Host.Outcome State Fault Refusal :=
  finishRun s (floatCompare 4 .eq .f32 a b c none s)

/-- `vfcmp.ne` (R148). -/
def execVfcmpNe (a : PReg) (b c : VReg) (s : State) : Host.Outcome State Fault Refusal :=
  finishRun s (floatCompare 4 .ne .f32 a b c none s)

/-- `vfcmp.lt` (R148). -/
def execVfcmpLt (a : PReg) (b c : VReg) (s : State) : Host.Outcome State Fault Refusal :=
  finishRun s (floatCompare 4 .lt .f32 a b c none s)

/-- `vfcmp.ge` (R148). -/
def execVfcmpGe (a : PReg) (b c : VReg) (s : State) : Host.Outcome State Fault Refusal :=
  finishRun s (floatCompare 4 .ge .f32 a b c none s)

/-- `vcvt` in the one-word form: .s32 to .f32 (R149). -/
def execVcvt (a b : VReg) (s : State) : Host.Outcome State Fault Refusal :=
  finishRun s (convertLanes 4 a b .f32 .s32 false none s)

/-- `vcvt` in the X form (R149). -/
def execVcvtX (a b : VReg) (dt st : Ty) (g : Gov) (s : State) : Host.Outcome State Fault Refusal :=
  finishRun s (convertLanes 12 a b dt st false g s)

/-- `vcvt.sat` (R149). -/
def execVcvtSat (a b : VReg) (dt st : Ty) (g : Gov) (s : State) : Host.Outcome State Fault Refusal :=
  finishRun s (convertLanes 12 a b dt st true g s)

/-- `vfadd` in the X form (R145). -/
def execVfaddX (a b c : VReg) (t : FTy) (g : Gov) (s : State) : Host.Outcome State Fault Refusal :=
  finishRun s (vector2 12 a b c g (laneFadd t (roundOf s.th.fmode)) s)

/-- `vfsub` in the X form (R145). -/
def execVfsubX (a b c : VReg) (t : FTy) (g : Gov) (s : State) : Host.Outcome State Fault Refusal :=
  finishRun s (vector2 12 a b c g (laneFsub t (roundOf s.th.fmode)) s)

/-- `vfmul` in the X form (R145). -/
def execVfmulX (a b c : VReg) (t : FTy) (g : Gov) (s : State) : Host.Outcome State Fault Refusal :=
  finishRun s (vector2 12 a b c g (laneFmul t (roundOf s.th.fmode)) s)

/-- `vfma` in the X form (R145): vA is a third source. -/
def execVfmaX (a b c : VReg) (t : FTy) (g : Gov) (s : State) : Host.Outcome State Fault Refusal :=
  finishRun s (vector3 12 a a b c g (laneFma t (roundOf s.th.fmode)) s)

/-- `vfmin` in the X form (R146). -/
def execVfminX (a b c : VReg) (t : FTy) (g : Gov) (s : State) : Host.Outcome State Fault Refusal :=
  finishRun s (vector2 12 a b c g (laneFminmax false t) s)

/-- `vfmax` in the X form (R146). -/
def execVfmaxX (a b c : VReg) (t : FTy) (g : Gov) (s : State) : Host.Outcome State Fault Refusal :=
  finishRun s (vector2 12 a b c g (laneFminmax true t) s)

/-- `vfabs` in the X form (R146). -/
def execVfabsX (a b : VReg) (t : FTy) (g : Gov) (s : State) : Host.Outcome State Fault Refusal :=
  finishRun s (vector1 12 a b g (fun x => plainLane (laneFabs t x)) s)

/-- `vfneg` in the X form (R146). -/
def execVfnegX (a b : VReg) (t : FTy) (g : Gov) (s : State) : Host.Outcome State Fault Refusal :=
  finishRun s (vector1 12 a b g (fun x => plainLane (laneFneg t x)) s)

/-- `vfrcp` in the X form (R147). -/
def execVfrcpX (a b : VReg) (t : FTy) (g : Gov) (s : State) : Host.Outcome State Fault Refusal :=
  finishRun s (vector1 12 a b g (laneFrcp t (roundOf s.th.fmode)) s)

/-- `vfrsq` in the X form (R147). -/
def execVfrsqX (a b : VReg) (t : FTy) (g : Gov) (s : State) : Host.Outcome State Fault Refusal :=
  finishRun s (vector1 12 a b g (laneFrsq t (roundOf s.th.fmode)) s)

/-- `vfcmp` in the X form (R148). -/
def execVfcmpX (op : FCmpOp) (a : PReg) (b c : VReg) (t : FTy) (g : Gov) (s : State) : Host.Outcome State Fault Refusal :=
  finishRun s (floatCompare 12 op t a b c g s)

end Sys2Proof.Machine
end

