-- ==== Sys2Proof/Machine/VectorInt.lean ====
section
/-! DEFINITION. The meanings of majors 0x18 to 0x1B (R138 to R144): integer vectors, logic and tables, compares, selects,
lane moves, permutes and reductions. In the X forms the flag `n` is the type .n32, `g` the governing predicate. -/

namespace Sys2Proof.Machine

/-- `vsel` (R142): lane i of b where bit i of the predicate is 1, else of c. -/
def selectWith (len : Nat) (a b c : VReg) (p : PReg) (g : Gov) (s : State) : Run State :=
  vectorWhole len a [b, c] g (fun xs i => lane (xs.getD (if (s.getP p).getLsbD i then 0 else 1) Lanes.zero) i) s

/-- `vbcast` (R142). -/
def broadcast (len : Nat) (a : VReg) (b : DReg) (g : Gov) (s : State) : Run State :=
  vectorWhole len a [] g (fun _ _ => (s.getD b).setWidth 32) s

/-- `vlane` (R142): zero-extended into dA. -/
def laneTo (len : Nat) (a : DReg) (b : VReg) (l : BitVec 5) (s : State) : Run State := do
  let t ← useStreams none [b] s
  .ok ((t.setD a ((lane (readVec s b) l.toNat).setWidth 64)).advance len)

/-- `vput` (R142): one lane is written, and only where its bit of the governing predicate is set; a bound destination
appends an element of which only that lane's bytes are written. -/
def putLane (len : Nat) (a : VReg) (b : DReg) (l : BitVec 5) (g : Gov) (s : State) : Run State := do
  let t ← useStreams (some a) [] s
  .ok ((writeVec a (govMask s.th g &&& bit32 l.toNat) (fun _ => (s.getD b).setWidth 32) t).advance len)

/-- `vperm` of [b, c] (R143). -/
def permute (xs : List Lanes) (i : Nat) : Lane := lane (xs.getD 0 Lanes.zero) ((lane (xs.getD 1 Lanes.zero) i).toNat % 32)

/-- `vshuf` of [a, b, c] (R143). -/
def shuffle (xs : List Lanes) (i : Nat) : Lane :=
  let j := (lane (xs.getD 2 Lanes.zero) i).toNat % 64
  if j < 32 then lane (xs.getD 1 Lanes.zero) j else lane (xs.getD 0 Lanes.zero) (j - 32)

/-- `vslide` of [b] by a signed distance (R143). -/
def slide (n : Int) (xs : List Lanes) (i : Nat) : Lane :=
  let j := (i : Int) - n
  if 0 ≤ j ∧ j ≤ 31 then lane (xs.getD 0 Lanes.zero) j.toNat else 0

/-! ### Integer arithmetic (R138) -/

/-- `vadd` (R138). -/
def execVadd (a b c : VReg) (s : State) : Host.Outcome State Fault Refusal :=
  finishRun s (vector2 4 a b c none (fun x y => plainLane (x + y)) s)

/-- `vsub` (R138). -/
def execVsub (a b c : VReg) (s : State) : Host.Outcome State Fault Refusal :=
  finishRun s (vector2 4 a b c none (fun x y => plainLane (x - y)) s)

/-- `vmul` (R138). -/
def execVmul (a b c : VReg) (s : State) : Host.Outcome State Fault Refusal :=
  finishRun s (vector2 4 a b c none (fun x y => plainLane (x * y)) s)

/-- `vmulh` (R138), signed. -/
def execVmulh (a b c : VReg) (s : State) : Host.Outcome State Fault Refusal :=
  finishRun s (vector2 4 a b c none (fun x y => plainLane (mulHighS x y)) s)

/-- `vmad` (R138): vA is a third source. -/
def execVmad (a b c : VReg) (s : State) : Host.Outcome State Fault Refusal :=
  finishRun s (vector3 4 a a b c none (fun z x y => plainLane (z + x * y)) s)

/-- `vmin` (R138). -/
def execVmin (a b c : VReg) (s : State) : Host.Outcome State Fault Refusal :=
  finishRun s (vector2 4 a b c none (fun x y => plainLane (minS x y)) s)

/-- `vmax` (R138). -/
def execVmax (a b c : VReg) (s : State) : Host.Outcome State Fault Refusal :=
  finishRun s (vector2 4 a b c none (fun x y => plainLane (maxS x y)) s)

/-- `vminn` (R138). -/
def execVminn (a b c : VReg) (s : State) : Host.Outcome State Fault Refusal :=
  finishRun s (vector2 4 a b c none (fun x y => plainLane (minU x y)) s)

/-- `vmaxn` (R138). -/
def execVmaxn (a b c : VReg) (s : State) : Host.Outcome State Fault Refusal :=
  finishRun s (vector2 4 a b c none (fun x y => plainLane (maxU x y)) s)

/-- `vabs` (R138). -/
def execVabs (a b : VReg) (s : State) : Host.Outcome State Fault Refusal :=
  finishRun s (vector1 4 a b none (fun x => plainLane (laneAbs x)) s)

/-- `vneg` (R138). -/
def execVneg (a b : VReg) (s : State) : Host.Outcome State Fault Refusal :=
  finishRun s (vector1 4 a b none (fun x => plainLane (0 - x)) s)

/-- `vadd` in the X form (R135, R138): the type changes no result. -/
def execVaddX (a b c : VReg) (_n : Bool) (g : Gov) (s : State) : Host.Outcome State Fault Refusal :=
  finishRun s (vector2 12 a b c g (fun x y => plainLane (x + y)) s)

/-- `vsub` in the X form (R135, R138): the type changes no result. -/
def execVsubX (a b c : VReg) (_n : Bool) (g : Gov) (s : State) : Host.Outcome State Fault Refusal :=
  finishRun s (vector2 12 a b c g (fun x y => plainLane (x - y)) s)

/-- `vmul` in the X form (R135, R138): the type changes no result. -/
def execVmulX (a b c : VReg) (_n : Bool) (g : Gov) (s : State) : Host.Outcome State Fault Refusal :=
  finishRun s (vector2 12 a b c g (fun x y => plainLane (x * y)) s)

/-- `vmulh` in the X form (R138): unsigned under .n32. -/
def execVmulhX (a b c : VReg) (n : Bool) (g : Gov) (s : State) : Host.Outcome State Fault Refusal :=
  finishRun s (vector2 12 a b c g (fun x y => plainLane (if n then mulHighU x y else mulHighS x y)) s)

/-- `vmad` in the X form (R138). -/
def execVmadX (a b c : VReg) (_n : Bool) (g : Gov) (s : State) : Host.Outcome State Fault Refusal :=
  finishRun s (vector3 12 a a b c g (fun z x y => plainLane (z + x * y)) s)

/-- `vmin` in the X form (R138): unsigned under .n32. -/
def execVminX (a b c : VReg) (n : Bool) (g : Gov) (s : State) : Host.Outcome State Fault Refusal :=
  finishRun s (vector2 12 a b c g (fun x y => plainLane (if n then minU x y else minS x y)) s)

/-- `vmax` in the X form (R138): unsigned under .n32. -/
def execVmaxX (a b c : VReg) (n : Bool) (g : Gov) (s : State) : Host.Outcome State Fault Refusal :=
  finishRun s (vector2 12 a b c g (fun x y => plainLane (if n then maxU x y else maxS x y)) s)

/-- `vminn` in the X form (R138). -/
def execVminnX (a b c : VReg) (_n : Bool) (g : Gov) (s : State) : Host.Outcome State Fault Refusal :=
  finishRun s (vector2 12 a b c g (fun x y => plainLane (minU x y)) s)

/-- `vmaxn` in the X form (R138). -/
def execVmaxnX (a b c : VReg) (_n : Bool) (g : Gov) (s : State) : Host.Outcome State Fault Refusal :=
  finishRun s (vector2 12 a b c g (fun x y => plainLane (maxU x y)) s)

/-- `vabs` in the X form (R138). -/
def execVabsX (a b : VReg) (g : Gov) (s : State) : Host.Outcome State Fault Refusal :=
  finishRun s (vector1 12 a b g (fun x => plainLane (laneAbs x)) s)

/-- `vneg` in the X form (R138). -/
def execVnegX (a b : VReg) (_n : Bool) (g : Gov) (s : State) : Host.Outcome State Fault Refusal :=
  finishRun s (vector1 12 a b g (fun x => plainLane (0 - x)) s)

/-! ### Logic, shifts and tables (R139 to R141) -/

/-- `vand` (R139). -/
def execVand (a b c : VReg) (s : State) : Host.Outcome State Fault Refusal :=
  finishRun s (vector2 4 a b c none (fun x y => plainLane (x &&& y)) s)

/-- `vor` (R139). -/
def execVor (a b c : VReg) (s : State) : Host.Outcome State Fault Refusal :=
  finishRun s (vector2 4 a b c none (fun x y => plainLane (x ||| y)) s)

/-- `vxor` (R139). -/
def execVxor (a b c : VReg) (s : State) : Host.Outcome State Fault Refusal :=
  finishRun s (vector2 4 a b c none (fun x y => plainLane (x ^^^ y)) s)

/-- `vandn` (R139). -/
def execVandn (a b c : VReg) (s : State) : Host.Outcome State Fault Refusal :=
  finishRun s (vector2 4 a b c none (fun x y => plainLane (x &&& ~~~ y)) s)

/-- `vsll` (R139). -/
def execVsll (a b c : VReg) (s : State) : Host.Outcome State Fault Refusal :=
  finishRun s (vector2 4 a b c none (fun x y => plainLane (x <<< (y.toNat % 32))) s)

/-- `vsrl` (R139). -/
def execVsrl (a b c : VReg) (s : State) : Host.Outcome State Fault Refusal :=
  finishRun s (vector2 4 a b c none (fun x y => plainLane (x >>> (y.toNat % 32))) s)

/-- `vsra` (R139). -/
def execVsra (a b c : VReg) (s : State) : Host.Outcome State Fault Refusal :=
  finishRun s (vector2 4 a b c none (fun x y => plainLane (x.sshiftRight (y.toNat % 32))) s)

/-- `vrot` (R139). -/
def execVrot (a b c : VReg) (s : State) : Host.Outcome State Fault Refusal :=
  finishRun s (vector2 4 a b c none (fun x y => plainLane (rotL x (y.toNat % 32))) s)

/-- `vlop3` (R140). -/
def execVlop3 (a b c d : VReg) (table : BitVec 8) (_n : Bool) (g : Gov) (s : State) : Host.Outcome State Fault Refusal :=
  finishRun s (vector3 12 a b c d g (fun x y z => plainLane (lop3 table x y z)) s)

/-- `vfsl` by D(D2) mod 32 (R141). -/
def execVfsl (a b c : VReg) (d : DReg) (_n : Bool) (g : Gov) (s : State) : Host.Outcome State Fault Refusal :=
  finishRun s (vector2 12 a b c g (fun x y => plainLane (funnelL x y ((s.getD d).toNat % 32))) s)

/-- `vfsr` by D(D2) mod 32 (R141). -/
def execVfsr (a b c : VReg) (d : DReg) (_n : Bool) (g : Gov) (s : State) : Host.Outcome State Fault Refusal :=
  finishRun s (vector2 12 a b c g (fun x y => plainLane (funnelR x y ((s.getD d).toNat % 32))) s)

/-- `vclz` (R139). -/
def execVclz (a b : VReg) (s : State) : Host.Outcome State Fault Refusal :=
  finishRun s (vector1 4 a b none (fun x => plainLane (BitVec.ofNat 32 (leadingZeros x))) s)

/-- `vpopc` (R139). -/
def execVpopc (a b : VReg) (s : State) : Host.Outcome State Fault Refusal :=
  finishRun s (vector1 4 a b none (fun x => plainLane (BitVec.ofNat 32 (popCount x))) s)

/-- `vand` in the X form (R135, R139). -/
def execVandX (a b c : VReg) (_n : Bool) (g : Gov) (s : State) : Host.Outcome State Fault Refusal :=
  finishRun s (vector2 12 a b c g (fun x y => plainLane (x &&& y)) s)

/-- `vor` in the X form (R135, R139). -/
def execVorX (a b c : VReg) (_n : Bool) (g : Gov) (s : State) : Host.Outcome State Fault Refusal :=
  finishRun s (vector2 12 a b c g (fun x y => plainLane (x ||| y)) s)

/-- `vxor` in the X form (R135, R139). -/
def execVxorX (a b c : VReg) (_n : Bool) (g : Gov) (s : State) : Host.Outcome State Fault Refusal :=
  finishRun s (vector2 12 a b c g (fun x y => plainLane (x ^^^ y)) s)

/-- `vandn` in the X form (R135, R139). -/
def execVandnX (a b c : VReg) (_n : Bool) (g : Gov) (s : State) : Host.Outcome State Fault Refusal :=
  finishRun s (vector2 12 a b c g (fun x y => plainLane (x &&& ~~~ y)) s)

/-- `vsll` in the X form (R135, R139). -/
def execVsllX (a b c : VReg) (_n : Bool) (g : Gov) (s : State) : Host.Outcome State Fault Refusal :=
  finishRun s (vector2 12 a b c g (fun x y => plainLane (x <<< (y.toNat % 32))) s)

/-- `vsrl` in the X form (R135, R139). -/
def execVsrlX (a b c : VReg) (_n : Bool) (g : Gov) (s : State) : Host.Outcome State Fault Refusal :=
  finishRun s (vector2 12 a b c g (fun x y => plainLane (x >>> (y.toNat % 32))) s)

/-- `vsra` in the X form (R135, R139). -/
def execVsraX (a b c : VReg) (_n : Bool) (g : Gov) (s : State) : Host.Outcome State Fault Refusal :=
  finishRun s (vector2 12 a b c g (fun x y => plainLane (x.sshiftRight (y.toNat % 32))) s)

/-- `vrot` in the X form (R135, R139). -/
def execVrotX (a b c : VReg) (_n : Bool) (g : Gov) (s : State) : Host.Outcome State Fault Refusal :=
  finishRun s (vector2 12 a b c g (fun x y => plainLane (rotL x (y.toNat % 32))) s)

/-- `vclz` in the X form (R139). -/
def execVclzX (a b : VReg) (_n : Bool) (g : Gov) (s : State) : Host.Outcome State Fault Refusal :=
  finishRun s (vector1 12 a b g (fun x => plainLane (BitVec.ofNat 32 (leadingZeros x))) s)

/-- `vpopc` in the X form (R139). -/
def execVpopcX (a b : VReg) (_n : Bool) (g : Gov) (s : State) : Host.Outcome State Fault Refusal :=
  finishRun s (vector1 12 a b g (fun x => plainLane (BitVec.ofNat 32 (popCount x))) s)

/-- `vsll` by a constant amount (R139). -/
def execVsllAmount (a b : VReg) (k : BitVec 5) (_n : Bool) (g : Gov) (s : State) : Host.Outcome State Fault Refusal :=
  finishRun s (vector1 12 a b g (fun x => plainLane (x <<< k.toNat)) s)

/-- `vsrl` by a constant amount (R139). -/
def execVsrlAmount (a b : VReg) (k : BitVec 5) (_n : Bool) (g : Gov) (s : State) : Host.Outcome State Fault Refusal :=
  finishRun s (vector1 12 a b g (fun x => plainLane (x >>> k.toNat)) s)

/-- `vsra` by a constant amount (R139). -/
def execVsraAmount (a b : VReg) (k : BitVec 5) (_n : Bool) (g : Gov) (s : State) : Host.Outcome State Fault Refusal :=
  finishRun s (vector1 12 a b g (fun x => plainLane (x.sshiftRight k.toNat)) s)

/-- `vrot` by a constant amount (R139). -/
def execVrotAmount (a b : VReg) (k : BitVec 5) (_n : Bool) (g : Gov) (s : State) : Host.Outcome State Fault Refusal :=
  finishRun s (vector1 12 a b g (fun x => plainLane (rotL x k.toNat)) s)

/-- `vfsl` by a constant amount (R139, R141). -/
def execVfslAmount (a b c : VReg) (k : BitVec 5) (_n : Bool) (g : Gov) (s : State) : Host.Outcome State Fault Refusal :=
  finishRun s (vector2 12 a b c g (fun x y => plainLane (funnelL x y k.toNat)) s)

/-- `vfsr` by a constant amount (R139, R141). -/
def execVfsrAmount (a b c : VReg) (k : BitVec 5) (_n : Bool) (g : Gov) (s : State) : Host.Outcome State Fault Refusal :=
  finishRun s (vector2 12 a b c g (fun x y => plainLane (funnelR x y k.toNat)) s)

/-! ### Compares, selects and lane moves (R142) -/

/-- `vcmp.eq` (R142). -/
def execVcmpEq (a : PReg) (b c : VReg) (s : State) : Host.Outcome State Fault Refusal :=
  finishRun s (vectorPred 4 a b c none (fun x y => (compareInt .eq x y, {})) s)

/-- `vcmp.ne` (R142). -/
def execVcmpNe (a : PReg) (b c : VReg) (s : State) : Host.Outcome State Fault Refusal :=
  finishRun s (vectorPred 4 a b c none (fun x y => (compareInt .ne x y, {})) s)

/-- `vcmp.lt` (R142). -/
def execVcmpLt (a : PReg) (b c : VReg) (s : State) : Host.Outcome State Fault Refusal :=
  finishRun s (vectorPred 4 a b c none (fun x y => (compareInt .lt x y, {})) s)

/-- `vcmp.ge` (R142). -/
def execVcmpGe (a : PReg) (b c : VReg) (s : State) : Host.Outcome State Fault Refusal :=
  finishRun s (vectorPred 4 a b c none (fun x y => (compareInt .ge x y, {})) s)

/-- `vcmp.ltn` (R142). -/
def execVcmpLtn (a : PReg) (b c : VReg) (s : State) : Host.Outcome State Fault Refusal :=
  finishRun s (vectorPred 4 a b c none (fun x y => (compareInt .ltn x y, {})) s)

/-- `vcmp.gen` (R142). -/
def execVcmpGen (a : PReg) (b c : VReg) (s : State) : Host.Outcome State Fault Refusal :=
  finishRun s (vectorPred 4 a b c none (fun x y => (compareInt .gen x y, {})) s)

/-- `vsel` (R142). -/
def execVsel (a b c : VReg) (p : PReg) (s : State) : Host.Outcome State Fault Refusal :=
  finishRun s (selectWith 4 a b c p none s)

/-- `vmov` (R142). -/
def execVmov (a b : VReg) (s : State) : Host.Outcome State Fault Refusal :=
  finishRun s (vector1 4 a b none plainLane s)

/-- `vbcast` (R142). -/
def execVbcast (a : VReg) (b : DReg) (s : State) : Host.Outcome State Fault Refusal :=
  finishRun s (broadcast 4 a b none s)

/-- `vlane` (R142). -/
def execVlane (a : DReg) (b : VReg) (l : BitVec 5) (s : State) : Host.Outcome State Fault Refusal :=
  finishRun s (laneTo 4 a b l s)

/-- `vput` (R142). -/
def execVput (a : VReg) (b : DReg) (l : BitVec 5) (s : State) : Host.Outcome State Fault Refusal :=
  finishRun s (putLane 4 a b l none s)

/-- `vcmp` in the X form (R135, R142). -/
def execVcmpX (op : CmpOp) (a : PReg) (b c : VReg) (g : Gov) (s : State) : Host.Outcome State Fault Refusal :=
  finishRun s (vectorPred 12 a b c g (fun x y => (compareInt op x y, {})) s)

/-- `vsel` in the X form (R142): the two predicates act independently. -/
def execVselX (a b c : VReg) (p : PReg) (g : Gov) (s : State) : Host.Outcome State Fault Refusal :=
  finishRun s (selectWith 12 a b c p g s)

/-- `vmov` in the X form (R142). -/
def execVmovX (a b : VReg) (g : Gov) (s : State) : Host.Outcome State Fault Refusal :=
  finishRun s (vector1 12 a b g plainLane s)

/-- `vbcast` in the X form (R142). -/
def execVbcastX (a : VReg) (b : DReg) (g : Gov) (s : State) : Host.Outcome State Fault Refusal :=
  finishRun s (broadcast 12 a b g s)

/-- `vlane` in the X form (R142). -/
def execVlaneX (a : DReg) (b : VReg) (l : BitVec 5) (s : State) : Host.Outcome State Fault Refusal :=
  finishRun s (laneTo 12 a b l s)

/-- `vput` in the X form (R142). -/
def execVputX (a : VReg) (b : DReg) (l : BitVec 5) (g : Gov) (s : State) : Host.Outcome State Fault Refusal :=
  finishRun s (putLane 12 a b l g s)

/-! ### Permutes, slides and reductions (R143, R144) -/

/-- `vperm` (R143). -/
def execVperm (a b c : VReg) (s : State) : Host.Outcome State Fault Refusal :=
  finishRun s (vectorWhole 4 a [b, c] none permute s)

/-- `vshuf` (R143): old lanes of vA are a third source. -/
def execVshuf (a b c : VReg) (s : State) : Host.Outcome State Fault Refusal :=
  finishRun s (vectorWhole 4 a [a, b, c] none shuffle s)

/-- `vslide` (R143). -/
def execVslide (a b : VReg) (c : DReg) (s : State) : Host.Outcome State Fault Refusal :=
  finishRun s (vectorWhole 4 a [b] none (slide (s.getD c).toInt) s)

/-- `vredadd` (R143, R144). -/
def execVredadd (a : DReg) (b : VReg) (s : State) : Host.Outcome State Fault Refusal :=
  finishRun s (vectorReduce 4 a b false none 0 (fun x y => x + y) s)

/-- `vredmin` (R143, R144). -/
def execVredmin (a : DReg) (b : VReg) (s : State) : Host.Outcome State Fault Refusal :=
  finishRun s (vectorReduce 4 a b false none 0x7FFFFFFF (minS) s)

/-- `vredmax` (R143, R144). -/
def execVredmax (a : DReg) (b : VReg) (s : State) : Host.Outcome State Fault Refusal :=
  finishRun s (vectorReduce 4 a b false none 0x80000000 (maxS) s)

/-- `vredand` (R143, R144). -/
def execVredand (a : DReg) (b : VReg) (s : State) : Host.Outcome State Fault Refusal :=
  finishRun s (vectorReduce 4 a b false none 0xFFFFFFFF (fun x y => x &&& y) s)

/-- `vredor` (R143, R144). -/
def execVredor (a : DReg) (b : VReg) (s : State) : Host.Outcome State Fault Refusal :=
  finishRun s (vectorReduce 4 a b false none 0 (fun x y => x ||| y) s)

/-- `vredxor` (R143, R144). -/
def execVredxor (a : DReg) (b : VReg) (s : State) : Host.Outcome State Fault Refusal :=
  finishRun s (vectorReduce 4 a b false none 0 (fun x y => x ^^^ y) s)

/-- `vperm` in the X form (R143). -/
def execVpermX (a b c : VReg) (_n : Bool) (g : Gov) (s : State) : Host.Outcome State Fault Refusal :=
  finishRun s (vectorWhole 12 a [b, c] g permute s)

/-- `vshuf` in the X form (R143): old lanes of vA are a third source. -/
def execVshufX (a b c : VReg) (_n : Bool) (g : Gov) (s : State) : Host.Outcome State Fault Refusal :=
  finishRun s (vectorWhole 12 a [a, b, c] g shuffle s)

/-- `vslide` in the X form (R143). -/
def execVslideX (a b : VReg) (c : DReg) (_n : Bool) (g : Gov) (s : State) : Host.Outcome State Fault Refusal :=
  finishRun s (vectorWhole 12 a [b] g (slide (s.getD c).toInt) s)

/-- `vredadd` in the X form (R143, R144): the type selects the comparison, the identity and the extension. -/
def execVredaddX (a : DReg) (b : VReg) (n : Bool) (g : Gov) (s : State) : Host.Outcome State Fault Refusal :=
  finishRun s (vectorReduce 12 a b n g 0 (fun x y => x + y) s)

/-- `vredmin` in the X form (R143, R144): the type selects the comparison, the identity and the extension. -/
def execVredminX (a : DReg) (b : VReg) (n : Bool) (g : Gov) (s : State) : Host.Outcome State Fault Refusal :=
  finishRun s (vectorReduce 12 a b n g (if n then 0xFFFFFFFF else 0x7FFFFFFF) (if n then minU else minS) s)

/-- `vredmax` in the X form (R143, R144): the type selects the comparison, the identity and the extension. -/
def execVredmaxX (a : DReg) (b : VReg) (n : Bool) (g : Gov) (s : State) : Host.Outcome State Fault Refusal :=
  finishRun s (vectorReduce 12 a b n g (if n then 0 else 0x80000000) (if n then maxU else maxS) s)

/-- `vredand` in the X form (R143, R144): the type selects the comparison, the identity and the extension. -/
def execVredandX (a : DReg) (b : VReg) (n : Bool) (g : Gov) (s : State) : Host.Outcome State Fault Refusal :=
  finishRun s (vectorReduce 12 a b n g 0xFFFFFFFF (fun x y => x &&& y) s)

/-- `vredor` in the X form (R143, R144): the type selects the comparison, the identity and the extension. -/
def execVredorX (a : DReg) (b : VReg) (n : Bool) (g : Gov) (s : State) : Host.Outcome State Fault Refusal :=
  finishRun s (vectorReduce 12 a b n g 0 (fun x y => x ||| y) s)

/-- `vredxor` in the X form (R143, R144): the type selects the comparison, the identity and the extension. -/
def execVredxorX (a : DReg) (b : VReg) (n : Bool) (g : Gov) (s : State) : Host.Outcome State Fault Refusal :=
  finishRun s (vectorReduce 12 a b n g 0 (fun x y => x ^^^ y) s)

end Sys2Proof.Machine
end

