-- ==== Sys2Proof/Machine/Dispatch.lean ====
section
/-! DEFINITION. The one dispatch from an instruction or event to its meaning. -/

namespace Sys2Proof.Machine

def exec (i : Instr) (s : State) : Host.Outcome State Fault Refusal :=
  match i with
  | .add a b c => Sys2Proof.Machine.execAdd a b c s
  | .sub a b c => Sys2Proof.Machine.execSub a b c s
  | .mul a b c => Sys2Proof.Machine.execMul a b c s
  | .mulh a b c => Sys2Proof.Machine.execMulh a b c s
  | .mulhn a b c => Sys2Proof.Machine.execMulhn a b c s
  | .div a b c => Sys2Proof.Machine.execDiv a b c s
  | .divn a b c => Sys2Proof.Machine.execDivn a b c s
  | .rem a b c => Sys2Proof.Machine.execRem a b c s
  | .remn a b c => Sys2Proof.Machine.execRemn a b c s
  | .min a b c => Sys2Proof.Machine.execMin a b c s
  | .max a b c => Sys2Proof.Machine.execMax a b c s
  | .minn a b c => Sys2Proof.Machine.execMinn a b c s
  | .maxn a b c => Sys2Proof.Machine.execMaxn a b c s
  | .addLit a b k => Sys2Proof.Machine.execAddLit a b k s
  | .subLit a b k => Sys2Proof.Machine.execSubLit a b k s
  | .mulLit a b k => Sys2Proof.Machine.execMulLit a b k s
  | .mulhLit a b k => Sys2Proof.Machine.execMulhLit a b k s
  | .mulhnLit a b k => Sys2Proof.Machine.execMulhnLit a b k s
  | .divLit a b k => Sys2Proof.Machine.execDivLit a b k s
  | .divnLit a b k => Sys2Proof.Machine.execDivnLit a b k s
  | .remLit a b k => Sys2Proof.Machine.execRemLit a b k s
  | .remnLit a b k => Sys2Proof.Machine.execRemnLit a b k s
  | .minLit a b k => Sys2Proof.Machine.execMinLit a b k s
  | .maxLit a b k => Sys2Proof.Machine.execMaxLit a b k s
  | .minnLit a b k => Sys2Proof.Machine.execMinnLit a b k s
  | .maxnLit a b k => Sys2Proof.Machine.execMaxnLit a b k s
  | .addImm a b imm => Sys2Proof.Machine.execAddImm a b imm s
  | .and a b c => Sys2Proof.Machine.execAnd a b c s
  | .or a b c => Sys2Proof.Machine.execOr a b c s
  | .xor a b c => Sys2Proof.Machine.execXor a b c s
  | .andn a b c => Sys2Proof.Machine.execAndn a b c s
  | .orn a b c => Sys2Proof.Machine.execOrn a b c s
  | .sll a b c => Sys2Proof.Machine.execSll a b c s
  | .srl a b c => Sys2Proof.Machine.execSrl a b c s
  | .sra a b c => Sys2Proof.Machine.execSra a b c s
  | .rol a b c => Sys2Proof.Machine.execRol a b c s
  | .ror a b c => Sys2Proof.Machine.execRor a b c s
  | .bext a b c => Sys2Proof.Machine.execBext a b c s
  | .bins a b c => Sys2Proof.Machine.execBins a b c s
  | .clz a b => Sys2Proof.Machine.execClz a b s
  | .ctz a b => Sys2Proof.Machine.execCtz a b s
  | .popc a b => Sys2Proof.Machine.execPopc a b s
  | .brev a b => Sys2Proof.Machine.execBrev a b s
  | .sllAmount a b n => Sys2Proof.Machine.execSllAmount a b n s
  | .srlAmount a b n => Sys2Proof.Machine.execSrlAmount a b n s
  | .sraAmount a b n => Sys2Proof.Machine.execSraAmount a b n s
  | .rolAmount a b n => Sys2Proof.Machine.execRolAmount a b n s
  | .rorAmount a b n => Sys2Proof.Machine.execRorAmount a b n s
  | .andLit a b k => Sys2Proof.Machine.execAndLit a b k s
  | .orLit a b k => Sys2Proof.Machine.execOrLit a b k s
  | .xorLit a b k => Sys2Proof.Machine.execXorLit a b k s
  | .andnLit a b k => Sys2Proof.Machine.execAndnLit a b k s
  | .ornLit a b k => Sys2Proof.Machine.execOrnLit a b k s
  | .bextLit a b k => Sys2Proof.Machine.execBextLit a b k s
  | .binsLit a b k => Sys2Proof.Machine.execBinsLit a b k s
  | .andImm a b imm => Sys2Proof.Machine.execAndImm a b imm s
  | .orImm a b imm => Sys2Proof.Machine.execOrImm a b imm s
  | .xorImm a b imm => Sys2Proof.Machine.execXorImm a b imm s
  | .slt a b c => Sys2Proof.Machine.execSlt a b c s
  | .sltn a b c => Sys2Proof.Machine.execSltn a b c s
  | .seq a b c => Sys2Proof.Machine.execSeq a b c s
  | .mov a b => Sys2Proof.Machine.execMov a b s
  | .csel a b c p => Sys2Proof.Machine.execCsel a b c p s
  | .sltLit a b k => Sys2Proof.Machine.execSltLit a b k s
  | .sltnLit a b k => Sys2Proof.Machine.execSltnLit a b k s
  | .seqLit a b k => Sys2Proof.Machine.execSeqLit a b k s
  | .liLit a k => Sys2Proof.Machine.execLiLit a k s
  | .sltImm a b imm => Sys2Proof.Machine.execSltImm a b imm s
  | .sltnImm a b imm => Sys2Proof.Machine.execSltnImm a b imm s
  | .seqImm a b imm => Sys2Proof.Machine.execSeqImm a b imm s
  | .liImm a imm => Sys2Proof.Machine.execLiImm a imm s
  | .pcmpEq a b c => Sys2Proof.Machine.execPcmpEq a b c s
  | .pcmpNe a b c => Sys2Proof.Machine.execPcmpNe a b c s
  | .pcmpLt a b c => Sys2Proof.Machine.execPcmpLt a b c s
  | .pcmpGe a b c => Sys2Proof.Machine.execPcmpGe a b c s
  | .pcmpLtn a b c => Sys2Proof.Machine.execPcmpLtn a b c s
  | .pcmpGen a b c => Sys2Proof.Machine.execPcmpGen a b c s
  | .pand a b c => Sys2Proof.Machine.execPand a b c s
  | .por a b c => Sys2Proof.Machine.execPor a b c s
  | .pxor a b c => Sys2Proof.Machine.execPxor a b c s
  | .pnot a b => Sys2Proof.Machine.execPnot a b s
  | .pcnt a b => Sys2Proof.Machine.execPcnt a b s
  | .pfirst a b => Sys2Proof.Machine.execPfirst a b s
  | .beq a b o => Sys2Proof.Machine.execBeq a b o s
  | .bne a b o => Sys2Proof.Machine.execBne a b o s
  | .call o => Sys2Proof.Machine.execCall o s
  | .blt a b imm => Sys2Proof.Machine.execBlt a b imm s
  | .bge a b imm => Sys2Proof.Machine.execBge a b imm s
  | .bltn a b imm => Sys2Proof.Machine.execBltn a b imm s
  | .bgen a b imm => Sys2Proof.Machine.execBgen a b imm s
  | .beqX a b imm => Sys2Proof.Machine.execBeqX a b imm s
  | .bneX a b imm => Sys2Proof.Machine.execBneX a b imm s
  | .bpt a imm => Sys2Proof.Machine.execBpt a imm s
  | .bpf a imm => Sys2Proof.Machine.execBpf a imm s
  | .callX imm => Sys2Proof.Machine.execCallX imm s
  | .jr a => Sys2Proof.Machine.execJr a s
  | .callr a => Sys2Proof.Machine.execCallr a s
  | .ret => Sys2Proof.Machine.execRet s
  | .loop a o => Sys2Proof.Machine.execLoop a o s
  | .loopX a imm => Sys2Proof.Machine.execLoopX a imm s
  | .lend => Sys2Proof.Machine.execLend s
  | .lbrk => Sys2Proof.Machine.execLbrk s
  | .lidx a => Sys2Proof.Machine.execLidx a s
  | .nop => Sys2Proof.Machine.execNop s
  | .lds w q t a b off => Sys2Proof.Machine.execLds w q t a b off s
  | .ldsX w q t a b imm h => Sys2Proof.Machine.execLdsX w q t a b imm h s
  | .sts w set t a b off => Sys2Proof.Machine.execSts w set t a b off s
  | .stsX w set t a b imm h => Sys2Proof.Machine.execStsX w set t a b imm h s
  | .ldp w q t a b c => Sys2Proof.Machine.execLdp w q t a b c s
  | .ldpX w q t a b c imm => Sys2Proof.Machine.execLdpX w q t a b c imm s
  | .stp w set t a b c => Sys2Proof.Machine.execStp w set t a b c s
  | .stpX w set t a b c imm => Sys2Proof.Machine.execStpX w set t a b c imm s
  | .fes a b => Sys2Proof.Machine.execFes a b s
  | .fec a b => Sys2Proof.Machine.execFec a b s
  | .push a => Sys2Proof.Machine.execPush a s
  | .pushX mask => Sys2Proof.Machine.execPushX mask s
  | .pop a => Sys2Proof.Machine.execPop a s
  | .popX mask => Sys2Proof.Machine.execPopX mask s
  | .pushV mask => Sys2Proof.Machine.execPushV mask s
  | .popV mask => Sys2Proof.Machine.execPopV mask s
  | .vadd a b c => Sys2Proof.Machine.execVadd a b c s
  | .vsub a b c => Sys2Proof.Machine.execVsub a b c s
  | .vmul a b c => Sys2Proof.Machine.execVmul a b c s
  | .vmulh a b c => Sys2Proof.Machine.execVmulh a b c s
  | .vmad a b c => Sys2Proof.Machine.execVmad a b c s
  | .vmin a b c => Sys2Proof.Machine.execVmin a b c s
  | .vmax a b c => Sys2Proof.Machine.execVmax a b c s
  | .vminn a b c => Sys2Proof.Machine.execVminn a b c s
  | .vmaxn a b c => Sys2Proof.Machine.execVmaxn a b c s
  | .vabs a b => Sys2Proof.Machine.execVabs a b s
  | .vneg a b => Sys2Proof.Machine.execVneg a b s
  | .vaddX a b c n g => Sys2Proof.Machine.execVaddX a b c n g s
  | .vsubX a b c n g => Sys2Proof.Machine.execVsubX a b c n g s
  | .vmulX a b c n g => Sys2Proof.Machine.execVmulX a b c n g s
  | .vmulhX a b c n g => Sys2Proof.Machine.execVmulhX a b c n g s
  | .vmadX a b c n g => Sys2Proof.Machine.execVmadX a b c n g s
  | .vminX a b c n g => Sys2Proof.Machine.execVminX a b c n g s
  | .vmaxX a b c n g => Sys2Proof.Machine.execVmaxX a b c n g s
  | .vminnX a b c n g => Sys2Proof.Machine.execVminnX a b c n g s
  | .vmaxnX a b c n g => Sys2Proof.Machine.execVmaxnX a b c n g s
  | .vabsX a b g => Sys2Proof.Machine.execVabsX a b g s
  | .vnegX a b n g => Sys2Proof.Machine.execVnegX a b n g s
  | .vand a b c => Sys2Proof.Machine.execVand a b c s
  | .vor a b c => Sys2Proof.Machine.execVor a b c s
  | .vxor a b c => Sys2Proof.Machine.execVxor a b c s
  | .vandn a b c => Sys2Proof.Machine.execVandn a b c s
  | .vlop3 a b c d table n g => Sys2Proof.Machine.execVlop3 a b c d table n g s
  | .vsll a b c => Sys2Proof.Machine.execVsll a b c s
  | .vsrl a b c => Sys2Proof.Machine.execVsrl a b c s
  | .vsra a b c => Sys2Proof.Machine.execVsra a b c s
  | .vrot a b c => Sys2Proof.Machine.execVrot a b c s
  | .vfsl a b c d n g => Sys2Proof.Machine.execVfsl a b c d n g s
  | .vfsr a b c d n g => Sys2Proof.Machine.execVfsr a b c d n g s
  | .vclz a b => Sys2Proof.Machine.execVclz a b s
  | .vpopc a b => Sys2Proof.Machine.execVpopc a b s
  | .vandX a b c n g => Sys2Proof.Machine.execVandX a b c n g s
  | .vorX a b c n g => Sys2Proof.Machine.execVorX a b c n g s
  | .vxorX a b c n g => Sys2Proof.Machine.execVxorX a b c n g s
  | .vandnX a b c n g => Sys2Proof.Machine.execVandnX a b c n g s
  | .vsllX a b c n g => Sys2Proof.Machine.execVsllX a b c n g s
  | .vsrlX a b c n g => Sys2Proof.Machine.execVsrlX a b c n g s
  | .vsraX a b c n g => Sys2Proof.Machine.execVsraX a b c n g s
  | .vrotX a b c n g => Sys2Proof.Machine.execVrotX a b c n g s
  | .vclzX a b n g => Sys2Proof.Machine.execVclzX a b n g s
  | .vpopcX a b n g => Sys2Proof.Machine.execVpopcX a b n g s
  | .vsllAmount a b k n g => Sys2Proof.Machine.execVsllAmount a b k n g s
  | .vsrlAmount a b k n g => Sys2Proof.Machine.execVsrlAmount a b k n g s
  | .vsraAmount a b k n g => Sys2Proof.Machine.execVsraAmount a b k n g s
  | .vrotAmount a b k n g => Sys2Proof.Machine.execVrotAmount a b k n g s
  | .vfslAmount a b c k n g => Sys2Proof.Machine.execVfslAmount a b c k n g s
  | .vfsrAmount a b c k n g => Sys2Proof.Machine.execVfsrAmount a b c k n g s
  | .vcmpEq a b c => Sys2Proof.Machine.execVcmpEq a b c s
  | .vcmpNe a b c => Sys2Proof.Machine.execVcmpNe a b c s
  | .vcmpLt a b c => Sys2Proof.Machine.execVcmpLt a b c s
  | .vcmpGe a b c => Sys2Proof.Machine.execVcmpGe a b c s
  | .vcmpLtn a b c => Sys2Proof.Machine.execVcmpLtn a b c s
  | .vcmpGen a b c => Sys2Proof.Machine.execVcmpGen a b c s
  | .vsel a b c p => Sys2Proof.Machine.execVsel a b c p s
  | .vmov a b => Sys2Proof.Machine.execVmov a b s
  | .vbcast a b => Sys2Proof.Machine.execVbcast a b s
  | .vlane a b l => Sys2Proof.Machine.execVlane a b l s
  | .vput a b l => Sys2Proof.Machine.execVput a b l s
  | .vcmpX op a b c g => Sys2Proof.Machine.execVcmpX op a b c g s
  | .vselX a b c p g => Sys2Proof.Machine.execVselX a b c p g s
  | .vmovX a b g => Sys2Proof.Machine.execVmovX a b g s
  | .vbcastX a b g => Sys2Proof.Machine.execVbcastX a b g s
  | .vlaneX a b l => Sys2Proof.Machine.execVlaneX a b l s
  | .vputX a b l g => Sys2Proof.Machine.execVputX a b l g s
  | .vperm a b c => Sys2Proof.Machine.execVperm a b c s
  | .vshuf a b c => Sys2Proof.Machine.execVshuf a b c s
  | .vslide a b c => Sys2Proof.Machine.execVslide a b c s
  | .vredadd a b => Sys2Proof.Machine.execVredadd a b s
  | .vredmin a b => Sys2Proof.Machine.execVredmin a b s
  | .vredmax a b => Sys2Proof.Machine.execVredmax a b s
  | .vredand a b => Sys2Proof.Machine.execVredand a b s
  | .vredor a b => Sys2Proof.Machine.execVredor a b s
  | .vredxor a b => Sys2Proof.Machine.execVredxor a b s
  | .vpermX a b c n g => Sys2Proof.Machine.execVpermX a b c n g s
  | .vshufX a b c n g => Sys2Proof.Machine.execVshufX a b c n g s
  | .vslideX a b c n g => Sys2Proof.Machine.execVslideX a b c n g s
  | .vredaddX a b n g => Sys2Proof.Machine.execVredaddX a b n g s
  | .vredminX a b n g => Sys2Proof.Machine.execVredminX a b n g s
  | .vredmaxX a b n g => Sys2Proof.Machine.execVredmaxX a b n g s
  | .vredandX a b n g => Sys2Proof.Machine.execVredandX a b n g s
  | .vredorX a b n g => Sys2Proof.Machine.execVredorX a b n g s
  | .vredxorX a b n g => Sys2Proof.Machine.execVredxorX a b n g s
  | .vfadd a b c => Sys2Proof.Machine.execVfadd a b c s
  | .vfsub a b c => Sys2Proof.Machine.execVfsub a b c s
  | .vfmul a b c => Sys2Proof.Machine.execVfmul a b c s
  | .vfma a b c => Sys2Proof.Machine.execVfma a b c s
  | .vfmin a b c => Sys2Proof.Machine.execVfmin a b c s
  | .vfmax a b c => Sys2Proof.Machine.execVfmax a b c s
  | .vfabs a b => Sys2Proof.Machine.execVfabs a b s
  | .vfneg a b => Sys2Proof.Machine.execVfneg a b s
  | .vfrcp a b => Sys2Proof.Machine.execVfrcp a b s
  | .vfrsq a b => Sys2Proof.Machine.execVfrsq a b s
  | .vfcmpEq a b c => Sys2Proof.Machine.execVfcmpEq a b c s
  | .vfcmpNe a b c => Sys2Proof.Machine.execVfcmpNe a b c s
  | .vfcmpLt a b c => Sys2Proof.Machine.execVfcmpLt a b c s
  | .vfcmpGe a b c => Sys2Proof.Machine.execVfcmpGe a b c s
  | .vcvt a b => Sys2Proof.Machine.execVcvt a b s
  | .vcvtX a b dt st g => Sys2Proof.Machine.execVcvtX a b dt st g s
  | .vcvtSat a b dt st g => Sys2Proof.Machine.execVcvtSat a b dt st g s
  | .vfaddX a b c t g => Sys2Proof.Machine.execVfaddX a b c t g s
  | .vfsubX a b c t g => Sys2Proof.Machine.execVfsubX a b c t g s
  | .vfmulX a b c t g => Sys2Proof.Machine.execVfmulX a b c t g s
  | .vfmaX a b c t g => Sys2Proof.Machine.execVfmaX a b c t g s
  | .vfminX a b c t g => Sys2Proof.Machine.execVfminX a b c t g s
  | .vfmaxX a b c t g => Sys2Proof.Machine.execVfmaxX a b c t g s
  | .vfabsX a b t g => Sys2Proof.Machine.execVfabsX a b t g s
  | .vfnegX a b t g => Sys2Proof.Machine.execVfnegX a b t g s
  | .vfrcpX a b t g => Sys2Proof.Machine.execVfrcpX a b t g s
  | .vfrsqX a b t g => Sys2Proof.Machine.execVfrsqX a b t g s
  | .vfcmpX op a b c t g => Sys2Proof.Machine.execVfcmpX op a b c t g s
  | .vld w a b off => Sys2Proof.Machine.execVld w a b off s
  | .vst w a b off => Sys2Proof.Machine.execVst w a b off s
  | .vlds w a b c => Sys2Proof.Machine.execVlds w a b c s
  | .vsts w a b c => Sys2Proof.Machine.execVsts w a b c s
  | .vldx w a b c => Sys2Proof.Machine.execVldx w a b c s
  | .vldxZero w a b c => Sys2Proof.Machine.execVldxZero w a b c s
  | .vldX w a b imm g h => Sys2Proof.Machine.execVldX w a b imm g h s
  | .vstX w a b imm g h => Sys2Proof.Machine.execVstX w a b imm g h s
  | .vldsX w a b c g h => Sys2Proof.Machine.execVldsX w a b c g h s
  | .vstsX w a b c g h => Sys2Proof.Machine.execVstsX w a b c g h s
  | .vldxX w a b c nb ns g h => Sys2Proof.Machine.execVldxX w a b c nb ns g h s
  | .vldxZeroX w a b c nb ns g h => Sys2Proof.Machine.execVldxZeroX w a b c nb ns g h s
  | .vbind a b c => Sys2Proof.Machine.execVbind a b c s
  | .vunbind a => Sys2Proof.Machine.execVunbind a s
  | .runi o a b c => Sys2Proof.Machine.execRuni o a b c s
  | .rint o a b c => Sys2Proof.Machine.execRint o a b c s
  | .rsub o a b c => Sys2Proof.Machine.execRsub o a b c s
  | .rhull o a b c => Sys2Proof.Machine.execRhull o a b c s
  | .rmove a b => Sys2Proof.Machine.execRmove a b s
  | .rclip o a b => Sys2Proof.Machine.execRclip o a b s
  | .rdil o a b c => Sys2Proof.Machine.execRdil o a b c s
  | .rproj o a b mask => Sys2Proof.Machine.execRproj o a b mask s
  | .rsplit o a b c => Sys2Proof.Machine.execRsplit o a b c s
  | .rdilX o a b c => Sys2Proof.Machine.execRdilX o a b c s
  | .rprojX o a b mask t => Sys2Proof.Machine.execRprojX o a b mask t s
  | .rsplitX o a b c => Sys2Proof.Machine.execRsplitX o a b c s
  | .rbox a t b c j s0 s1 => Sys2Proof.Machine.execRbox a t b c j s0 s1 s
  | .rstr a b c => Sys2Proof.Machine.execRstr a b c s
  | .rrag a b => Sys2Proof.Machine.execRrag a b s
  | .rtid a t => Sys2Proof.Machine.execRtid a t s
  | .rnbox a b => Sys2Proof.Machine.execRnbox a b s
  | .rgetb a b c => Sys2Proof.Machine.execRgetb a b c s
  | .rcells a b => Sys2Proof.Machine.execRcells a b s
  | .rtest a b c => Sys2Proof.Machine.execRtest a b c s
  | .rstrX a b c => Sys2Proof.Machine.execRstrX a b c s
  | .rragX a b => Sys2Proof.Machine.execRragX a b s
  | .rnboxX a b => Sys2Proof.Machine.execRnboxX a b s
  | .rgetbX a b c => Sys2Proof.Machine.execRgetbX a b c s
  | .rcellsX a b => Sys2Proof.Machine.execRcellsX a b s
  | .rtestX a b c => Sys2Proof.Machine.execRtestX a b c s
  | .rld w a b off => Sys2Proof.Machine.execRld w a b off s
  | .rst w a b off => Sys2Proof.Machine.execRst w a b off s
  | .rldX w a b imm => Sys2Proof.Machine.execRldX w a b imm s
  | .rstX w a b imm => Sys2Proof.Machine.execRstX w a b imm s
  | .twIn e b c => Sys2Proof.Machine.execTwIn e b c s
  | .twOut e b c => Sys2Proof.Machine.execTwOut e b c s
  | .twInX e b c imm => Sys2Proof.Machine.execTwInX e b c imm s
  | .twOutX e b c imm => Sys2Proof.Machine.execTwOutX e b c imm s
  | .twMc e b c d imm => Sys2Proof.Machine.execTwMc e b c d imm s
  | .twWalk e b h n => Sys2Proof.Machine.execTwWalk e b h n s
  | .wcmd a b c => Sys2Proof.Machine.execWcmd a b c s
  | .hdef h a => Sys2Proof.Machine.execHdef h a s
  | .hfree h => Sys2Proof.Machine.execHfree h s
  | .hwait h n => Sys2Proof.Machine.execHwait h n s
  | .hstat a h => Sys2Proof.Machine.execHstat a h s
  | .advC h n => Sys2Proof.Machine.execAdvC h n s
  | .advP h n => Sys2Proof.Machine.execAdvP h n s
  | .tlw e b => Sys2Proof.Machine.execTlw e b s
  | .tlwX e b d => Sys2Proof.Machine.execTlwX e b d s
  | .tlrd a e => Sys2Proof.Machine.execTlrd a e s
  | .collRed e b c => Sys2Proof.Machine.execCollRed e b c s
  | .collAr e b c => Sys2Proof.Machine.execCollAr e b c s
  | .collRedX e b c t => Sys2Proof.Machine.execCollRedX e b c t s
  | .collArX e b c t => Sys2Proof.Machine.execCollArX e b c t s
  | .collBc e b c t => Sys2Proof.Machine.execCollBc e b c t s
  | .ckpt e b c => Sys2Proof.Machine.execCkpt e b c s
  | .rwait a => Sys2Proof.Machine.execRwait a s
  | .rprot a mode => Sys2Proof.Machine.execRprot a mode s
  | .mma z va vb b c d2 d3 t set => Sys2Proof.Machine.execMma z va vb b c d2 d3 t set s
  | .mmi z va vb b c d2 d3 set => Sys2Proof.Machine.execMmi z va vb b c d2 d3 set s
  | .mmaSp z va vb b c d2 d3 t md set => Sys2Proof.Machine.execMmaSp z va vb b c d2 d3 t md set s
  | .mmiSp z va vb b c d2 d3 md set => Sys2Proof.Machine.execMmiSp z va vb b c d2 d3 md set s
  | .zcfg z b => Sys2Proof.Machine.execZcfg z b s
  | .zcfgKeep z b => Sys2Proof.Machine.execZcfgKeep z b s
  | .zzero z set => Sys2Proof.Machine.execZzero z set s
  | .zld w z b set => Sys2Proof.Machine.execZld w z b set s
  | .zst w z b set => Sys2Proof.Machine.execZst w z b set s
  | .zmov z y => Sys2Proof.Machine.execZmov z y s
  | .mstat a set => Sys2Proof.Machine.execMstat a set s
  | .zcfgX z b => Sys2Proof.Machine.execZcfgX z b s
  | .zcfgKeepX z b => Sys2Proof.Machine.execZcfgKeepX z b s
  | .zzeroX z set => Sys2Proof.Machine.execZzeroX z set s
  | .zldX w z b imm set => Sys2Proof.Machine.execZldX w z b imm set s
  | .zstX w z b imm set => Sys2Proof.Machine.execZstX w z b imm set s
  | .zmovX z y => Sys2Proof.Machine.execZmovX z y s
  | .mstatX a set => Sys2Proof.Machine.execMstatX a set s
  | .mcmd a b c => Sys2Proof.Machine.execMcmd a b c s
  | .mcap a b => Sys2Proof.Machine.execMcap a b s
  | .mrev a => Sys2Proof.Machine.execMrev a s
  | .cvt e b c => Sys2Proof.Machine.execCvt e b c s
  | .cvtSat e b c => Sys2Proof.Machine.execCvtSat e b c s
  | .ccmd a b => Sys2Proof.Machine.execCcmd a b s
  | .tset t b imm => Sys2Proof.Machine.execTset t b imm s
  | .tget t b imm => Sys2Proof.Machine.execTget t b imm s
  | .ldg w t a b c => Sys2Proof.Machine.execLdg w t a b c s
  | .stg w t a b c => Sys2Proof.Machine.execStg w t a b c s
  | .rsv w t a b c => Sys2Proof.Machine.execRsv w t a b c s
  | .cmt w t a b c => Sys2Proof.Machine.execCmt w t a b c s
  | .pref b c => Sys2Proof.Machine.execPref b c s
  | .wcnt w => Sys2Proof.Machine.execWcnt w s
  | .acq set => Sys2Proof.Machine.execAcq set s
  | .rel set => Sys2Proof.Machine.execRel set s
  | .fence set => Sys2Proof.Machine.execFence set s
  | .objd a b => Sys2Proof.Machine.execObjd a b s
  | .objf a => Sys2Proof.Machine.execObjf a s
  | .ldgX w t a b c sc cp h => Sys2Proof.Machine.execLdgX w t a b c sc cp h s
  | .stgX w t a b c sc cp h => Sys2Proof.Machine.execStgX w t a b c sc cp h s
  | .rsvX w t a b c sc cp h => Sys2Proof.Machine.execRsvX w t a b c sc cp h s
  | .cmtX w t a b c sc cp h => Sys2Proof.Machine.execCmtX w t a b c sc cp h s
  | .prefX b c sc cp => Sys2Proof.Machine.execPrefX b c sc cp s
  | .wcntX w => Sys2Proof.Machine.execWcntX w s
  | .acqX set => Sys2Proof.Machine.execAcqX set s
  | .relX set => Sys2Proof.Machine.execRelX set s
  | .fenceX set => Sys2Proof.Machine.execFenceX set s
  | .objdX a b => Sys2Proof.Machine.execObjdX a b s
  | .objfX a => Sys2Proof.Machine.execObjfX a s
  | .amoAdd w t sc a b c d => Sys2Proof.Machine.execAmoAdd w t sc a b c d s
  | .amoMin w t sc a b c d => Sys2Proof.Machine.execAmoMin w t sc a b c d s
  | .amoMax w t sc a b c d => Sys2Proof.Machine.execAmoMax w t sc a b c d s
  | .amoMinn w t sc a b c d => Sys2Proof.Machine.execAmoMinn w t sc a b c d s
  | .amoMaxn w t sc a b c d => Sys2Proof.Machine.execAmoMaxn w t sc a b c d s
  | .amoAnd w t sc a b c d => Sys2Proof.Machine.execAmoAnd w t sc a b c d s
  | .amoOr w t sc a b c d => Sys2Proof.Machine.execAmoOr w t sc a b c d s
  | .amoXor w t sc a b c d => Sys2Proof.Machine.execAmoXor w t sc a b c d s
  | .amoSwap w t sc a b c d => Sys2Proof.Machine.execAmoSwap w t sc a b c d s
  | .amoCas w t sc a b c d => Sys2Proof.Machine.execAmoCas w t sc a b c d s
  | .jsub a b => Sys2Proof.Machine.execJsub a b s
  | .spawn a b m => Sys2Proof.Machine.execSpawn a b m s
  | .jnext => Sys2Proof.Machine.execJnext s
  | .done => Sys2Proof.Machine.execDone s
  | .yield => Sys2Proof.Machine.execYield s
  | .mset m b => Sys2Proof.Machine.execMset m b s
  | .join m => Sys2Proof.Machine.execJoin m s
  | .leave m => Sys2Proof.Machine.execLeave m s
  | .bar m => Sys2Proof.Machine.execBar m s
  | .barA m => Sys2Proof.Machine.execBarA m s
  | .barW m => Sys2Proof.Machine.execBarW m s
  | .watch a b c d k => Sys2Proof.Machine.execWatch a b c d k s
  | .unwatch a => Sys2Proof.Machine.execUnwatch a s
  | .phrLead a => Sys2Proof.Machine.execPhrLead a s
  | .phrJoin a => Sys2Proof.Machine.execPhrJoin a s
  | .phrEnd => Sys2Proof.Machine.execPhrEnd s
  | .scope m => Sys2Proof.Machine.execScope m s
  | .scopeClose m => Sys2Proof.Machine.execScopeClose m s
  | .cancel m => Sys2Proof.Machine.execCancel m s
  | .cancelW m => Sys2Proof.Machine.execCancelW m s
  | .onc a => Sys2Proof.Machine.execOnc a s
  | .cancelById a => Sys2Proof.Machine.execCancelById a s
  | .cancelWById a => Sys2Proof.Machine.execCancelWById a s
  | .snd a b => Sys2Proof.Machine.execSnd a b s
  | .rcv a b => Sys2Proof.Machine.execRcv a b s
  | .rcvq a => Sys2Proof.Machine.execRcvq a s
  | .step => Sys2Proof.Machine.execStep s
  | .xtt a => Sys2Proof.Machine.execXtt a s
  | .xsend slot b off => Sys2Proof.Machine.execXsend slot b off s
  | .xreq a b c => Sys2Proof.Machine.execXreq a b c s
  | .xadd a b c => Sys2Proof.Machine.execXadd a b c s
  | .xcnt a => Sys2Proof.Machine.execXcnt a s
  | .stepX => Sys2Proof.Machine.execStepX s
  | .xttX a => Sys2Proof.Machine.execXttX a s
  | .xsendX slot b off16 => Sys2Proof.Machine.execXsendX slot b off16 s
  | .xreqX a b c => Sys2Proof.Machine.execXreqX a b c s
  | .xaddX a b c => Sys2Proof.Machine.execXaddX a b c s
  | .xcntX a => Sys2Proof.Machine.execXcntX a s
  | .srd a n => Sys2Proof.Machine.execSrd a n s
  | .swr n a => Sys2Proof.Machine.execSwr n a s
  | .svc imm => Sys2Proof.Machine.execSvc imm s
  | .trap imm => Sys2Proof.Machine.execTrap imm s
  | .brk imm => Sys2Proof.Machine.execBrk imm s
  | .tret => Sys2Proof.Machine.execTret s
  | .wfe => Sys2Proof.Machine.execWfe s
  | .sev a => Sys2Proof.Machine.execSev a s
  | .snap => Sys2Proof.Machine.execSnap s
  | .idle => Sys2Proof.Machine.execIdle s
  | .rsm a => Sys2Proof.Machine.execRsm a s
  | .fltr a e => Sys2Proof.Machine.execFltr a e s
  | .ctxsave a => Sys2Proof.Machine.execCtxsave a s
  | .ctxload a => Sys2Proof.Machine.execCtxload a s
  | .preempt a => Sys2Proof.Machine.execPreempt a s
  | .factoryTest word => Sys2Proof.Machine.execFactoryTest word s
  | .illegalWord why => Sys2Proof.Machine.execIllegalWord why s
  | .ifetchFault why addr => Sys2Proof.Machine.execIfetchFault why addr s
  | .intrEntry => Sys2Proof.Machine.execIntrEntry s
  | .evDispatch unit => Sys2Proof.Machine.execEvDispatch unit s
  | .evPlacementRequest imm => Sys2Proof.Machine.execEvPlacementRequest imm s
  | .evLaunch imm => Sys2Proof.Machine.execEvLaunch imm s
  | .evTaskStart imm => Sys2Proof.Machine.execEvTaskStart imm s
  | .evPacketArrival imm => Sys2Proof.Machine.execEvPacketArrival imm s
  | .evTimetableFlitSend thread slot => Sys2Proof.Machine.execEvTimetableFlitSend thread slot s
  | .evExchangePacketArrival imm => Sys2Proof.Machine.execEvExchangePacketArrival imm s
  | .evExchangeEnd task => Sys2Proof.Machine.execEvExchangeEnd task s
  | .evRemoteScratchWrite imm => Sys2Proof.Machine.execEvRemoteScratchWrite imm s
  | .evGlobalStoreRegister imm => Sys2Proof.Machine.execEvGlobalStoreRegister imm s
  | .evLlcEvict line => Sys2Proof.Machine.execEvLlcEvict line s
  | .evPublishApply imm => Sys2Proof.Machine.execEvPublishApply imm s
  | .evSummaryExchange => Sys2Proof.Machine.execEvSummaryExchange s
  | .evPublishResend imm => Sys2Proof.Machine.execEvPublishResend imm s
  | .evEngineOpComplete tile ctx => Sys2Proof.Machine.execEvEngineOpComplete tile ctx s
  | .evWalkSlotClaim tile ctx num => Sys2Proof.Machine.execEvWalkSlotClaim tile ctx num s
  | .evEngineFault tile ctx num => Sys2Proof.Machine.execEvEngineFault tile ctx num s
  | .evResumePacket imm => Sys2Proof.Machine.execEvResumePacket imm s
  | .evShootdown asid va => Sys2Proof.Machine.execEvShootdown asid va s
  | .evCommandArrival imm => Sys2Proof.Machine.execEvCommandArrival imm s
  | .evMatrixCommandArrival imm => Sys2Proof.Machine.execEvMatrixCommandArrival imm s
  | .evPreemption slot => Sys2Proof.Machine.execEvPreemption slot s
  | .evResumption imm => Sys2Proof.Machine.execEvResumption imm s
  | .evPartitionEvict imm => Sys2Proof.Machine.execEvPartitionEvict imm s
  | .reservationExpiry => Sys2Proof.Machine.execReservationExpiry s
  | .evCancelMarkArrival slot => Sys2Proof.Machine.execEvCancelMarkArrival slot s
  | .killCountBoundary => Sys2Proof.Machine.execKillCountBoundary s
  | .cancelHandlerLimit => Sys2Proof.Machine.execCancelHandlerLimit s
  | .evEndKilled task => Sys2Proof.Machine.execEvEndKilled task s
  | .evScopeCancelled id => Sys2Proof.Machine.execEvScopeCancelled id s
  | .evScopeFreed id => Sys2Proof.Machine.execEvScopeFreed id s
  | .evDieFence die => Sys2Proof.Machine.execEvDieFence die s
  | .evWatchdogExpiry die => Sys2Proof.Machine.execEvWatchdogExpiry die s
  | .evThermalThrottle die => Sys2Proof.Machine.execEvThermalThrottle die s
  | .evThermalTrip die => Sys2Proof.Machine.execEvThermalTrip die s
  | .evSnaptrigEdge => Sys2Proof.Machine.execEvSnaptrigEdge s
  | .evSnapshotLatch => Sys2Proof.Machine.execEvSnapshotLatch s
  | .evPowerGood => Sys2Proof.Machine.execEvPowerGood s
  | .evHostLinkUp => Sys2Proof.Machine.execEvHostLinkUp s
  | .hostCtail q value => Sys2Proof.Machine.execHostCtail q value s
  | .evHostCardRead q => Sys2Proof.Machine.execEvHostCardRead q s
  | .hostPhead q value => Sys2Proof.Machine.execHostPhead q value s
  | .hostQenable value => Sys2Proof.Machine.execHostQenable value s
  | .hostQerror value => Sys2Proof.Machine.execHostQerror value s
  | .hostVerNeg value => Sys2Proof.Machine.execHostVerNeg value s
  | .hostBar0Write off value => Sys2Proof.Machine.execHostBar0Write off value s
  | .hostBar2Read off len => Sys2Proof.Machine.execHostBar2Read off len s
  | .hostBar2Write off bytes => Sys2Proof.Machine.execHostBar2Write off bytes s
  | .weltDistctl value => Sys2Proof.Machine.execWeltDistctl value s
  | .weltSnapcmd value => Sys2Proof.Machine.execWeltSnapcmd value s
  | .weltDiectlFence die value => Sys2Proof.Machine.execWeltDiectlFence die value s
  | .weltDiectlReset die value bringUp => Sys2Proof.Machine.execWeltDiectlReset die value bringUp s
  | .weltDiscard die value => Sys2Proof.Machine.execWeltDiscard die value s
  | .weltNodeBind die k value => Sys2Proof.Machine.execWeltNodeBind die k value s
  | .weltRegisterWrite off value => Sys2Proof.Machine.execWeltRegisterWrite off value s
  | .pktAck p => Sys2Proof.Machine.execPktAck p s
  | .pktNak p => Sys2Proof.Machine.execPktNak p s
  | .pktLoad p => Sys2Proof.Machine.execPktLoad p s
  | .pktLoadr p => Sys2Proof.Machine.execPktLoadr p s
  | .pktStore p => Sys2Proof.Machine.execPktStore p s
  | .pktStorea p => Sys2Proof.Machine.execPktStorea p s
  | .pktAtomic p => Sys2Proof.Machine.execPktAtomic p s
  | .pktAtomicr p => Sys2Proof.Machine.execPktAtomicr p s
  | .pktRsv p => Sys2Proof.Machine.execPktRsv p s
  | .pktCmt p => Sys2Proof.Machine.execPktCmt p s
  | .pktCmtr p => Sys2Proof.Machine.execPktCmtr p s
  | .pktColl p => Sys2Proof.Machine.execPktColl p s
  | .pktDrain p => Sys2Proof.Machine.execPktDrain p s
  | .pktDraina p => Sys2Proof.Machine.execPktDraina p s
  | .pktHello p => Sys2Proof.Machine.execPktHello p s
  | .pktHellor p => Sys2Proof.Machine.execPktHellor p s
  | .evAckTimer peer => Sys2Proof.Machine.execEvAckTimer peer s
  | .evNakTimer peer => Sys2Proof.Machine.execEvNakTimer peer s
  | .evRetransmitTimer peer seq => Sys2Proof.Machine.execEvRetransmitTimer peer seq s
  | .evPortLinkDown port => Sys2Proof.Machine.execEvPortLinkDown port s
  | .spdmGetVersion => Sys2Proof.Machine.execSpdmGetVersion s
  | .spdmGetCapabilities => Sys2Proof.Machine.execSpdmGetCapabilities s
  | .spdmNegotiateAlgorithms => Sys2Proof.Machine.execSpdmNegotiateAlgorithms s
  | .spdmGetDigests => Sys2Proof.Machine.execSpdmGetDigests s
  | .spdmGetCertificate => Sys2Proof.Machine.execSpdmGetCertificate s
  | .spdmChallenge nonce => Sys2Proof.Machine.execSpdmChallenge nonce s
  | .spdmGetMeasurements index nonce => Sys2Proof.Machine.execSpdmGetMeasurements index nonce s
  | .tapBypass => Sys2Proof.Machine.execTapBypass s
  | .tapSamplePreload => Sys2Proof.Machine.execTapSamplePreload s
  | .tapExtest => Sys2Proof.Machine.execTapExtest s
  | .tapIdcode => Sys2Proof.Machine.execTapIdcode s
  | .tapFtest die => Sys2Proof.Machine.execTapFtest die s
  | .dbgOpen => Sys2Proof.Machine.execDbgOpen s
  | .dbgClose => Sys2Proof.Machine.execDbgClose s
  | .dbgReadctx thread off len => Sys2Proof.Machine.execDbgReadctx thread off len s
  | .dbgWritectx thread off bytes => Sys2Proof.Machine.execDbgWritectx thread off bytes s
  | .dbgResume thread => Sys2Proof.Machine.execDbgResume thread s
  | .dbgStep thread => Sys2Proof.Machine.execDbgStep thread s
  | .dbgReadmem asid va len => Sys2Proof.Machine.execDbgReadmem asid va len s
  | .dbgWritemem asid va bytes => Sys2Proof.Machine.execDbgWritemem asid va bytes s
  | .evDebugSessionTimeout => Sys2Proof.Machine.execEvDebugSessionTimeout s
  | .mgmtPowerCap watts => Sys2Proof.Machine.execMgmtPowerCap watts s
  | .weltTilectl tile value => Sys2Proof.Machine.execWeltTilectl tile value s
  | .evPortLinkTraining port trained => Sys2Proof.Machine.execEvPortLinkTraining port trained s
  | .evNvmeFailure ctrl => Sys2Proof.Machine.execEvNvmeFailure ctrl s

end Sys2Proof.Machine
end

