-- ==== Sys2Proof/Machine/Fetch.lean ====
section
/-! DEFINITION. What stands around the meaning of an instruction (R16, R51 to R53, R92, R98, R217, R218, R255, R341, R365): the
fetch of its words, which instructions are kill points, which ones a phrase takes from its head, the threads that may issue, and
the further moves of the schedule. -/

namespace Sys2Proof.Machine

/-! ### Fetch (R51, R52, R53, R341) -/

/-- Why a fetch gives no words: it fails, or it waits or ends the task as an access does. -/
inductive FetchStop where
  | fail (why : FetchFail) (addr : Word)
  | stop (why : Stop)

/-- What a fetch gives. -/
abbrev FetchRun (α : Type) := Except FetchStop α

/-- One word at an address for the thread in focus (R53, R246, R249): a word that it has fetched ahead, else the first level that holds
it, on a page that must be executable; at the home it is read as a load of device scope reads it. Neither an L1 copy whose page was
executable when the home gave it nor a word whose page the home knows is translated [DEDUCED, log 16, 17]. No word is fetched from the
Welt register space [DESIGN CHOICE, log 99]. -/
def fetchWord (addr : Word) (s : State) : FetchRun (Lane × State) :=
  let va := addr.toNat
  match s.th.icache.find? fun x => x.1 = va with
  | some x => .ok (x.2, s)
  | none =>
    let a := s.th.agent
    let core := l1Core s a.core va
    let near := l1Find s core a.asid (va / 4)
    let home := homeRead s a.cluster 5 core a.asid (va / 4)
    let value : Option Lane := match near, home with
      | some w, _ => some w.val
      | none, .value v _ => some v
      | _, _ => none
    let known := (homeFind s a.cluster a.asid (va / 4)).bind fun h => h.pw.map fun _ => decide (h.perm / 4 % 2 = 1)
    if near.any L1Word.ex then .ok ((near.map L1Word.val).getD 0, s)
    else if near.isNone && home = .busy then .error (.stop .wait)
    else match value, known with
      | some v, some ex => if ex then .ok (v, s) else .error (.fail .noexec addr)
      | _, _ => match translate (homeTile a.cluster va) a.tile a.asid va s with
        | (.page pa rd wr ex, s) =>
          if isWelt pa then .error (.fail .absent addr)
          else if !ex then .error (.fail .noexec addr)
          else match value with
            | some v => .ok (v, s)
            | none => match fillHome a 5 [va / 4] pa (permOf rd wr ex) s with
              | .ok s => .ok (((homeFind s a.cluster a.asid (va / 4)).bind SliceWord.val).getD 0, s)
              | .error e => .error (.stop e)
        | (.stalled, _) => .error (.stop .wait)
        | _ => .error (.fail .absent addr)

/-- The words after the first, one at a time: those of the next page fail with STRADDLE (R341). -/
def fetchRest : Nat → Nat → List Lane → State → FetchRun (List Lane × State)
  | 0, _, ws, s => .ok (ws, s)
  | n + 1, k, ws, s =>
    let a := s.th.pc + BitVec.ofNat 64 (4 * k)
    match fetchWord a s with
    | .ok (x, s) => fetchRest n (k + 1) (ws ++ [x]) s
    | .error (.fail why a) => .error (.fail (if a.toNat / 65536 = s.th.pc.toNat / 65536 then why else .straddle) a)
    | .error e => .error e

/-- All the words that LEN announces, before any check of them (R69, R341). What another device was asked for is then forgotten. -/
def fetch (s : State) : FetchRun (List Lane × State) :=
  if s.th.pc.toNat % 4 ≠ 0 then .error (.fail .align s.th.pc)
  else do
    let (x, s') ← fetchWord s.th.pc s
    let (ws, s') ← fetchRest (lenWords x - 1) 1 [x] s'
    let isAhead (k : Nat) : Bool := s.th.icache.any fun e => e.1 = (s.th.pc + BitVec.ofNat 64 (4 * k)).toNat
    .ok (ws, if (List.range ws.length).all isAhead then s' else forgetWaits s')

/-- Words that a thread has fetched stay with it until a transfer of control after an acquire (R53). -/
def keepWord (va : Nat) (x : Lane) (t : Thread) : Thread := { t with icache := (t.icache.filter fun e => e.1 ≠ va) ++ [(va, x)] }

/-- The words of an instruction that waits stay with its thread, which executes them again. [DEDUCED, log 16] -/
def keepWords (ws : List Lane) (s : State) : State :=
  { s with th := (ws.zip (List.range ws.length)).foldl (fun t x =>
      if (t.icache.any fun e => e.1 = (t.pc + BitVec.ofNat 64 (4 * x.2)).toNat) then t
      else keepWord (t.pc + BitVec.ofNat 64 (4 * x.2)).toNat x.1 t) s.th }

/-- A word taken ahead (R53): the thread executes it as it is now until a transfer of control after an acquire. -/
def prefetch (num va : Nat) (s : State) : State :=
  let f := s.focus num
  if f.th.num ≠ num || va % 4 ≠ 0 || !f.th.replies.isEmpty then s
  else match fetchWord (BitVec.ofNat 64 va) f with
    | .ok (x, s) => { s with th := keepWord va x s.th }
    | .error _ => s

/-! ### Kill points (R92, R98, R255, R365) -/

/-- Whether an access names a wait of its own: its W field or a handle (R58, R59). -/
def waitsFor (w : WClass) (h : HNeed) : Bool := w ≠ .none || h.isSome

/-- The instructions that are kill points whether or not they would wait (R365). R98 calls `fes` and `fec` blocking under `.f` or `.fc`,
forms that they do not have: they count as blocking always [DESIGN CHOICE, log 15]. -/
def isBlocking (i : Instr) : Bool :=
  match i with
  | .lds w q _ _ _ _ => waitsFor w none || q ≠ .plain
  | .ldsX w q _ _ _ _ h => waitsFor w h || q ≠ .plain
  | .sts w _ _ _ _ _ => waitsFor w none
  | .stsX w _ _ _ _ _ h => waitsFor w h
  | .ldp w q _ _ _ _ => waitsFor w none || q ≠ .plain
  | .ldpX w q _ _ _ _ _ => waitsFor w none || q ≠ .plain
  | .stp w _ _ _ _ _ => waitsFor w none
  | .stpX w _ _ _ _ _ _ => waitsFor w none
  | .vld w _ _ _ => waitsFor w none
  | .vst w _ _ _ => waitsFor w none
  | .vlds w _ _ _ => waitsFor w none
  | .vsts w _ _ _ => waitsFor w none
  | .vldx w _ _ _ => waitsFor w none
  | .vldxZero w _ _ _ => waitsFor w none
  | .vldX w _ _ _ _ h => waitsFor w h
  | .vstX w _ _ _ _ h => waitsFor w h
  | .vldsX w _ _ _ _ h => waitsFor w h
  | .vstsX w _ _ _ _ h => waitsFor w h
  | .vldxX w _ _ _ _ _ _ h => waitsFor w h
  | .vldxZeroX w _ _ _ _ _ _ h => waitsFor w h
  | .rld w _ _ _ => waitsFor w none
  | .rst w _ _ _ => waitsFor w none
  | .rldX w _ _ _ => waitsFor w none
  | .rstX w _ _ _ => waitsFor w none
  | .zld w _ _ _ => waitsFor w none
  | .zst w _ _ _ => waitsFor w none
  | .zldX w _ _ _ _ => waitsFor w none
  | .zstX w _ _ _ _ => waitsFor w none
  | .ldg w _ _ _ _ => waitsFor w none
  | .stg w _ _ _ _ => waitsFor w none
  | .rsv w _ _ _ _ => waitsFor w none
  | .cmt w _ _ _ _ => waitsFor w none
  | .ldgX w _ _ _ _ _ _ h => waitsFor w h
  | .stgX w _ _ _ _ _ _ h => waitsFor w h
  | .rsvX w _ _ _ _ _ _ h => waitsFor w h
  | .cmtX w _ _ _ _ _ _ h => waitsFor w h
  | .amoAdd w _ _ _ _ _ _ => waitsFor w none
  | .amoMin w _ _ _ _ _ _ => waitsFor w none
  | .amoMax w _ _ _ _ _ _ => waitsFor w none
  | .amoMinn w _ _ _ _ _ _ => waitsFor w none
  | .amoMaxn w _ _ _ _ _ _ => waitsFor w none
  | .amoAnd w _ _ _ _ _ _ => waitsFor w none
  | .amoOr w _ _ _ _ _ _ => waitsFor w none
  | .amoXor w _ _ _ _ _ _ => waitsFor w none
  | .amoSwap w _ _ _ _ _ _ => waitsFor w none
  | .amoCas w _ _ _ _ _ _ => waitsFor w none
  | .fes _ _ | .fec _ _ | .hwait _ _ | .tlw _ _ | .tlwX _ _ _ | .rwait _ | .rprot _ _ | .zmov _ _ | .zmovX _ _
  | .zcfg _ _ | .zcfgKeep _ _ | .zcfgX _ _ | .zcfgKeepX _ _ | .mstat _ _ | .mstatX _ _ | .wcnt _ | .wcntX _ | .acq _ | .rel _ | .fence _ | .acqX _ | .relX _ | .fenceX _
  | .objd _ _ | .objf _ | .objdX _ _ | .objfX _ | .jsub _ _ | .spawn _ _ _ | .jnext | .done | .yield | .bar _ | .barW _
  | .phrLead _ | .phrJoin _ | .scopeClose _ | .cancelW _ | .cancelWById _ | .rcv _ _ | .step | .stepX | .wfe | .idle
  | .ctxsave _ | .preempt _ => true
  | _ => false

/-- The accesses whose wait for their reply is no kill point (R255), and what waits as they do: a prefetch, a push or pop that
reaches the overflow area, and the reads and posts of a card, a watch, a descriptor or a command. -/
def isAccess (i : Instr) : Bool :=
  match i with
  | .ldg .. | .stg .. | .rsv .. | .cmt .. | .ldgX .. | .stgX .. | .rsvX .. | .cmtX .. | .pref .. | .prefX .. | .ldp .. | .ldpX ..
  | .stp .. | .stpX .. | .amoAdd .. | .amoMin .. | .amoMax .. | .amoMinn .. | .amoMaxn .. | .amoAnd .. | .amoOr .. | .amoXor ..
  | .amoSwap .. | .amoCas .. | .push .. | .pushX .. | .pop .. | .popX .. | .pushV .. | .popV .. | .watch .. | .cancel ..
  | .cancelById .. | .barA .. | .rsm .. | .ctxload .. => true
  | _ => false

/-- Whether `push.v` waits on the full bits of an element that it pops: such a wait is blocking (R103). -/
def isPopWait (i : Instr) (s : State) : Bool :=
  match i with
  | .pushV mask =>
    let slots := stackSlots true 128 s.th.spilltop (maskRegs mask).reverse (s.getD 2) s.th.spillovf
    match waitPops (stackStreams true slots s.th) s with | .ok _ => false | .error _ => true
  | _ => false

/-- The transfers of control whose backward form is a kill point, and which a phrase takes from its head (R92, R217). -/
def isControl (i : Instr) : Bool :=
  match i with
  | .beq .. | .bne .. | .call .. | .blt .. | .bge .. | .bltn .. | .bgen .. | .beqX .. | .bneX .. | .bpt .. | .bpf .. | .callX ..
  | .jr .. | .callr .. | .ret | .loop .. | .loopX .. | .lend | .lbrk => true
  | _ => false

/-- Whether control, gone from one address to another by an instruction, is a backward transfer (R92): `loop` and `lbrk` go
forward. -/
def isBackward (i : Instr) (frm dest : Word) : Bool :=
  isControl i && dest.toNat ≤ frm.toNat && !(match i with | .loop .. | .loopX .. | .lbrk => true | _ => false)

/-- Whether the thread in focus is at a kill point at an instruction, given what its execution would make of the machine. An
instruction that has come too far to be taken back is none. [DEDUCED, log 15] -/
def isKillPoint (i : Instr) (s t : State) : Bool :=
  !(s.th.waiting && isCommitted s) &&
    (isBlocking i || (t.th.waiting && (!isAccess i || isPopWait i s)) || (!t.th.trapped && isBackward i s.th.pc t.th.pc))

/-- Whether an instruction places a reservation, from which the count of R257 starts. -/
def isRsv (i : Instr) : Bool := match i with | .rsv .. | .rsvX .. => true | _ => false

/-! ### Which threads may issue (R16, R38, R216, R349, R370, R422) -/

/-- Whether a context issues for itself, or for the phrase that it heads (R217). A dependent whose head has ended goes on by itself, as
after `phr.end` [DESIGN CHOICE, log 88]. -/
def isIssuer (s : State) (t : Thread) : Bool :=
  match t.phrase with
  | .dependent h => !(s.thread? (4 * h + t.num % 4)).any fun u => (match u.phrase with | .head _ => true | _ => false) && u.run ≠ .draining
  | _ => true

/-- Whether a context may issue: its task runs, it is not halted, it is not the dependent of a phrase, and no pre-emption of its
unit is waiting for it, unless an access of it waits for its reply or its unit is doomed (R364). -/
def mayIssue (s : State) (t : Thread) : Bool :=
  let runs : Bool := match t.run with | .running => true | .halted _ _ stepping => stepping | .draining => false
  let started : Bool := match s.taskOf t with | some k => k.stage = .running | none => true
  let unit := withPhrases s s.threads.length [t.taskid]
  let isAsked : Bool := s.preempts.any fun n => n = t.num || s.tasks.any fun k => unit.contains k.1 && k.2.slots.contains n
  let isHeld : Bool := isAsked && !s.tasks.any fun k => unit.contains k.1 && k.2.doomed
  t.live && runs && started && isIssuer s t && (!isHeld || (t.waiting && isCommitted { s with th := t }))

/-- The slots of a core in the order of R16: from the one after the thread that issued last. -/
def issueOrder (s : State) (core : Nat) : List Nat :=
  let last := (lookup core s.lastIssued).getD 3
  (List.range 4).map fun i => 4 * core + (last + 1 + i) % 4

/-- The slots of a core whose contexts may issue, in that order. -/
def issuers (s : State) (core : Nat) : List Nat := (issueOrder s core).filter fun n => (s.thread? n).any (mayIssue s)

/-- The cores that hold a context which may issue, from the one after the core that moved last. -/
def issuingCores (s : State) : List Nat :=
  let cs := (s.threads.filter (mayIssue s)).foldl (fun r t => insertKey (coreOf t.num) r) []
  (cs.filter fun c => s.lastCore < c) ++ cs.filter fun c => c ≤ s.lastCore

/-! ### Around an execution -/

/-- The context in focus as an execution starts. -/
def State.begin (s : State) : State := { s with th := { s.th with waiting := false, trapped := false } }

/-- The instructions of a thread counted at a retirement: for its kill points, its cancel handler and its reservation (R257,
R365, R369). In supervisor mode a thread reaches no kill point and counts none of its instructions towards one [DEDUCED, log 20]. -/
def countRetired (i : Instr) (before : Thread) (isKill : Bool) (t : Thread) : Thread :=
  { t with
    killCount := if isSupervisor before.status then t.killCount else if isKill then 0 else t.killCount + 1
    handlerCount := if before.inHandler then t.handlerCount + 1 else t.handlerCount
    resv := if isRsv i then t.resv else t.resv.map fun r => { r with since := r.since + 1 } }

/-- The energy of an issue charged to the thread (R24, R197). -/
def chargeEnergy (s : State) : State :=
  { s with th := { s.th with ecount := upTo64 (s.th.ecount.toNat + Config.energy s.fresh) } }

/-- A thread that was let go for one instruction halts again, once it is back in user mode, while a session is open (R422). `micro` 3
keeps that its instruction is done. -/
def haltAfterStep (s : State) : State :=
  match s.th.run with
  | .halted _ _ true =>
    if !s.mgmt.session then { s with th := { s.th with run := .running, micro := if s.th.micro = 3 then 0 else s.th.micro } }
    else if isSupervisor s.th.status || !s.th.live || s.th.waiting then s
    else
      let t := haltHere s.th.pc.toNat { s with th := { s.th with micro := 0 } }
      if t.th.waiting then { t with th := { t.th with micro := 3 } } else t
  | _ => s

/-- Whether the thread in focus has done its one instruction and only waits to halt. -/
def isHalting (s : State) : Bool := match s.th.run with | .halted _ _ true => s.th.micro = 3 | _ => false

/-- Time passes between steps (R5), and a snapshot whose time comes latches (R405); partitions that nothing is addressed to any more are
freed (R370), the writes to Welt registers take effect (R412), and the free values of the next step are new. -/
def tick (s : State) : State :=
  latchSnapshot { sweepPartitions (settleWelt s) with fresh := s.fresh + 1, time := s.time + Config.elapsed s.fresh }

/-! ### Phrases (R217, R218) -/

/-- The dependents of the head in focus, in the order of their hops, as far as they run. -/
def dependentsOf (s : State) : List Nat :=
  match s.th.phrase with
  | .head w => ((phraseSlots s.th.num w).drop 1).filter fun n =>
    (s.thread? n).any fun t => t.phrase = .dependent (coreOf s.th.num) && (match t.run with | .draining => false | _ => true)
  | _ => []

/-- A dependent's part in a transfer of control: its head's PC, its own link, its own loop levels with its head's counts. The
head stands at `h` before and at `h'` after the instruction. -/
def follow (i : Instr) (h h' : Thread) (s : State) : Run State := do
  let rose := h.lvl < h'.lvl
  let goTo (s : State) : State := s.jump h'.pc
  match i with
  | .call _ | .callX _ | .callr _ => .ok (goTo (s.setD 1 (h'.getD 1)))
  | .loop _ _ | .loopX _ _ => do
    require (s.th.lvl < 4) clsLoop 0
    if !rose then .ok (goTo s)
    else
      let l := s.th.lvl + 1
      let d := (List.range 8).foldl (fun (d : Vector Word 64) i => d.setIfInBounds (24 + 8 * l + i) 0) s.th.d
      let x := (h'.loops[h'.lvl - 1]?).getD {}
      .ok (goTo { s with th := { s.th with d := d, lvl := l, loops := s.th.loops.setIfInBounds (l - 1) x } })
  | .lend => do
    require (s.th.lvl ≠ 0) clsLoop 1
    let l := loopState s
    if h'.lvl < h.lvl then .ok (goTo { s with th := { s.th with lvl := s.th.lvl - 1 } })
    else .ok (goTo { s with th := { s.th with loops := s.th.loops.setIfInBounds (s.th.lvl - 1) { l with index := l.index + 1 } } })
  | .lbrk => do
    require (s.th.lvl ≠ 0) clsLoop 1
    .ok (goTo { s with th := { s.th with lvl := s.th.lvl - 1 } })
  | _ => .ok (goTo s)

/-- A member that did not fault takes the trap of its phrase; all vector by the class of the head's CAUSE. -/
def joinTrap (s : State) : State := takeTrap clsPhrase 2 0 s

/-- Where the members of a phrase vector, given the head's CAUSE. -/
def vectorBy (cause : Word) (s : State) : State :=
  if s.th.trapped then s.setPc (s.th.tvec + BitVec.ofNat 64 (64 * (cause.toNat / 256))) else s

/-! ### Further moves of the schedule -/

/-- Whether an instruction is an event of the device, which the schedule may name. -/
def isEvent (i : Instr) : Bool :=
  !i.hasWords && match i with
  | .factoryTest _ | .illegalWord _ | .ifetchFault _ _ | .intrEntry | .reservationExpiry | .killCountBoundary
  | .cancelHandlerLimit => false
  | _ => true

/-- The moves that are neither an issue nor an event. -/
def otherTurn (t : Turn) (s : State) : State :=
  match t with
  | .granule tile ctx num job => match opAt s tile ctx num with
    | some o => (granuleStep o job s).getD s
    | none => s
  | .residue tile ctx num block fails => match opAt s tile ctx num with
    | some o => residueStep o block fails s
    | none => s
  | .memberCut tile ctx num => match opAt s tile ctx num with
    | some o => memberCut o s
    | none => s
  | .evictL1 core asid line => (replaceL1 core asid line s).getD s
  | .evictSlice cluster asid line => (evictSlice cluster asid line s).getD s
  | .publish cluster asid wa => (sendPublish cluster asid wa s).getD s
  | .dropTlb index => s.onMem fun m => { m with tlb := dropAt index m.tlb }
  | .prefetch num va => prefetch num va s
  | .poison word => s.onMem fun m => { m with poison := insertKey word m.poison }
  | .poisonCopy true place asid wa => l1Change place asid wa (fun w => { w with poison := true }) s
  | .poisonCopy false place asid wa => match homeFind s place asid wa with
    | some h => if h.val.isSome then homePut { h with poison := true } s else s
    | none => s
  | .strayPacket beats => (countPacket true (128 * beats) s).onFab fun f => { f with dropped := f.dropped + 1 }
  | .debugAccess => debugRun (piecesLeft s) s
  | .preempt num => askPreempt num s
  | .interrupt num vector => interruptThread num vector s
  | .dieReport die watchdog hot trip => onDie die (fun d => { d with watchdog := watchdog, hot := hot, trip := trip }) s
  | _ => s

end Sys2Proof.Machine
end

