-- ==== Sys2Proof/Machine/Issue.lean ====
section
/-! DEFINITION. The issue of an instruction by a thread or a phrase, its boundary, the moves of the schedule, and the order in
which the model moves where the schedule names none (R16, R33, R98, R216 to R219, R257, R338, R365 to R369, R422). -/

namespace Sys2Proof.Machine

/-- What one move answers. -/
abbrev Moved := Host.Outcome State Fault Refusal

/-- A move followed by another. -/
def andThen (r : Moved) (f : State → Moved) : Moved := match r with | .next s => f s | x => x

/-! ### The boundary after an instruction (R16, R257, R365, R369) -/

/-- The slot that has issued, from which the next pick of its core goes on (R16). -/
def issuedBy (num : Nat) (s : State) : State :=
  { s with lastIssued := insert (coreOf num) (num % 4) s.lastIssued, lastCore := coreOf num }

/-- Whether an instruction that now retires has been a kill point of its thread: it blocks, it has waited as a blocking instruction
does, or it went backward (R92, R365). -/
def wasKillPoint (i : Instr) (s t : State) : Bool :=
  let isPush : Bool := match i with | .pushV _ => s.th.replies.isEmpty | _ => false
  isBlocking i || (s.th.waiting && (!isAccess i || isPush)) || isBackward i s.th.pc t.th.pc

/-- Whether a trap is a completion trap (R340): that of a `step` whose exchange had ended, or of a `tlw` or `mstat` that has updated
Covered. -/
def isCompletionTrap (s t : State) : Bool := t.th.trapped && (s.th.exch.done || t.th.covered ≠ s.th.covered)

/-- The boundary after an instruction that a thread has issued and that does not wait: `s` before, `t` after it. A trap retires
nothing, but a completion trap follows an instruction that has retired. [DEDUCED, log 20] -/
noncomputable def retire (i : Instr) (s t : State) : Moved :=
  let core := coreOf s.th.num
  let isSame : Bool := t.th.live && t.th.num = s.th.num
  let t := issuedBy s.th.num (if isSame then chargeEnergy (forgetWaits t) else t)
  if t.th.trapped && !isCompletionTrap s t then .next (haltAfterStep t)
  else
    let t : State := { t with snap := { t.snap with liveRetired := countUp core 1 t.snap.liveRetired } }
    if !isSame then .next t
    else
      let t : State := { t with th := countRetired i s.th (wasKillPoint i s t) t.th }
      andThen (exec .reservationExpiry t) fun t =>
        andThen (exec .killCountBoundary t) fun t =>
          andThen (exec .cancelHandlerLimit t) fun t => .next (haltAfterStep t)

/-- What becomes of an instruction's outcome `t`: at a kill point a doomed thread observes, with the instruction not executed
(R366); an instruction that ends its thread has issued (R16); a wait ends the issue, and one for a reply keeps the instruction's
words. -/
noncomputable def conclude (i : Instr) (ws : List Lane) (s t : State) : Moved :=
  if isDoomed s && isKillPoint i s t then .next (observe (undoWait s))
  else if t.th.live && t.th.num = s.th.num && t.th.run = .draining then .next (issuedBy s.th.num (chargeEnergy (forgetWaits t)))
  else if t.th.waiting then .next (if isCommitted t then keepWords ws t else t)
  else retire i s t

/-! ### One thread (R69, R338, R341) -/

/-- What the thread in focus is to execute at its PC, with its words, and the machine after their fetch. -/
noncomputable def instrAt (s : State) : Run (Instr × List Lane × State) :=
  match fetch s with
  | .error (.stop e) => .error e
  | .error (.fail why addr) => .ok (.ifetchFault why addr, [], s)
  | .ok (ws, t) => match decodeWords ws with
    | .instr i => .ok (i, ws, t)
    | .reject why => .ok (.illegalWord why, ws, t)

/-- The thread in focus executes an instruction. -/
noncomputable def run (i : Instr) (ws : List Lane) (s : State) : Moved := andThen (exec i s.begin) (conclude i ws s)

/-- A fetch that gives no words: none where it only waits. -/
def stopFetch (e : Stop) (s : State) : Option Moved :=
  match e with
  | .waitAfter change => some (.next (change s))
  | .endTask status => some (.next (endHere status s))
  | _ => none

/-- Whether an interrupt is to be taken by a thread (R338). -/
def hasInterrupt (s : State) : Bool :=
  !s.th.intrs.isEmpty && interruptsOn s.th.status && !(s.th.waiting && isCommitted s)

/-- Whether the interrupt is taken before the next instruction: a suspended `idle` ends first (R110). -/
def takesInterrupt (s : State) : Bool := hasInterrupt s && s.th.micro ≠ 5

/-- A vector of the Laster serves the thread in focus; in a cancel handler its instructions count (R369). [DESIGN CHOICE, log 19] -/
noncomputable def serveVector (cls : Nat) (s : State) : State :=
  let t := lasterVector cls s.begin
  if t.th.waiting then t
  else
    issuedBy s.th.num (haltAfterStep (if s.th.inHandler then
      { t with th := { t.th with handlerCount := t.th.handlerCount + Config.vectorLength s.fresh } } else t))

/-- The thread in focus issues: a vector of the Laster is served, an interrupt is taken, or the instruction at its PC is
executed; none while its fetch waits. -/
noncomputable def issueThread (s : State) : Option Moved :=
  if isHalting s then some (.next (haltAfterStep s))
  else match vectorAt s with
    | some cls => some (exec .cancelHandlerLimit (serveVector cls s))
    | none =>
      if takesInterrupt s then some (exec .intrEntry s)
      else match instrAt s with
        | .error e => stopFetch e s
        | .ok (i, ws, t) => some (run i ws t)

/-! ### A phrase (R217, R218). Its members execute an instruction in one step [DESIGN CHOICE, log 11] -/

/-- One member's execution: a transfer of control follows the head, whose state before and after is given. -/
noncomputable def runMember (i : Instr) (h h' : Thread) (s : State) : Moved :=
  if isControl i && s.th.num ≠ h.num then finishRun s.begin (follow i h h' s.begin) else exec i s.begin

/-- How far the members have come with an instruction: which wait, whether one trapped, and a fault that came between. A member that
has ended is done with it (R366, R369). -/
structure Pass where
  state : State
  waits : List Nat := []
  isTrapped : Bool := false
  ended : Option Moved := none

/-- Members execute an instruction in turn. -/
noncomputable def passOver (i : Instr) (h h' : Thread) : List Nat → Pass → Pass
  | [], p => p
  | n :: ns, p =>
    let f := p.state.focus n
    if f.th.run = .draining then passOver i h h' ns p
    else match runMember i h h' f with
      | .next t =>
        if t.th.trapped then { p with isTrapped := true }
        else
          let isWait : Bool := t.th.waiting && t.th.run ≠ .draining
          passOver i h h' ns { p with state := t, waits := if isWait then p.waits ++ [n] else p.waits }
      | x => { p with ended := some x }

/-- Members that wait try again after the others; the first argument bounds the rounds. A `jnext` waits for its deal till the next issue
(R382). -/
noncomputable def settlePass (i : Instr) (h h' : Thread) : Nat → Pass → Pass
  | 0, p => p
  | f + 1, p =>
    if p.waits.isEmpty || p.isTrapped || p.ended.isSome || (match i with | .jnext => true | _ => false) then p
    else
      let q := passOver i h h' p.waits { p with waits := [] }
      if q.waits.length < p.waits.length then settlePass i h h' f q else q

/-- Members whose head has a trap vector by its CAUSE (R218); where the head has ended each keeps its own vector. -/
def vectorAll (head : Nat) (members : List Nat) (s : State) : State :=
  match s.thread? head with
  | some h => if h.trapped && h.run ≠ .draining then members.foldl (fun t n => vectorBy h.cause (t.focus n)) s else s
  | none => s

/-- Every member takes the trap: one that faults its own, one that the instruction ends none, the others PHRASE PEER (R218). -/
noncomputable def trapAll (i : Instr) (h h' : Thread) (members : List Nat) (s : State) : Moved :=
  let enter (s : State) (n : Nat) : State :=
    let f := s.focus n
    if f.th.run = .draining then s
    else match runMember i h h' f with
      | .next t => if t.th.trapped || t.th.run = .draining then t else joinTrap f.begin
      | _ => joinTrap f.begin
  .next (vectorAll h.num members (members.foldl (fun t n => issuedBy n t) (members.foldl enter s)))

/-- The waits of the members that cannot go on; what the others would have done is left for later, so that the phrase stays
together. All its members are suspended in an `idle` that one of them still waits in (R110). -/
noncomputable def keepWaits (i : Instr) (h h' : Thread) (members waits : List Nat) (s : State) : State :=
  let s := waits.foldl (fun s n =>
    match runMember i h h' (s.focus n) with
    | .next t => if t.th.waiting then t else s
    | _ => s) s
  match i with
  | .idle => members.foldl (fun s n => s.onThread n fun t => { t with micro := 5 }) s
  | _ => s

/-- The members observe together (R218, R366). -/
def observeAll (head : Nat) (members : List Nat) (s : State) : State :=
  vectorAll head members (members.foldl (fun s n =>
    let s := (undoWait (s.focus n)).begin
    if isDoomed s then observe s else s) s)

/-- A mark that has reached one member of a phrase has reached all (R218, R366). -/
def shareMark (members : List Nat) (s : State) : State :=
  if members.any fun n => (s.thread? n).any fun t => t.marked then
    members.foldl (fun s n => s.onThread n fun t => { t with marked := true })
      { s with marks := s.marks.filter fun n => !members.contains n }
  else s

/-- The boundary after an instruction that every member has executed: each is counted for itself. -/
noncomputable def retireAll (i : Instr) (before : State) : List Nat → State → Moved
  | [], t => .next t
  | n :: ns, t =>
    let f := t.focus n
    if f.th.run = .draining then retireAll i before ns (issuedBy n t)
    else andThen (retire i (before.focus n) f) (retireAll i before ns)

/-- A phrase executes an instruction. -/
noncomputable def runPhrase (i : Instr) (ws : List Lane) (members : List Nat) (s : State) : Moved :=
  let h := s.th
  match exec i s.begin with
  | .next first =>
    let h' := first.th
    let p := settlePass i h h' members.length (passOver i h h' members { state := s })
    let isCommittedNow : Bool := members.any fun n => let f := s.focus n; f.th.waiting && isCommitted f
    let isPopping : Bool := members.any fun n => isPopWait i (s.focus n)
    let isKill : Bool := !isCommittedNow && (isBlocking i || (!p.waits.isEmpty && (!isAccess i || isPopping)) ||
      (!h'.trapped && isBackward i h.pc h'.pc))
    if (members.any fun n => isDoomed (s.focus n)) && isKill then .next (observeAll h.num members s)
    else match p.ended with
      | some r => r
      | none =>
        if p.isTrapped then trapAll i h h' members s
        else if p.waits.isEmpty then retireAll i s members p.state
        else
          let t := keepWaits i h h' members p.waits s
          let isCommitting : Bool := members.any fun n => isCommitted (t.focus n)
          .next (if isCommitting then keepWords ws (t.focus h.num) else t)
  | x => x

/-- The members of a phrase are served by a vector of the Laster; together they wait where one must. -/
noncomputable def servePhrase (cls : Nat) (members : List Nat) (s : State) : State :=
  let serve (r : Option State) (n : Nat) : Option State :=
    r.bind fun s =>
      let f := s.focus n
      if f.th.num ≠ n || !f.th.live || f.th.run = .draining || vectorAt f ≠ some cls then some s
      else
        let t := serveVector cls f
        if t.th.waiting && t.th.run ≠ .draining then none else some t
  (members.foldl serve (some s)).getD s.waitHere

/-- The members take an interrupt: those that it is for INTR, the others PHRASE PEER. -/
noncomputable def interruptPhrase (head : Nat) (members : List Nat) (s : State) : Moved :=
  let enter (r : Moved) (n : Nat) : Moved := andThen r fun s =>
    let f := s.focus n
    if hasInterrupt f then exec .intrEntry f else .next (joinTrap (undoWait f).begin)
  andThen (members.foldl enter (.next s)) fun t => .next (vectorAll head members t)

/-- The head in focus issues for its phrase. -/
noncomputable def issuePhrase (s : State) : Option Moved :=
  let deps := dependentsOf s
  let members := s.th.num :: deps
  if deps.isEmpty then issueThread s
  else match vectorAt s with
    | some cls => some (.next (servePhrase cls members s))
    | none =>
      let s := shareMark members s
      if members.any fun n => takesInterrupt (s.focus n) then some (interruptPhrase s.th.num members s)
      else match instrAt s with
        | .error e => stopFetch e s
        | .ok (i, ws, t) => some (runPhrase i ws members t)

/-- The context in focus issues; none while its fetch waits. -/
noncomputable def issue (s : State) : Option Moved :=
  match s.th.phrase with
  | .head _ => issuePhrase s
  | _ => issueThread s

/-! ### A core (R16) -/

/-- Whether an issue of the context in focus changed anything but that it waits: a thread whose instruction would only wait again
is not ready. -/
def isProgress (s : State) (r : Moved) : Bool :=
  match r with
  | .next t => !t.th.waiting || decide (t ≠ s.begin.waitHere)
  | _ => true

/-- The turn that a thread gave up at a `yield`, with the members of its phrase, has passed (R204). -/
def passTurn (n : Nat) (s : State) : State :=
  (n :: dependentsOf (s.focus n)).foldl (fun s n => s.onThread n fun t => { t with yields := false }) s

/-- The first ready thread among slots issues. [DEDUCED, log 13] [DESIGN CHOICE, log 74] -/
noncomputable def issueFrom : List Nat → State → Moved
  | [], s => .next s
  | n :: ns, s =>
    let f := s.focus n
    if f.th.yields then issueFrom ns (passTurn n s)
    else match issue f with
      | none => issueFrom ns s
      | some r => if isProgress f r then r else issueFrom ns s

/-! ### The schedule and the order without one -/

/-- A move of the schedule. -/
noncomputable def turn (t : Turn) (s : State) : Moved :=
  match t with
  | .issue core => issueFrom (issuers s core) s
  | .event i => if isEvent i then exec i s else .next s
  | _ => .next (otherTurn t s)

/-- Events of the memory system, messages and engines that may be due. -/
noncomputable def trafficEvents (s : State) : List Instr :=
  let upTo (n : Nat) (f : Nat → Instr) : List Instr := (List.range n).map f
  upTo s.mem.posted.length .evGlobalStoreRegister ++ upTo s.packets.length .evPacketArrival
    ++ upTo s.stores.length .evRemoteScratchWrite ++ upTo s.mem.pubs.length .evPublishApply
    ++ (if s.mem.summary = s.mem.applied then [] else [.evSummaryExchange]) ++ upTo s.mem.pubs.length .evPublishResend
    ++ upTo s.eng.commands.length .evCommandArrival ++ upTo s.eng.commands.length .evMatrixCommandArrival
    ++ s.eng.ops.map (fun o => .evEngineOpComplete o.tile o.ctx)
    ++ s.eng.ops.map (fun o => .evWalkSlotClaim o.tile o.ctx o.num)
    ++ s.eng.ops.map (fun o => .evEngineFault o.tile o.ctx o.num) ++ upTo s.eng.resumes.length .evResumePacket
    ++ (s.fab.conns.filter fun c => c.2.owed).map fun c => .evAckTimer c.1

/-- Events of tasks, scopes and exchanges that may be due. -/
noncomputable def taskEvents (s : State) : List Instr :=
  let unitOf (c : Card) : Option (List Nat) :=
    if mayPlace s c then let us := freeUnits s c; us[Config.placement s.fresh % us.length]? else none
  s.marks.map .evCancelMarkArrival ++ s.tasks.map (fun k => .evEndKilled k.1)
    ++ (s.gangs.flatMap fun g => g.2.toSend.map fun x => .evTimetableFlitSend x.2.sender x.2.slot)
    ++ (List.range s.flights.length).map .evExchangePacketArrival ++ s.gangs.map (fun g => .evExchangeEnd g.1)
    ++ s.scopes.map (fun x => .evScopeCancelled x.1) ++ s.scopes.map (fun x => .evScopeFreed x.1)
    ++ s.preempts.map .evPreemption
    ++ s.tasks.map (fun k => .evTaskStart k.1) ++ s.tasks.map (fun k => .evLaunch k.1)
    ++ s.tasks.map (fun k => .evPlacementRequest k.1) ++ s.tasks.map (fun k => .evResumption k.1)
    ++ (s.cards.filterMap fun c => (unitOf c.2).map .evDispatch)
    ++ (s.threads.filter fun t => isDisplaced s t.num).map (fun t => .evPreemption t.num)

/-- Events of the device that may be due: the start, the host's cards, a snapshot, and the retirement of a core whose health
count has reached its threshold (R402). -/
noncomputable def deviceEvents (s : State) : List Instr :=
  (if s.mgmt.stage < 8 && s.mgmt.devstate ≠ 15 then [.evPowerGood] else [])
    ++ (List.range 16).map .evHostCardRead ++ (if s.snap.latchAt.isSome then [.evSnapshotLatch] else [])
    ++ ((s.eng.tiles.filter fun t => s.mgmt.hthresh ≤ t.2.health && !t.2.retired).map fun t => .weltTilectl t.1 1)

/-- The first event of a list that changes the machine. -/
noncomputable def firstEvent : List Instr → State → Option State
  | [], _ => none
  | i :: is, s => match exec i s with
    | .next t => if t ≠ s then some t else firstEvent is s
    | _ => firstEvent is s

/-- The move where the schedule names none: a debugger's access that can go on, else the first event that is due, else the next core's
thread. [DESIGN CHOICE, log 1] -/
noncomputable def defaultMove (s : State) : Moved :=
  let d := otherTurn .debugAccess s
  if d ≠ s then .next d
  else match firstEvent (deviceEvents s ++ trafficEvents s ++ taskEvents s) s with
  | some t => .next t
  | none => issueFrom ((issuingCores s).flatMap (issuers s)) s

/-- One move of the machine. -/
noncomputable def move (s : State) : Moved :=
  match s.schedule with
  | [] => defaultMove s
  | t :: rest => turn t { s with schedule := rest }

/-! ### A word placed where the next step fetches -/

/-- Whether the context in focus will fetch at its PC, so that placing words there is enough. -/
def fetchesHere (s : State) : Bool :=
  let isPage (va : Nat) : Bool := match walk s s.th.asid va with
    | .page pa _ _ _ _ true false => !isRemote pa && !isWelt pa
    | _ => false
  s.th.live && s.th.phrase = .none && s.th.run = .running && mayIssue s s.th && (vectorAt s).isNone && !takesInterrupt s && !s.th.yields &&
    !isDoomed s && s.th.pc.toNat % 4 = 0 && isPage s.th.pc.toNat && isPage (s.th.pc.toNat + 19)

/-- The task, card and scope of the context that is built for a placed word. -/
def builtTask (id : Nat) : Task :=
  { id := id, card := id + 1, asid := 1, scope := 1, stage := .running, slots := [12], live := [12], chunk := (0, 1)
    deals := [(0, 1)] }
@[inherit_doc builtTask] def builtCard (id : Nat) : Card :=
  { id := id + 1, flags := 0, pwidth := 0, cls := 0, chunkf := 0, xbound := 0, rsize := 8, rcount := 1, minchunk := 1, rbase := 0
    entry := 65536, scratch := 1, spill := 0, threads := 0, mset := 0, budget := 0, target := 0, footprint := 0, lease := 0
    scope := 1, asid := 1, submitter := none, host := none, watched := false, next := 1, count := 1 }

/-- The context that a placed word runs on where no context in focus fetches: slot 12, the first of the core with the matrix
features, in user mode, with one segment of scratch, at 0x10000 of an address space whose first GiB is mapped. -/
def builtThread (id : Nat) : Thread := { Thread.dispatched 12 1 id 1 0x10000 0x200000 0 1 0 0 0 0 with ownPages := 1 }

/-- The tables that map the first GiB of address space 1 to the second GiB of memory, readable, writable and executable. -/
def builtTables (m : List Host.Cell) : List Host.Cell :=
  writeBytes (writeBytes (writeBytes m 0x10000 (bytesOf 8 0x20001)) 0x20000 (bytesOf 8 0x30001)) 0x30000 (bytesOf 8 0x4000003B)

/-- The machine with that context in focus, as its task's launch would have left it. -/
def buildContext (s : State) : State :=
  let id := s.nextId
  let isIt (t : Thread) : Bool := t.num = 12
  { s with
    th := builtThread id
    others := (if s.th.live && !isIt s.th then [s.th] else []) ++ s.others.filter fun t => !isIt t
    tasks := insert id (builtTask id) s.tasks
    cards := insert (id + 1) (builtCard id) s.cards
    scopes := insert 1 ⟨0, 1, 1, 0, 0, 0, 0⟩ s.scopes
    nextId := id + 2
    preempts := []
    lastIssued := remove 3 s.lastIssued
    dies := s.dies.setIfInBounds 0 { (s.dies[0]?).getD {} with live := true, fenced := false }
    welt := { s.welt with roots := insert 1 0x10001 s.welt.roots }
    mem := { s.mem with dram := builtTables s.mem.dram } }

/-- Bytes placed at the PC of the context in focus, where its fetch reads them. -/
def placeBytes (bs : List Byte) (s : State) : State :=
  let va := s.th.pc.toNat
  let isHit (asid wa : Nat) : Bool := asid = s.th.asid && va / 4 ≤ wa && wa < va / 4 + 5
  let put (m : List Host.Cell) (x : Byte × Nat) : List Host.Cell :=
    match walk s s.th.asid (va + x.2) with
    | .page pa _ _ _ _ _ _ => writeByte m pa x.1
    | _ => m
  { s with
    th := { s.th with icache := [] }
    schedule := .issue (coreOf s.th.num) :: s.schedule
    lastIssued := insert (coreOf s.th.num) ((s.th.num + 3) % 4) s.lastIssued
    mem := { s.mem with
      dram := (bs.zip (List.range bs.length)).foldl put s.mem.dram
      tlb := s.mem.tlb.filter fun e => e.asid ≠ s.th.asid
      moving := s.mem.moving.filter fun p => p.asid ≠ s.th.asid
      l1 := s.mem.l1.filter fun w => !isHit w.asid w.wa
      slices := s.mem.slices.filter fun w => !isHit w.asid w.wa } }

/-- An instruction's bytes placed where the next step fetches. -/
def placeInstr (bs : List Byte) (s : State) : State := placeBytes bs (if fetchesHere s then s else buildContext s)

end Sys2Proof.Machine
end

