-- ==== Sys2Proof/Machine/Step.lean ====
section
/-! DEFINITION. One step of the machine: one move, and time passes. -/

namespace Sys2Proof.Machine

/-- One step: the move that the schedule names, or the model's own. -/
noncomputable def step (s : State) : Host.Outcome State Fault Refusal := andThen (move s) fun t => .next (tick t)

/-- The machine with an instruction of the opcode table placed where its next step fetches. It stands for the loading of a program
[log 12]. -/
noncomputable def State.withFetchWord (s : State) (nbits w : Nat) : State := placeInstr (bytesOfNat 20 (w % 2 ^ nbits)) s

end Sys2Proof.Machine
end

