-- ==== Sys2Proof/Safety.lean ====
section
/-! DEFINITION. What counts as a safe run, and the invariant that statements use. -/

namespace Sys2Proof.Safety

open Sys2Proof.Machine

/-- A run of `n` steps that neither faults nor refuses. -/
def SafeRun : Nat → State → Prop
  | 0, _ => True
  | n + 1, s => ∃ t, step s = .next t ∧ SafeRun n t

end Sys2Proof.Safety
end

