-- ==== Sys2Proof/Safety/Scratch.lean ====
section
/-! DEFINITION. The scratch accesses as tables that the statements use (R58, R96 to R104, R150 to R153, R188, R189). -/

namespace Sys2Proof.Safety

open Sys2Proof.Machine

/-- The wait that a W field names is over, and its remote-error bit is clear (R46, R58). -/
def WaitOver (w : WClass) (t : Thread) : Prop :=
  match w with
  | .none => True
  | .wrs => t.cntRemote = 0 ∧ t.rerr = false
  | .wgs => t.cntGlobal = 0
  | .wrd => t.cntDevice = 0 ∧ t.derr = false

/-- The operand address of an access: an unsigned five-bit or a sign-extended 32-bit offset, modulo 2⁶⁴ (R55, R96). -/
def shortOffset (s : State) (b : DReg) (off : BitVec 5) : Nat := ((s.getD b).toNat + off.toNat) % 2 ^ 64
@[inherit_doc shortOffset] def longOffset (s : State) (b : DReg) (i : BitVec 32) : Nat :=
  (((s.getD b).toNat + i.toInt) % 2 ^ 64).toNat

/-- The value of `n` low bytes extended by a type: as signed for .s types, else unsigned (R60, R96). -/
def extended (t : IntTy) (x : Nat) : Word :=
  if intSigned t ∧ 2 ^ (8 * intSize t - 1) ≤ x then .ofInt 64 ((x : Int) - 2 ^ (8 * intSize t)) else .ofNat 64 x

/-- A scalar load or store of the thread's own partition (R96). -/
structure OwnAccess where
  w : WClass
  full : FE
  ty : IntTy
  reg : DReg
  off : Nat
  len : Nat

/-- The scalar loads of R96. -/
def ownLoadOf (s : State) : Instr → Option OwnAccess
  | .lds w q t a b off => some ⟨w, q, t, a, shortOffset s b off, 4⟩
  | .ldsX w q t a b i none => some ⟨w, q, t, a, longOffset s b i, 12⟩
  | _ => none

/-- The scalar stores of R96; `full` says `.full` for `.s`. -/
def ownStoreOf (s : State) : Instr → Option (OwnAccess × Bool)
  | .sts w x t a b off => some (⟨w, .plain, t, a, shortOffset s b off, 4⟩, x)
  | .stsX w x t a b i none => some (⟨w, .plain, t, a, longOffset s b i, 12⟩, x)
  | _ => none

/-- The peer loads and stores of R100: the register that names the target, then as `OwnAccess`. -/
def peerLoadOf (s : State) : Instr → Option (DReg × OwnAccess)
  | .ldp w q t a b c => some (b, ⟨w, q, t, a, (s.getD c).toNat, 4⟩)
  | .ldpX w q t a b c i => some (b, ⟨w, q, t, a, longOffset s c i, 12⟩)
  | _ => none
@[inherit_doc peerLoadOf] def peerStoreOf (s : State) : Instr → Option (DReg × OwnAccess × Bool)
  | .stp w x t a b c => some (b, ⟨w, .plain, t, a, (s.getD c).toNat, 4⟩, x)
  | .stpX w x t a b c i => some (b, ⟨w, .plain, t, a, longOffset s c i, 12⟩, x)
  | _ => none

/-- What the form of a load makes of the full bit it found set: .fc clears it, .f and .fc acquire at cluster scope (R96, R272). -/
def afterFullLoad (q : FE) (key : Nat) (s : State) : State :=
  match q with
  | .plain => s
  | .full => acquire 3 s
  | .fullClear => acquire 3 (clearFull key s)

/-- What an `ldp` that has issued at an array place waits for: the thread's earlier `stp` to that slot, and the full bit where it needs
it; the bytes are not poisoned (R100, R101). -/
def peerLoadDone (s : State) (x : OwnAccess) (target k : Nat) : Prop :=
  (∀ r ∈ s.stores, r.sender = s.th.num → r.slot ≠ target) ∧ (x.full = .plain ∨ isFull s k = true) ∧
    scratchPoisoned s k (intSize x.ty) = false

/-- The state after an `ldp` has read its place (R100). -/
def afterPeerLoad (s : State) (x : OwnAccess) (k : Nat) : State :=
  let u := afterFullLoad x.full k s
  (({ u with th := { u.th with kept := none } }).setD x.reg (extended x.ty (scratchNat s k (intSize x.ty)))).advance x.len

/-- The thread that a peer operand names: the core in bits 11:0, the thread index in bits 17:16 (R30, R100). -/
def peerOf (v : Word) : Nat := 4 * (v.toNat % 4096) + v.toNat / 65536 % 4

/-- A vector load or store (R151, R152): the vector register, the offset of each lane, and the modifiers. -/
structure VecAccess where
  w : WClass
  reg : VReg
  off : Nat → Nat
  gov : Gov
  len : Nat

/-- Lane offsets: consecutive words from a base, or a stride (R151, R152). -/
def lanesFromBase (base : Nat) (k : Nat) : Nat := (base + 4 * k) % 2 ^ 64
@[inherit_doc lanesFromBase] def lanesByStride (s : State) (b c : DReg) (k : Nat) : Nat :=
  ((s.getD b).toNat + k * (s.getD c).toNat) % 2 ^ 64

/-- The vector loads of R151 and R152. -/
def vecLoadOf (s : State) : Instr → Option VecAccess
  | .vld w a b off => some ⟨w, a, lanesFromBase (shortOffset s b off), none, 4⟩
  | .vlds w a b c => some ⟨w, a, lanesByStride s b c, none, 4⟩
  | .vldX w a b i g none => some ⟨w, a, lanesFromBase (longOffset s b i), g, 12⟩
  | .vldsX w a b c g none => some ⟨w, a, lanesByStride s b c, g, 12⟩
  | _ => none

/-- The vector stores of R151 and R152. -/
def vecStoreOf (s : State) : Instr → Option VecAccess
  | .vst w a b off => some ⟨w, a, lanesFromBase (shortOffset s b off), none, 4⟩
  | .vsts w a b c => some ⟨w, a, lanesByStride s b c, none, 4⟩
  | .vstX w a b i g none => some ⟨w, a, lanesFromBase (longOffset s b i), g, 12⟩
  | .vstsX w a b c g none => some ⟨w, a, lanesByStride s b c, g, 12⟩
  | _ => none

/-- The lanes of a mask, in increasing order. -/
def lanesOf (mask : Lane) : List Nat := (List.range 32).filter fun k => mask.getLsbD k

/-- A gather (R153): whether it is the `.zero` form, the index register, the bound and the sentinel. -/
structure GatherOp where
  w : WClass
  zero : Bool
  dst : VReg
  base : Word
  idx : VReg
  bound : Nat
  sentinel : Nat
  gov : Gov
  len : Nat

/-- The gathers of R153. -/
def gatherOf (s : State) : Instr → Option GatherOp
  | .vldx w a b c => some ⟨w, false, a, s.getD b, c, 0, 0xFFFF, none, 4⟩
  | .vldxZero w a b c => some ⟨w, true, a, s.getD b, c, 0, 0xFFFF, none, 4⟩
  | .vldxX w a b c nb ns g none => some ⟨w, false, a, s.getD b, c, nb.toNat, ns.toNat, g, 12⟩
  | .vldxZeroX w a b c nb ns g none => some ⟨w, true, a, s.getD b, c, nb.toNat, ns.toNat, g, 12⟩
  | _ => none

/-- Whether a lane with an index holds the sentinel; the sentinel 0xFFFF is none (R153). -/
def GatherOp.isSentinel (g : GatherOp) (x : Nat) : Prop := g.sentinel ≠ 0xFFFF ∧ x = g.sentinel
/-- Whether an index lies at or above the bound; a bound of 0 is none (R153). -/
def GatherOp.isBeyond (g : GatherOp) (x : Nat) : Prop := g.bound ≠ 0 ∧ g.bound ≤ x
/-- The offset that an index names. -/
def GatherOp.off (g : GatherOp) (x : Nat) : Nat := (g.base.toNat + 4 * x) % 2 ^ 64

/-- A region load or store (R188, R189): W, the register, the offset, the length, and whether it loads. -/
def regionAccessOf (s : State) : Instr → Option (WClass × QReg × Nat × Nat × Bool)
  | .rld w a b off => some (w, a, shortOffset s b off, 4, true)
  | .rldX w a b i => some (w, a, longOffset s b i, 12, true)
  | .rst w a b off => some (w, a, shortOffset s b off, 4, false)
  | .rstX w a b i => some (w, a, longOffset s b i, 12, false)
  | _ => none

/-- A push or pop of scalar registers that names one or several (R103): whether it pushes, the mask, the length. -/
def stackOf : Instr → Option (Bool × BitVec 32 × Nat)
  | .push a => some (true, .ofNat 32 (2 ^ a.toNat), 4)
  | .pushX m => some (true, m, 12)
  | .pop a => some (false, .ofNat 32 (2 ^ a.toNat), 4)
  | .popX m => some (false, m, 12)
  | _ => none

/-- The registers of a mask, lowest first. -/
def namedRegs (m : BitVec 32) : List Nat := (List.range 32).filter fun k => m.getLsbD k

/-- An access through a handle (R59): whether it consumes, the handle, its need, and the same access without it. -/
noncomputable def handleForm : Instr → Option (Bool × HReg × BitVec 4 × Instr)
  | .ldsX w q t a b i (some (h, n)) => some (true, h, n, .ldsX w q t a b i none)
  | .stsX w x t a b i (some (h, n)) => some (false, h, n, .stsX w x t a b i none)
  | .vldX w a b i g (some (h, n)) => some (true, h, n, .vldX w a b i g none)
  | .vstX w a b i g (some (h, n)) => some (false, h, n, .vstX w a b i g none)
  | .vldsX w a b c g (some (h, n)) => some (true, h, n, .vldsX w a b c g none)
  | .vstsX w a b c g (some (h, n)) => some (false, h, n, .vstsX w a b c g none)
  | .vldxX w a b c nb ns g (some (h, n)) => some (true, h, n, .vldxX w a b c nb ns g none)
  | .vldxZeroX w a b c nb ns g (some (h, n)) => some (true, h, n, .vldxZeroX w a b c nb ns g none)
  | .ldgX w t a b c sc cp (some (h, n)) => some (true, h, n, .ldgX w t a b c sc cp none)
  | .stgX w t a b c sc cp (some (h, n)) => some (false, h, n, .stgX w t a b c sc cp none)
  | .rsvX w t a b c sc cp (some (h, n)) => some (true, h, n, .rsvX w t a b c sc cp none)
  | .cmtX w t a b c sc cp (some (h, n)) => some (false, h, n, .cmtX w t a b c sc cp none)
  | _ => none

end Sys2Proof.Safety
end

