-- ==== Sys2Proof/Safety/Effects.lean ====
section
/-! DEFINITION. The global accesses, fences, threads, sets, scopes and the exchange as tables that the statements use (R190 to R233,
R255 to R263, R351 to R370). -/

namespace Sys2Proof.Safety

open Sys2Proof.Machine

/-! ### Global accesses (R255 to R258) -/

/-- A global access: W, type, register, address, scope level, cache policy, and length (R255). -/
structure GlobalAccess where
  w : WClass
  ty : IntTy
  reg : DReg
  va : Nat
  lvl : Nat
  cp : CachePolicy
  len : Nat

/-- D(B) + D(C) modulo 2⁶⁴ (R255). -/
def sumOf (s : State) (b c : DReg) : Nat := ((s.getD b).toNat + (s.getD c).toNat) % 2 ^ 64

/-- The levels that scopes act at (R255): the core for thread and core, the cluster for tile and cluster, the device for die and
device, else the domain. -/
def levelOf : Scope → Nat
  | .thread => 1 | .core => 1 | .tile => 3 | .cluster => 3 | .die => 5 | .device => 5 | .domain => 6 | .system => 6

/-- Global loads, stores, reservations and conditional stores without a handle: 0 to 3 (R256, R257). -/
def globalOf (s : State) : Instr → Option (Nat × GlobalAccess)
  | .ldg w t a b c => some (0, ⟨w, t, a, sumOf s b c, 5, .normal, 4⟩)
  | .stg w t a b c => some (1, ⟨w, t, a, sumOf s b c, 5, .normal, 4⟩)
  | .rsv w t a b c => some (2, ⟨w, t, a, sumOf s b c, 5, .normal, 4⟩)
  | .cmt w t a b c => some (3, ⟨w, t, a, sumOf s b c, 5, .normal, 4⟩)
  | .ldgX w t a b c sc cp none => some (0, ⟨w, t, a, sumOf s b c, levelOf sc, cp, 12⟩)
  | .stgX w t a b c sc cp none => some (1, ⟨w, t, a, sumOf s b c, levelOf sc, cp, 12⟩)
  | .rsvX w t a b c sc _ none => some (2, ⟨w, t, a, sumOf s b c, levelOf sc, .normal, 12⟩)
  | .cmtX w t a b c sc _ none => some (3, ⟨w, t, a, sumOf s b c, levelOf sc, .normal, 12⟩)
  | _ => none

/-- The integer type of an atomic (R258). -/
def atomicTy : Ty → IntTy
  | .s64 => .s64 | .n32 => .n32 | .n64 => .n64 | _ => .s32

/-- The atomics: the operation in the order of R258, the access, and the data register. -/
def atomicOf (s : State) : Instr → Option (Nat × GlobalAccess × DReg)
  | .amoAdd w t sc a b c d => some (0, ⟨w, atomicTy t, a, sumOf s b c, levelOf sc, .normal, 12⟩, d)
  | .amoMin w t sc a b c d => some (1, ⟨w, atomicTy t, a, sumOf s b c, levelOf sc, .normal, 12⟩, d)
  | .amoMax w t sc a b c d => some (2, ⟨w, atomicTy t, a, sumOf s b c, levelOf sc, .normal, 12⟩, d)
  | .amoMinn w t sc a b c d => some (3, ⟨w, atomicTy t, a, sumOf s b c, levelOf sc, .normal, 12⟩, d)
  | .amoMaxn w t sc a b c d => some (4, ⟨w, atomicTy t, a, sumOf s b c, levelOf sc, .normal, 12⟩, d)
  | .amoAnd w t sc a b c d => some (5, ⟨w, atomicTy t, a, sumOf s b c, levelOf sc, .normal, 12⟩, d)
  | .amoOr w t sc a b c d => some (6, ⟨w, atomicTy t, a, sumOf s b c, levelOf sc, .normal, 12⟩, d)
  | .amoXor w t sc a b c d => some (7, ⟨w, atomicTy t, a, sumOf s b c, levelOf sc, .normal, 12⟩, d)
  | .amoSwap w t sc a b c d => some (8, ⟨w, atomicTy t, a, sumOf s b c, levelOf sc, .normal, 12⟩, d)
  | .amoCas w t sc a b c d => some (9, ⟨w, atomicTy t, a, sumOf s b c, levelOf sc, .normal, 12⟩, d)
  | _ => none

/-- The code of an atomic's type on its way (R399): s32, s64, n32, n64. -/
def typeCode : IntTy → Nat
  | .s64 => 1 | .n32 => 2 | .n64 => 3 | _ => 0

/-- The value an atomic writes over `w` with operand `v` and compare value `c`, at a type (R258); none where `amo.cas` finds another
value. -/
def atomicResult (t : IntTy) (op w v c : Nat) : Option Nat :=
  let m := 2 ^ (8 * intSize t)
  let sg (x : Nat) : Int := if 2 * x < m then (x : Int) else (x : Int) - m
  match op with
  | 0 => some ((w + v) % m)
  | 1 => some (if sg v < sg w then v else w)
  | 2 => some (if sg w < sg v then v else w)
  | 3 => some (if v < w then v else w)
  | 4 => some (if w < v then v else w)
  | 5 => some (w &&& v)
  | 6 => some (w ||| v)
  | 7 => some (w ^^^ v)
  | 8 => some v
  | _ => if w = c then some v else none

/-- The words that `n` bytes at an address touch. -/
def touched (va n : Nat) : List Nat := (List.range ((va % 4 + n + 3) / 4)).map fun k => va / 4 + k

/-- An access passes its lease and object checks (R250, R254). -/
def Allowed (s : State) (writes : Bool) (va n : Nat) : Prop :=
  leaseAllows s s.th va n = true ∧ ∀ wa ∈ touched va n, objectAllows s (coreOf s.th.num) s.th.asid (4 * wa) writes = true

/-- The L1 copy of a word for the thread in focus (R240, R241). -/
def ownCopy (s : State) (va wa : Nat) : Option L1Word := l1Find s (l1Core s (coreOf s.th.num) va) s.th.asid wa

/-- Every word of an access lies in the thread's L1, not poisoned, and no operation is under way on it. -/
def Held (s : State) (va n : Nat) : Prop :=
  isUnderWay s (l1Core s (coreOf s.th.num) va) s.th.asid (touched va n) = false ∧
    ∀ wa ∈ touched va n, ∃ l, ownCopy s va wa = some l ∧ l.poison = false

/-- The byte at an address in the thread's L1; 0 where the L1 holds no copy. -/
def copyByte (s : State) (va a : Nat) : Nat := ((ownCopy s va (a / 4)).map fun l => l.val.toNat / 2 ^ (8 * (a % 4)) % 256).getD 0

/-- The byte at an address once `x` is stored in `n` bytes from `va` up over the thread's L1. -/
def storedByte (s : State) (va n x a : Nat) : Nat := if va ≤ a ∧ a < va + n then x / 2 ^ (8 * (a - va)) % 256 else copyByte s va a

/-- What a store of `n` bytes leaves (R240, R254, R256): in a private object the bytes in the L1; else a posted operation that carries the
words that the bytes make, counted in the global class. -/
def Stored (s u : State) (va n lvl : Nat) (cp : CachePolicy) (x : Nat) : Prop :=
  u.mem.dram = s.mem.dram ∧ u.mem.scratch = s.mem.scratch ∧ u.th.d = s.th.d ∧ u.th.pc = s.th.pc ∧
    if classAt s s.th.asid va = 0 then
      u.mem.posted = s.mem.posted ∧ u.th.cntGlobal = s.th.cntGlobal ∧ ∀ a, copyByte u va a = storedByte s va n x a
    else
      u.mem.l1 = s.mem.l1 ∧ u.th.cntGlobal = s.th.cntGlobal + 1 ∧ ∃ (p : Posted) (vals : List (Lane × Bool)),
        u.mem.posted = s.mem.posted ++ [p] ∧ p.kind = .store vals cp ∧ p.thread = s.th.num ∧ p.taskid = s.th.taskid ∧
        p.asid = s.th.asid ∧ p.va = va ∧ p.size = n ∧ p.scope = lvl ∧ vals.length = (touched va n).length ∧
        ∀ j (h : j < vals.length), vals[j].2 = false ∧
          ∀ b < 4, vals[j].1.toNat / 2 ^ (8 * b) % 256 = storedByte s va n x (4 * (va / 4 + j) + b)

/-- What an action of `n` bytes in the L1 of the thread leaves for shared memory (R258, R266): the bytes in the L1, the words registered
there, and nothing posted or counted. -/
def RegisteredNow (s u : State) (va n x : Nat) : Prop :=
  u.mem.posted = s.mem.posted ∧ u.mem.pubs = s.mem.pubs ∧ u.th.cntGlobal = s.th.cntGlobal ∧ u.th.cntDevice = s.th.cntDevice ∧
    u.th.d = s.th.d ∧ u.th.pc = s.th.pc ∧ (∀ a, copyByte u va a = storedByte s va n x a) ∧
    ∀ wa ∈ touched va n, ∃ h, homeFind u (clusterOfCore (coreOf s.th.num)) s.th.asid wa = some h ∧
      h.owner = some (l1Core s (coreOf s.th.num) va)

/-- The prefetches (R259): the address registers, the level, the cache policy, the length. -/
def prefetchOf : Instr → Option (DReg × DReg × Nat × CachePolicy × Nat)
  | .pref b c => some (b, c, 5, .normal, 4)
  | .prefX b c sc cp => some (b, c, levelOf sc, cp, 12)
  | _ => none

/-! ### Fences (R261) -/

/-- A fence instruction: whether it releases, whether it acquires, its operand and its length. -/
def fenceOf : Instr → Option (Bool × Bool × FenceScope × Nat)
  | .acq f => some (false, true, f, 4)
  | .rel f => some (true, false, f, 4)
  | .fence f => some (true, true, f, 4)
  | .acqX f => some (false, true, f, 12)
  | .relX f => some (true, false, f, 12)
  | .fenceX f => some (true, true, f, 12)
  | _ => none

/-- The level a fence acts at: that of its scope, or for a set the lowest level common to its members (R208, R261). -/
def FenceAt (s : State) (f : FenceScope) (l : Nat) : Prop :=
  match f with
  | .level sc => l = levelOf sc
  | .named m => ∃ id, (s.th.getM m).bound = .set id ∧ l = setLevel id s

/-- The bytes of an object's record as four device-scope loads give them (R262). -/
def objectRecord (va : Nat) (s : State) : Run (List Byte × State) :=
  (List.range 4).foldlM (fun (r : List Byte × State) k => do
    let (x, s) ← loadGlobal 5 .normal (va + 8 * k) 8 r.2
    .ok (r.1 ++ bytesOf 8 x, s)) ([], s)

/-! ### Sets and phrases (R205 to R219) -/

/-- A name keeps a thread's membership of a set: the lowest of its names that is a member's (R209). -/
def MemberBy (t : Thread) (id : Nat) (k : MReg) : Prop :=
  ((t.getM k).member = true ∧ (t.getM k).bound = .set id) ∧
    ∀ j : MReg, j.toNat < k.toNat → ¬ ((t.getM j).member = true ∧ (t.getM j).bound = .set id)

/-- A thread is no member of a set by any name. -/
def NoMember (t : Thread) (id : Nat) : Prop := ∀ k : MReg, ¬ ((t.getM k).member = true ∧ (t.getM k).bound = .set id)

/-- The slot of a phrase's member at a distance from its head (R216). -/
def memberSlot (head j : Nat) : Nat := 4 * coreInRow (coreOf head) (rowPosition (coreOf head) + j) + head % 4

/-- A phrase of width `w` forms from a head's slot (R216): its members have their roles, each goes on at one address, and nothing else
of the machine changes. `own` is the slot of the thread that executes. -/
def PhraseForms (s t : State) (head own w : Nat) (pc : Word) : Prop :=
  let enters (n : Nat) (x : Thread) : Thread :=
    if n = head then { x with phrase := .head w, pc := pc, waiting := false, killCount := 0 }
    else if ∃ j < w, 1 ≤ j ∧ n = memberSlot head j then
      { x with phrase := .dependent (coreOf head), pc := pc, waiting := false, killCount := 0 }
    else x
  t.th = enters own s.th ∧ (∀ n, n ≠ own → t.thread? n = (s.thread? n).map (enters n)) ∧ t = { s with th := t.th, others := t.others }

/-! ### The exchange (R225 to R228) -/

/-- A timetable entry as its 16 bytes hold it at an offset of the partition (R225). -/
def entryAt (s : State) (o : Nat) : TtEntry :=
  let f (k n : Nat) : Nat := scratchNat s (scratchKey s.th (o + k)) n
  ⟨f 0 4, f 4 2, f 6 2, f 8 1, f 9 1⟩

/-- The mark of the last entry of a timetable (R225). -/
def lastMarkAt (s : State) (o : Nat) : Nat := scratchNat s (scratchKey s.th (o + 10)) 1

/-- The entry at an offset is in the form of R225, its rank inside a gang of so many. -/
def EntryInForm (s : State) (size o : Nat) : Prop :=
  let e := entryAt s o
  e.doff % 16 = 0 ∧ 1 ≤ e.flits ∧ e.flits ≤ 16 ∧ e.drank < size ∧ lastMarkAt s o ≤ 1 ∧ scratchNat s (scratchKey s.th (o + 11)) 5 = 0

/-- A timetable of a gang of so many ranks lies at an offset (R225, R226): at most 256 entries inside the partition, not poisoned, in
form, of different slots, the last and no other marked as the last. -/
def Timetable (s : State) (size o : Nat) (es : List TtEntry) : Prop :=
  1 ≤ es.length ∧ es.length ≤ 256 ∧ o + 16 * es.length ≤ s.th.spsize.toNat ∧ (es.map fun e => e.slot).Nodup ∧
    ∀ k (h : k < es.length), es[k] = entryAt s (o + 16 * k) ∧ scratchPoisoned s (scratchKey s.th (o + 16 * k)) 16 = false ∧
      EntryInForm s size (o + 16 * k) ∧ lastMarkAt s (o + 16 * k) = (if k + 1 = es.length then 1 else 0)

/-- The first `n` entries at an offset keep the rules and none is marked as the last, and the next, which lies in the partition and is not
poisoned, breaks them (R226): its form, a slot used before, or no mark on the 256th. -/
def TableBreaksAt (s : State) (size o n : Nat) : Prop :=
  let keeps (k : Nat) := EntryInForm s size (o + 16 * k) ∧ ∀ j < k, (entryAt s (o + 16 * j)).slot ≠ (entryAt s (o + 16 * k)).slot
  n < 256 ∧ o + 16 * n + 16 ≤ s.th.spsize.toNat ∧ (∀ k ≤ n, scratchPoisoned s (scratchKey s.th (o + 16 * k)) 16 = false) ∧
    (∀ k < n, keeps k ∧ lastMarkAt s (o + 16 * k) = 0) ∧ (¬ keeps n ∨ (n = 255 ∧ lastMarkAt s (o + 16 * n) = 0))

/-- The sources of R227: the slot, the offset, the length. -/
def sourceOf (s : State) : Instr → Option (Nat × Nat × Nat)
  | .xsend slot b off => some (slot.toNat, ((s.getD b).toNat + off.toNat) % 2 ^ 64, 4)
  | .xsendX slot b off => some (slot.toNat, ((s.getD b).toNat + 16 * off.toNat) % 2 ^ 64, 12)
  | _ => none

/-- A gather or scatter-add request (R228): the owner's rank, its offset, the type, the words, the own offset, the reserved bits. -/
structure Request where
  add : Bool
  owner : Nat
  off : Nat
  ty : Nat
  words : Nat
  rest : Nat
  loc : Nat
  len : Nat

/-- The requests of R228. -/
def requestOf (s : State) : Instr → Option Request
  | .xreq a b c => some (request false a b c 4)
  | .xreqX a b c => some (request false a b c 12)
  | .xadd a b c => some (request true a b c 4)
  | .xaddX a b c => some (request true a b c 12)
  | _ => none
where
  request (add : Bool) (a b c : DReg) (len : Nat) : Request :=
    let v := (s.getD b).toNat
    ⟨add, (s.getD a).toNat, v % 2 ^ 32, v / 2 ^ 32 % 16, v / 2 ^ 36 % 256 + 1, v / 2 ^ 44, (s.getD c).toNat, len⟩

/-- A request in form (R228): at most 32 words, and for an add the type s32, n32 or f32. -/
def Request.Good (r : Request) : Prop :=
  r.owner < 65536 ∧ r.rest = 0 ∧ r.words ≤ 32 ∧ if r.add then r.ty = 2 ∨ r.ty = 6 ∨ r.ty = 8 else r.ty = 0

/-! ### System registers (R24 to R31, R72, R106) -/

/-- The energy charged to the task of the thread in focus (R31): its own share, and those of the task's other contexts. -/
def energyOf (s : State) : Nat :=
  s.th.ecount.toNat + if s.taskOf s.th = none then 0 else
    (((s.th :: s.others) ++ s.parked).map fun u => if u.taskid = s.th.taskid ∧ u.num ≠ s.th.num then u.ecount.toNat else 0).sum

/-- What a thread reads in a system register (R24, R26, R30, R31, R72), a count never past 2⁶⁴ - 1; none for a number that R24 does not list. -/
def readOf (s : State) (n : Nat) : Option Word :=
  let die := (s.dies[dieOfCore (coreOf s.th.num)]?).getD {}
  match n with
  | 0x000 => some ((s.th.status &&& ~~~ 2048) ||| (if die.ftm then 2048 else 0))
  | 0x001 => some s.th.cause
  | 0x002 => some s.th.epc
  | 0x003 => some s.th.eaddr
  | 0x004 => some s.th.tvec
  | 0x008 => some s.th.fmode
  | 0x010 => some s.th.spbase
  | 0x011 => some s.th.spsize
  | 0x012 => some s.th.spilltop
  | 0x013 => some s.th.spillovf
  | 0x018 => some (.ofNat 64 s.th.lvl)
  | 0x020 => some (.ofNat 64 s.th.taskid)
  | 0x021 => some (.ofNat 64 s.th.scopeid)
  | 0x022 => some (.ofNat 64 (coreOf s.th.num + 2 ^ 16 * (s.th.num % 4)))
  | 0x023 => some (.ofNat 64 (min s.time (2 ^ 64 - 1)))
  | 0x028 => some (if coreOf s.th.num % 4 = 3 then 0x7F0200 else 0x7C0200)
  | 0x029 => some (.ofNat 64 (min (energyOf s) (2 ^ 64 - 1)))
  | _ => none

/-- The thread after a write to a register that may be written (R25 to R27, R31, R236); none where a reserved bit is set or a field
is out of its range. -/
def writtenOf (t : Thread) (n : Nat) (v : Word) : Option Thread :=
  let x := v.toNat
  let holds (base size : Nat) : Prop :=
    size = 0 ∨ (t.segBase ≤ base / 8192 ∧ base / 8192 + size / 8192 ≤ t.segBase + t.segCount)
  match n with
  | 0x000 => if x / 2 ^ 12 = 0 ∧ x / 32 % 8 = 0 ∧ x / 256 % 8 ≤ 4 then
      some { t with status := (v &&& ~~~ 2049) ||| (t.status &&& 1) } else none
  | 0x001 => if x < 65536 then some { t with cause := v } else none
  | 0x002 => some { t with epc := v &&& ~~~ 3 }
  | 0x003 => some { t with eaddr := v }
  | 0x004 => some { t with tvec := v &&& ~~~ 16383 }
  | 0x008 => if x < 2 ^ 15 ∧ x / 8 % 32 = 0 then some { t with fmode := v } else none
  | 0x010 => if x % 8192 = 0 ∧ x ≤ 327680 ∧ holds x t.spsize.toNat then some { t with spbase := v } else none
  | 0x011 => if x % 8192 = 0 ∧ holds t.spbase.toNat x then some { t with spsize := v } else none
  | 0x012 => some { t with spilltop := v }
  | 0x013 => some { t with spillovf := v }
  | 0x018 => if x ≤ 4 then some { t with lvl := x } else none
  | _ => none

/-! ### Save areas (R350 to R352, R360) -/

/-- Words written by the thread at device scope from an address up. -/
def storeWords : Nat → List Word → State → Run State
  | _, [], s => .ok s
  | va, x :: xs, s => do
    let s ← writeArea va x s
    storeWords (va + 8) xs s

/-- So many words read by the thread at device scope from an address up. -/
def loadedWords : Nat → Nat → State → Run (List Word × State)
  | _, 0, s => .ok ([], s)
  | va, n + 1, s => do
    let (x, s) ← readArea va s
    let (xs, s) ← loadedWords (va + 8) n s
    .ok (x :: xs, s)

end Sys2Proof.Safety
end

