-- ==== Sys2Proof/Safety/Float.lean ====
section
/-! DEFINITION. What the number formats stand for and how a result is rounded into them (R114 to R133), in rational numbers and by the
tables of the spec, apart from the meanings of Machine/. -/

namespace Sys2Proof.Safety

open Sys2Proof.Machine

/-- 2ᵉ for a whole exponent. -/
def pow2 (e : Int) : Rat := if 0 ≤ e then ((2 ^ e.toNat : Nat) : Rat) else 1 / ((2 ^ (-e).toNat : Nat) : Rat)

/-- What an encoding stands for: a NaN, signalling or quiet, an infinity, or a magnitude with a sign. -/
inductive Value where
  | nan (signals : Bool)
  | inf (neg : Bool)
  | fin (neg : Bool) (mag : Rat)

/-- A finite value with its sign. -/
def signedMag (neg : Bool) (mag : Rat) : Rat := if neg then -mag else mag

/-- The value of a rational number; zero takes the sign given. -/
def Value.of (zeroNeg : Bool) (q : Rat) : Value := .fin (if q = 0 then zeroNeg else decide (q < 0)) (if q < 0 then -q else q)

/-- Whether a value is a NaN, and whether that signals. -/
def Value.isNaN : Value → Bool | .nan _ => true | _ => false
@[inherit_doc Value.isNaN] def Value.signals : Value → Bool | .nan s => s | _ => false

/-- The value with the other sign. -/
def Value.negated : Value → Value
  | .nan s => .nan s
  | .inf n => .inf (!n)
  | .fin n m => .fin (!n) m

/-! ### Encodings (R114, R119, R120) -/

/-- The magnitude of an IEEE code without its sign; the code of infinity stands for the power of two that follows the largest finite
value (R114). -/
def ieeeMag (f : Ieee) (c : Nat) : Rat :=
  let e := c / 2 ^ f.fbits
  let m := c % 2 ^ f.fbits
  if e = 0 then ((m : Nat) : Rat) * pow2 (1 - (f.bias : Int) - f.fbits)
  else ((2 ^ f.fbits + m : Nat) : Rat) * pow2 ((e : Int) - f.bias - f.fbits)

/-- The value of an IEEE encoding, whose bits above the format are ignored (R114, R134). -/
def ieeeValue (f : Ieee) (x : Nat) : Value :=
  let neg := decide (x / f.signBit % 2 = 1)
  let c := x % f.signBit
  if f.infBits < c then .nan (decide (c < f.nanBits))
  else if c = f.infBits then .inf neg else .fin neg (ieeeMag f c)

/-- The rows of the tables of R119 and R120: the first code of a row, its k and its fraction bits. -/
def taperedRows (b : Nat) : List (Nat × Int × Nat) :=
  if b = 7 then
    [(0x01, -6, 0), (0x02, -5, 0), (0x04, -4, 1), (0x08, -3, 2), (0x10, -2, 3), (0x20, -1, 4), (0x40, 0, 4), (0x60, 1, 3), (0x70, 2, 2),
      (0x78, 3, 1), (0x7C, 4, 0), (0x7E, 5, 0), (0x7F, 6, 0)]
  else
    [(0x01, -4, 0), (0x02, -3, 0), (0x04, -2, 1), (0x08, -1, 2), (0x10, 0, 2), (0x18, 1, 1), (0x1C, 2, 0), (0x1E, 3, 0), (0x1F, 4, 0)]

/-- The magnitude of a tapered code without its sign: 2^(2k+e) · (1 + f/2^w) in its row, and 0 for code 0 (R118 to R120). -/
def taperedMag (b c : Nat) : Rat :=
  match ((taperedRows b).filter fun r => r.1 ≤ c).getLast? with
  | none => 0
  | some (first, k, w) =>
    let e := (c - first) / 2 ^ w
    pow2 (2 * k + e) * (1 + (((c - first) % 2 ^ w : Nat) : Rat) / ((2 ^ w : Nat) : Rat))

/-- The value of a tapered encoding under TOPINF (R118, R121). -/
def taperedValue (b : Nat) (topinf : Bool) (x : Nat) : Value :=
  let neg := decide (x / 2 ^ b % 2 = 1)
  let c := x % 2 ^ b
  if c = 0 then (if neg then .nan false else .fin false 0)
  else if c = 2 ^ b - 1 ∧ topinf = true then .inf neg else .fin neg (taperedMag b c)

/-- The largest finite tapered code (R121). -/
def taperedTop (b : Nat) (topinf : Bool) : Nat := if topinf then 2 ^ b - 2 else 2 ^ b - 1

/-! ### Rounding (R115 to R117, R123 to R126) -/

/-- An exact magnitude, by which rationals lie below it and which equals it: a square root is none. -/
structure Cut where
  below : Rat → Prop
  is : Rat → Prop

/-- The cut of a rational number. -/
def Cut.of (x : Rat) : Cut := ⟨fun r => r < x, fun r => r = x⟩

/-- Whether a magnitude between two adjacent codes, the lower of which is `lo`, goes to the higher (R116): to the nearer, a tie to the
even code; towards zero; down; up. -/
def GoesUp (rm : Round) (neg : Bool) (x : Cut) (middle : Rat) (lo : Nat) : Prop :=
  match rm with
  | .rne => x.below middle ∨ (x.is middle ∧ lo % 2 = 1)
  | .rtz => False
  | .rdn => neg = true
  | .rup => neg = false

/-- The code that a magnitude rounds to, among codes 0 to `top` whose magnitudes rise: its own, the last below it, or one of its two
neighbours. -/
def Chosen (mag : Nat → Rat) (top : Nat) (rm : Round) (neg : Bool) (x : Cut) (c : Nat) : Prop :=
  (c ≤ top ∧ x.is (mag c)) ∨ (c = top ∧ x.below (mag top)) ∨
    ∃ lo < top, x.below (mag lo) ∧ ¬ x.below (mag (lo + 1)) ∧ ¬ x.is (mag (lo + 1)) ∧
      let up := GoesUp rm neg x ((mag lo + mag (lo + 1)) / 2) lo
      (up → c = lo + 1) ∧ (¬ up → c = lo)

/-- An overflow under a rounding mode gives infinity (R116). -/
def toInfinity (rm : Round) (neg : Bool) : Bool := match rm with | .rne => true | .rtz => false | .rdn => neg | .rup => !neg

/-- A non-zero magnitude rounded once into an IEEE format; under `sat` an overflow gives the largest finite value (R115 to R117, R125). -/
def IeeeRounds (f : Ieee) (rm : Round) (sat neg : Bool) (x : Cut) (bits : Nat) (flags : Flags) : Prop :=
  ∃ c, Chosen (ieeeMag f) f.infBits rm neg x c ∧
    (c = f.infBits → bits = f.signed neg (if !sat && toInfinity rm neg then f.infBits else f.infBits - 1) ∧ flags = { of := true, nx := true }) ∧
    (c ≠ f.infBits → bits = f.signed neg c ∧ ∃ inexact tiny : Bool, flags = { nx := inexact, uf := inexact && tiny } ∧
      (inexact = true ↔ ¬ x.is (ieeeMag f c)) ∧ (tiny = true ↔ ¬ x.below (ieeeMag f (2 ^ f.fbits)) ∧ ¬ x.is (ieeeMag f (2 ^ f.fbits))))

/-- A value delivered in an IEEE format, `nv` saying that its operation was invalid (R115 to R117, R125). -/
def IeeeGives (f : Ieee) (rm : Round) (sat : Bool) (v : Value × Bool) (bits : Nat) (flags : Flags) : Prop :=
  match v.1 with
  | .nan s => bits = f.nanBits ∧ flags = { nv := s || v.2 }
  | .inf neg => if sat then bits = f.signed neg (f.infBits - 1) ∧ flags = { of := true, nx := true }
    else bits = f.signed neg f.infBits ∧ flags = {}
  | .fin neg m => if m = 0 then bits = f.signed neg 0 ∧ flags = {} else IeeeRounds f rm sat neg (.of m) bits flags

/-- A value delivered in a tapered format (R123, R124, R126). -/
def TaperedGives (b : Nat) (rm : Round) (topinf sat : Bool) (v : Value) (bits : Nat) (flags : Flags) : Prop :=
  let sign (neg : Bool) (c : Nat) : Nat := if neg then 2 ^ b + c else c
  let overflows (neg : Bool) : Prop :=
    bits = (if sat then sign neg (taperedTop b topinf) else if topinf then sign neg (2 ^ b - 1) else 2 ^ b) ∧
      flags = { of := true, nx := true }
  match v with
  | .nan s => bits = 2 ^ b ∧ flags = { nv := s }
  | .inf neg => if topinf && !sat then bits = sign neg (2 ^ b - 1) ∧ flags = {} else overflows neg
  | .fin neg m =>
    if m = 0 then bits = 0 ∧ flags = {}
    else if taperedMag b (taperedTop b topinf) < m then overflows neg
    else ∃ c, Chosen (taperedMag b) (taperedTop b topinf) rm neg (.of m) c ∧ bits = (if c = 0 then 0 else sign neg c) ∧
      flags = { nx := decide (taperedMag b c ≠ m), uf := decide (m < taperedMag b 1) }

/-- A value that is no integer's delivered in an integer format of `w` bits (R125). -/
def IntGives (w : Nat) (isSigned : Bool) (rm : Round) (sat : Bool) (v : Value) (bits : Nat) (flags : Flags) : Prop :=
  let least : Int := if isSigned then -(2 ^ (w - 1) : Nat) else 0
  let most : Int := if isSigned then (2 ^ (w - 1) : Nat) - 1 else (2 ^ w : Nat) - 1
  let low (i : Int) : Nat := (i % (2 ^ w : Nat)).toNat
  let bad : Nat := if isSigned then 2 ^ (w - 1) else 2 ^ w - 1
  let outside (neg : Bool) : Prop := bits = (if sat then low (if neg then least else most) else bad) ∧ flags = { nv := true }
  match v with
  | .nan _ => bits = (if sat then 0 else bad) ∧ flags = { nv := true }
  | .inf neg => outside neg
  | .fin neg m => ∃ n top : Nat, m ≤ (top : Rat) ∧ Chosen (fun k => (k : Rat)) top rm neg (.of m) n ∧
      let i : Int := if neg then -(n : Int) else n
      if i < least ∨ most < i then outside neg else bits = low i ∧ flags = { nx := decide ((n : Rat) ≠ m) }

/-! ### Operations (R115, R117, R145 to R148) -/

/-- The exact sum, and whether it is invalid; opposite values give +0, under RDN −0. -/
def Value.add (rm : Round) : Value → Value → Value × Bool
  | .nan s, y => (.nan false, s || y.signals)
  | x, .nan s => (.nan false, s || x.signals)
  | .inf n, .inf k => if n = k then (.inf n, false) else (.nan false, true)
  | .inf n, .fin _ _ => (.inf n, false)
  | .fin _ _, .inf k => (.inf k, false)
  | .fin n a, .fin k b => (.of (if n = k then n else decide (rm = .rdn)) (signedMag n a + signedMag k b), false)

/-- The exact product, and whether it is invalid. -/
def Value.mul : Value → Value → Value × Bool
  | .nan s, y => (.nan false, s || y.signals)
  | x, .nan s => (.nan false, s || x.signals)
  | .inf n, .inf k => (.inf (n != k), false)
  | .inf n, .fin k b => if b = 0 then (.nan false, true) else (.inf (n != k), false)
  | .fin n a, .inf k => if a = 0 then (.nan false, true) else (.inf (n != k), false)
  | .fin n a, .fin k b => (.fin (n != k) (a * b), false)

/-- The exact b × c + a. A NaN operand gives NaN, also beside an invalid product. -/
def Value.fma (rm : Round) (b c a : Value) : Value × Bool :=
  if b.isNaN || c.isNaN || a.isNaN then (.nan false, b.signals || c.signals || a.signals)
  else if (b.mul c).2 then (.nan false, true) else (b.mul c).1.add rm a

/-- The order of values that are no NaN, in which −0 and +0 are equal. -/
def Value.lt : Value → Value → Bool
  | .inf n, .inf k => n && !k
  | .inf n, .fin _ _ => n
  | .fin _ _, .inf k => !k
  | .fin n a, .fin k b => decide (signedMag n a < signedMag k b)
  | _, _ => false

/-- The same with −0 below +0, for `vfmin` and `vfmax` (R146). -/
def Value.before (x y : Value) : Bool :=
  x.lt y || match x, y with | .fin true a, .fin false b => decide (a = 0 ∧ b = 0) | _, _ => false

/-- What the reciprocal gives (R147). -/
def RecipGives (f : Ieee) (rm : Round) (v : Value) (bits : Nat) (flags : Flags) : Prop :=
  match v with
  | .nan s => bits = f.nanBits ∧ flags = { nv := s }
  | .inf n => bits = f.signed n 0 ∧ flags = {}
  | .fin n m => if m = 0 then bits = f.signed n f.infBits ∧ flags = { dz := true } else IeeeRounds f rm false n (.of (1 / m)) bits flags

/-- What the reciprocal square root gives (R147). -/
def RsqrtGives (f : Ieee) (rm : Round) (v : Value) (bits : Nat) (flags : Flags) : Prop :=
  match v with
  | .nan s => bits = f.nanBits ∧ flags = { nv := s }
  | .inf n => if n then bits = f.nanBits ∧ flags = { nv := true } else bits = 0 ∧ flags = {}
  | .fin n m =>
    if m = 0 then bits = f.signed n f.infBits ∧ flags = { dz := true }
    else if n then bits = f.nanBits ∧ flags = { nv := true }
    else IeeeRounds f rm false false ⟨fun r => r < 0 ∨ r * r * m < 1, fun r => 0 ≤ r ∧ r * r * m = 1⟩ bits flags

/-! ### Conversions (R112, R123 to R127) -/

/-- The integer in the low `w` bits of an encoding. -/
def integerOf (w : Nat) (isSigned : Bool) (x : Nat) : Int :=
  let v := x % 2 ^ w
  if isSigned ∧ 2 ^ (w - 1) ≤ v then (v : Int) - (2 ^ w : Nat) else v

/-- The exact value of a source element, multiplied by a power of two (R123, R127). -/
def scaledValue (t : Ty) (topinf : Bool) (scale : Int) (x : Nat) : Value :=
  let v := match intShape t, tyIeee t, taperBits t with
    | some (w, sg), _, _ => Value.of false (integerOf w sg x)
    | _, some f, _ => ieeeValue f x
    | _, _, some b => taperedValue b topinf x
    | _, _, _ => .fin false 0
  match v with
  | .fin n m => .fin n (m * pow2 scale)
  | v => v

/-- What a conversion delivers (R123 to R127). An integer delivered as an integer without a scale keeps its low bits or is clamped. -/
def ConvertsTo (dt st : Ty) (rm : Round) (topinf sat : Bool) (scale : Int) (x bits : Nat) (flags : Flags) : Prop :=
  let v := scaledValue st topinf scale x
  match intShape dt, tyIeee dt, taperBits dt with
  | some (w, sg), _, _ => match intShape st with
    | some (w', sg') => scale = 0 → flags = {} ∧
        let i := integerOf w' sg' x
        let least : Int := if sg then -(2 ^ (w - 1) : Nat) else 0
        let most : Int := if sg then (2 ^ (w - 1) : Nat) - 1 else (2 ^ w : Nat) - 1
        bits = ((if sat then max least (min most i) else i) % (2 ^ w : Nat)).toNat
    | none => IntGives w sg rm sat v bits flags
  | _, some f, _ => match v with
    | .inf n => if (taperBits st).isSome then bits = f.signed n f.infBits ∧ flags = {} else IeeeGives f rm sat (v, false) bits flags
    | _ => IeeeGives f rm sat (v, false) bits flags
  | _, _, some b => TaperedGives b rm topinf sat v bits flags
  | _, _, _ => True

/-! ### Sums of the matrix unit (R129 to R133) -/

/-- The sum of a block of tapered products and whether it is invalid: exact where every product is finite; a NaN, 0 × ∞ or infinities
of both signs make it NaN (R130, R132). -/
def blockValue (ps : List (Value × Value)) : Value × Bool :=
  let ms := ps.map fun p => p.1.mul p.2
  let isInf (neg : Bool) : Bool := ms.any fun m => match m.1 with | .inf n => n == neg | _ => false
  let nv := (ms.any fun m => m.2) || (isInf true && isInf false)
  if nv || ms.any fun m => m.1.isNaN then (.nan false, nv)
  else if isInf true then (.inf true, false)
  else if isInf false then (.inf false, false)
  else (.of false (ms.map fun m => match m.1 with | .fin n a => signedMag n a | _ => 0).sum, false)

/-- One product added to an f32 accumulator with one rounding, and the flags so far (R133). -/
def FmaStep (c : Lane × Flags) (p : Value × Value) (r : Lane × Flags) : Prop :=
  ∃ fl, IeeeGives .f32 .rne false (Value.fma .rne p.1 p.2 (ieeeValue .f32 c.1.toNat)) r.1.toNat fl ∧ r.2 = c.2.or fl

/-- The products added one at a time, in their order (R133). -/
def FmaSteps : Lane × Flags → List (Value × Value) → Lane × Flags → Prop
  | c, [], r => r = c
  | c, p :: ps, r => ∃ m, FmaStep c p m ∧ FmaSteps m ps r

/-- What one block makes of an accumulator (R130 to R133): exact for integers, with OV where the sum leaves s32; one rounding of the whole
block for tapered formats; one rounding a product for the others. -/
def BlockGives (ty : Nat) (topinf : Bool) (c : Lane) (ps : List (Nat × Nat)) (r : Lane) (flags : Flags) : Prop :=
  if ty = 0 then
    let v := c.toInt + (ps.map fun p => integerOf 8 true p.1 * integerOf 8 true p.2).sum
    r = .ofInt 32 v ∧ flags = { ov := decide (v < -2 ^ 31 ∨ 2 ^ 31 ≤ v) }
  else if ty = 11 ∨ ty = 12 then
    let b := if ty = 11 then 7 else 5
    let sum := blockValue (ps.map fun p => (taperedValue b topinf p.1, taperedValue b topinf p.2))
    let v := (ieeeValue .f32 c.toNat).add .rne sum.1
    IeeeGives .f32 .rne false (v.1, v.2 || sum.2) r.toNat flags
  else
    let f := if ty = 9 then Ieee.f16 else if ty = 10 then Ieee.bf16 else Ieee.f32
    FmaSteps (c, {}) (ps.map fun p => (ieeeValue f p.1, ieeeValue f p.2)) (r, flags)

end Sys2Proof.Safety
end

