-- ==== Sys2Proof/Safety/Engine.lean ====
section
/-! DEFINITION. When engine instructions issue, and what an issued operation is to do (R284 to R313, R317, R324, R329). -/

namespace Sys2Proof.Safety

open Sys2Proof.Machine

/-- The tile of the thread in focus. -/
def ownTile (s : State) : Nat := tileOfCore (coreOf s.th.num)

/-- A timeline takes an operation that has its effect (R285, R122, R328): fewer than 16 in flight, no halt, and TOPINF as that of the
operations in flight. -/
def TakesOp (s : State) (tile ctx : Nat) (topinf : Bool) : Prop :=
  (inFlight s tile ctx).length < 16 ∧ (engCtx s tile ctx).halted = false ∧
    (inFlight s tile ctx = [] ∨ (engCtx s tile ctx).topinf = topinf)

/-- So many operand flits more are at most 64 between the tile's core 3 and its matrix unit (R354). -/
def FlitsFit (s : State) (n : Nat) : Prop :=
  ((s.eng.ops.filter fun o => o.tile = ownTile s && !o.caught).map EngOp.flits).sum + n ≤ 64

/-- An operation entered a timeline (R285): it carries the next number, which the timeline counts as issued, behind all others. -/
def Entered (s t : State) (o : EngOp) : Prop :=
  o.num = (engCtx s o.tile o.ctx).issued + 1 ∧ (engCtx t o.tile o.ctx).issued = o.num ∧ t.eng.ops = s.eng.ops ++ [o]

/-- The operation is the thread's own: its tile, its task, its address space, its modes (R285). -/
def OwnOp (s : State) (ctx : Nat) (o : EngOp) : Prop :=
  o.tile = ownTile s ∧ o.ctx = ctx ∧ o.task = s.th.taskid ∧ o.thread = s.th.num ∧ o.asid = s.th.asid ∧ o.rm = s.th.fmode.toNat % 4 ∧
    o.topinf = s.th.fmode.getLsbD 2

/-- The boxes lie inside the tensor's extents (R292). -/
def InExtents (d : Tensor) (bs : List Box) : Prop :=
  ∀ b ∈ bs, ∀ j (h : j < b.length), 0 ≤ b[j].lo ∧ b[j].hi ≤ (d.ext.getD j 1 : Nat)

/-- The images of the boxes at an offset lie aligned inside a partition (R292, R312). -/
def ImagesFit (d : Tensor) (bs : List Box) (o : Nat) (t : Thread) : Prop :=
  ∀ lo hi, offSpan d bs = some (lo, hi) → o % d.size = 0 ∧ 0 ≤ (o : Int) + lo ∧ (o : Int) + hi + d.size ≤ t.spsize.toNat

/-- A region that a transfer takes (R292): of a tensor of the thread that is set and, where the form says so, in global memory; exact where
the form needs it. -/
structure TakesRegion (t : Thread) (q : Region) (d : Tensor) (globalOnly exact : Bool) : Prop where
  named : q.tv = true ∧ lookup q.tid t.tensors = some d ∧ d.rank ≠ 0
  place : globalOnly = true → d.loc = false
  noOvf : q.ovf = false
  noApx : exact = true → q.apx = false
  inside : InExtents d q.boxes

/-- The elements that an operation's granules move. -/
def movedBy (o : EngOp) (e : Elem) : Prop := ∃ es mark, Job.granule es mark ∈ o.jobs ∧ e ∈ es

/-- The state after an operation's issue: it stands behind all others, and only the contexts' counts, the full bits, the pending
writers and, for images, the tensor table differ besides (R285, R293, R313). -/
def withIssue (s : State) (o : EngOp) (ctxs : List (Nat × EngCtx)) (full : List Nat) (pending : List (Nat × Nat))
    (ts : List (Nat × Tensor)) : State :=
  { s with
    eng := { s.eng with ops := s.eng.ops ++ [o], ctxs := ctxs }
    mem := { s.mem with full := full, pending := pending }
    th := { s.th with tensors := ts } }

/-- A transfer between global cells and images at an offset (R293): the engine context, the region register, the offset, whether it
goes in, the contexts whose partitions hold the images, and the length. -/
structure TransferOp where
  ctx : EReg
  reg : QReg
  off : Nat
  inward : Bool
  parts : List Thread
  len : Nat

/-- The slots that a mask of `tw.mc` names: positions of the thread's forwarding row, with the thread index of bits 17:16 (R294). -/
def maskSlots (s : State) (v : Word) : List Nat :=
  ((List.range 16).filter fun p => v.getLsbD p).map fun p => 4 * coreInRow (coreOf s.th.num) p + v.toNat / 65536 % 4

/-- The full bits of exactly the scratch granules that some elements write become clear (R313). -/
def ClearsGranules (old new : List Nat) (written : Elem → Prop) : Prop :=
  ∀ g, g ∈ new ↔ g ∈ old ∧ ¬ ∃ e, written e ∧ ∃ key, e.dst = .scr key ∧ g = granuleOf key

/-- The same for the elements of an operation. -/
def ClearsWritten (old new : List Nat) (o : EngOp) : Prop := ClearsGranules old new (movedBy o)

/-- The lengths that an operation finds in its tables' entries as it issues, and whether a protection refused one of them (R170). -/
def LengthsRead (o : EngOp) (table ns : List Nat) (refused : Bool) (s s1 : State) : Prop :=
  (table = [] ∧ ns = [] ∧ refused = false ∧ s1 = s) ∨
    (table ≠ [] ∧ ∃ ds, gatherSources o (table.map fun va => (.glob va, 4)) s = .ok (.data ds, s1) ∧
      ns = ds.map (fun d => natOfBytes d.bytes) ∧ refused = ds.any fun d => d.refused)

/-- The entries cannot be read as the operation issues: another device has them and has been asked, or they cannot be reached now. What
the operation has to read then is `srcs`. -/
def LengthsLater (o : EngOp) (table : List Nat) (srcs : List Loc) (s s1 : State) : Prop :=
  table ≠ [] ∧ (gatherSources o (table.map fun va => (.glob va, 4)) s = .ok (.asked srcs, s1) ∨
    ((∃ e, gatherSources o (table.map fun va => (.glob va, 4)) s = .error e) ∧ s1 = s ∧ srcs = table.map Loc.glob))

/-- Whether a cell counts: of a ragged region where the length of its first coordinate, one of `cs`, is above its last (R170). -/
def countsCell (isRagged : Bool) (cs : List Int) (ns : List Nat) (c : List Int) : Bool :=
  !isRagged || (cs.contains (c.headD 0) && decide (c.getLastD 0 < ((ns.getD (cs.findIdx (· = c.headD 0)) 0 : Nat) : Int)))

/-- The cells of a region that count, in order. -/
def cellsCounted (q : Region) (cs : List Int) (ns : List Nat) : List (List Int) :=
  (cellsInOrder q.rank q.cells).filter (countsCell q.rag cs ns)

/-- The transfers of one thread; `tw.mc` where its mask is well formed and every slot has a context (R292 to R294). -/
def transferOf (s : State) : Instr → Option TransferOp
  | .twIn e b c => some ⟨e, b, (s.getD c).toNat, true, [s.th], 4⟩
  | .twOut e b c => some ⟨e, b, (s.getD c).toNat, false, [s.th], 4⟩
  | .twInX e b c i => some ⟨e, b, (((s.getD c).toNat + i.toInt) % 2 ^ 64).toNat, true, [s.th], 12⟩
  | .twOutX e b c i => some ⟨e, b, (((s.getD c).toNat + i.toInt) % 2 ^ 64).toNat, false, [s.th], 12⟩
  | .twMc e b c d i =>
    if (s.getD d).toNat < 2 ^ 18 ∧ (s.getD d).toNat % 65536 ≠ 0 then
      ((maskSlots s (s.getD d)).mapM fun n => s.thread? n).map fun ts =>
        ⟨e, b, (((s.getD c).toNat + i.toInt) % 2 ^ 64).toNat, true, ts, 12⟩
    else none
  | _ => none

/-- The element that moves a cell between its global address and its image in a partition (R292). -/
def cellElem (d : Tensor) (o : Nat) (t : Thread) (inward : Bool) (c : List Int) : Elem :=
  let g := Loc.glob (d.addr c)
  let p := Loc.scr (scratchKey t ((o : Int) + d.off c).toNat)
  if inward then ⟨g, d.size, p, d.size⟩ else ⟨p, d.size, g, d.size⟩

/-- Whether the hulls of two lists of places with elements of `n` and `m` bytes meet (R296). -/
def Meets (xs ys : List Nat) (n m : Nat) : Prop :=
  (∃ x ∈ xs, ∃ y ∈ ys, x < y + m) ∧ ∃ x ∈ xs, ∃ y ∈ ys, y < x + n

/-- The place of a cell for the converter: in the thread's partition, or a global address (R305). -/
def placeOf (t : Thread) (d : Tensor) (c : List Int) : Loc :=
  if d.loc then .scr (scratchKey t ((d.base : Int) + d.off c).toNat) else .glob (d.addr c)

/-- What an action of an operation makes of the bytes of one element: the bytes themselves, or their conversion with the scales of the two
tensors (R292, R306). -/
def ElementGives (o : EngOp) (e : Elem) (bs : List Byte) (r : List Byte × Flags) : Prop :=
  match o.conv with
  | none => r = (bs, {})
  | some c =>
    if c.copy then r = (bs, {})
    else ∃ bits, r.1 = bytesOf e.dsize bits ∧
      ConvertsTo (tyOfCode c.dt) (tyOfCode c.st) (roundOf (.ofNat 64 o.rm)) o.topinf c.sat (c.sscale - c.dscale) (natOfBytes bs) bits r.2

/-- An action of an operation can be made now: the operation runs, none of its operands is on its way, and no earlier operation of its
context is in the way; with streaming windows only the first action is made (R286, R295, R343). -/
structure CanAct (s : State) (o : EngOp) (j : Nat) (job : Job) : Prop where
  present : o.jobs[j]? = some job
  runs : o.halt = none ∧ (o.status = none ∨ o.status = some 3) ∧ o.flits = 0 ∧ o.results = []
  order : inOrder s o job = true
  first : usesWindows o s = true → j = 0

/-- The state after an element has been written into scratch, with its poison (R245). -/
def putElement (u : State) (key : Nat) (bs : List Byte) (poison : Bool) : State :=
  let u := scratchPut key bs u
  if poison then u.onMem fun m => { m with poison := insertKey (scratchPoison key) m.poison } else u

/-- The least corner of boxes (R301). -/
def LeastCorner (bs : List Box) (m : List Int) : Prop :=
  ∀ j (h : j < m.length), (∀ b ∈ bs, ∀ k : j < b.length, m[j] ≤ b[j].lo) ∧ (bs ≠ [] → ∃ b ∈ bs, ∃ k : j < b.length, m[j] = b[j].lo)

/-- The element of one cell in one step of a walk: its place relative to the slot, and the cell moved by so many steps (R301). -/
def walkElem (d : Tensor) (m step : List Int) (writesBack : Bool) (n : Nat) (c : List Int) : Elem :=
  let p := Loc.scr (d.off ((c.zip m).map fun x => x.1 - x.2)).toNat
  let g := Loc.glob (d.addr ((c.zip step).map fun x => x.1 + n * x.2))
  if writesBack then ⟨p, d.size, g, d.size⟩ else ⟨g, d.size, p, d.size⟩

/-- A collective operation (R307): 0 to the root, 1 to every member, 2 from the root; its type and length. -/
def collectiveOf : Instr → Option (Nat × EReg × DReg × DReg × Ty × Nat)
  | .collRed e b c => some (0, e, b, c, .f32, 4)
  | .collAr e b c => some (1, e, b, c, .f32, 4)
  | .collRedX e b c t => some (0, e, b, c, t, 12)
  | .collArX e b c t => some (1, e, b, c, t, 12)
  | .collBc e b c t => some (2, e, b, c, t, 12)
  | _ => none

/-- The fields of a collective's record (R307): source, destination, group, reduction and root. -/
def recordField (bs : List Byte) (o n : Nat) : Nat := natOfBytes ((bs.drop o).take n)

/-- The posted commands (R310, R334): the engine, the capability register, the record's register, the target word and the record's
size; a matrix command needs core 3. -/
noncomputable def commandOf (s : State) : Instr → Option (Nat × DReg × DReg × Word × Nat)
  | .wcmd a b c => some (0, a, b, s.getD c, 832)
  | .ccmd a b => some (1, a, b, 0, 832)
  | .mcmd a b c => some (2, a, b, s.getD c, 64)
  | _ => none

/-- A product (R324): whether it is sparse, the tile register, which operands are vectors, the operand registers, the type (none for
the integer forms), the place of the sparse metadata and the stream. -/
structure Product where
  sparse : Bool
  z : ZReg
  va : Bool
  vb : Bool
  b : BitVec 5
  c : BitVec 5
  d2 : BitVec 5
  d3 : BitVec 5
  ty : Nat
  meta' : Nat
  stream : Nat

@[inherit_doc Product] noncomputable def productOf : Instr → Option Product
  | .mma z va vb b c d2 d3 t st => some ⟨false, z, va, vb, b, c, d2, d3, (tyCode t).toNat, 0, st.toNat⟩
  | .mmi z va vb b c d2 d3 st => some ⟨false, z, va, vb, b, c, d2, d3, 0, 0, st.toNat⟩
  | .mmaSp z va vb b c d2 d3 t md st => some ⟨true, z, va, vb, b, c, d2, d3, (tyCode t).toNat, md.toNat, st.toNat⟩
  | .mmiSp z va vb b c d2 d3 md st => some ⟨true, z, va, vb, b, c, d2, d3, 0, md.toNat, st.toNat⟩
  | _ => none

/-- Logical k, and the A values of a row (R320). -/
def productDepth (ty : Nat) (sparse : Bool) : Nat × Nat :=
  if sparse then (32, 16) else if ty = 12 then (24, 24) else if ty = 9 ∨ ty = 10 then (4, 4) else if ty = 8 then (1, 1) else (16, 16)

/-- RowStart of a scratch operand given by two register values (R321, R322). -/
def rowStart (x y : Word) (r : Nat) : Nat :=
  let rp := x.toNat / 2 ^ 32 % 2 ^ 16
  let tp := y.toNat % 2 ^ 32
  x.toNat % 2 ^ 32 + r / 8 * (if tp = 0 then 8 * rp else tp) + r % 8 * rp + 16 * (y.toNat / 2 ^ 32 % 8 * r % 8)

/-- An operand of a product, its registers' values, or the number of its first vector register. -/
structure ProductSide where
  isVector : Bool
  group : Nat
  x : Word
  y : Word

/-- The vector registers that hold `n` bytes of a side; none for a scratch operand (R323). -/
def ProductSide.regs (p : ProductSide) (n : Nat) : List VReg :=
  if p.isVector then (List.range ((n + 127) / 128)).map fun m => BitVec.ofNat 5 (p.group + m) else []

/-- A scratch operand of so many rows of `n` bytes is well formed, aligned to its elements, inside the partition and not poisoned
(R321, R322). -/
def ProductSide.Ready (p : ProductSide) (s : State) (size rows n : Nat) : Prop :=
  p.isVector = true ∨
    (p.x.toNat / 2 ^ 48 = 0 ∧ p.y.toNat / 2 ^ 35 = 0 ∧ p.x.toNat % 2 ^ 32 % size = 0 ∧ p.x.toNat / 2 ^ 32 % 2 ^ 16 % size = 0 ∧
      p.y.toNat % 2 ^ 32 % size = 0 ∧
      ∀ r < rows, rowStart p.x p.y r + n ≤ s.th.spsize.toNat ∧ scratchPoisoned s (scratchKey s.th (rowStart p.x p.y r)) n = false)

/-- The raw value at a row and a column of a side; `pitch` is the distance of its rows in a vector group (R320 to R323). -/
def ProductSide.value (p : ProductSide) (s : State) (size pitch r c : Nat) : Nat :=
  if p.isVector then
    let o := r * pitch + c * size
    natOfBytes (((bytesOfLanes (readVec s (BitVec.ofNat 5 (p.group + o / 128)))).drop (o % 128)).take size)
  else scratchNat s (scratchKey s.th (rowStart p.x p.y r + c * size)) size

/-- The two sides of a product (R324). -/
def Product.sideA (p : Product) (s : State) : ProductSide := ⟨p.va, p.b.toNat, s.getD p.b, s.getD p.c⟩
@[inherit_doc Product.sideA] def Product.sideB (p : Product) (s : State) : ProductSide := ⟨p.vb, p.d2.toNat, s.getD p.d2, s.getD p.d3⟩

/-- Sparse metadata of a row keep their form: in each pair of two-bit fields the first is below the second (R326). -/
def Ascending (m : Nat) : Prop := ∀ g < 8, m / 2 ^ (4 * g) % 4 < m / 2 ^ (4 * g + 2) % 4

/-- The configurations of R315: whether the contents stay, the tile register, the register of the shape, the length. -/
noncomputable def configOf : Instr → Option (Bool × ZReg × DReg × Nat)
  | .zcfg z b => some (false, z, b, 4)
  | .zcfgKeep z b => some (true, z, b, 4)
  | .zcfgX z b => some (false, z, b, 12)
  | .zcfgKeepX z b => some (true, z, b, 12)
  | _ => none

/-- A shape value (R315): rows in bits 5:0, columns in bits 13:8, type 2 or 8 in bits 19:16, every other bit 0. -/
def shapeOk (v : Nat) : Prop :=
  1 ≤ v % 64 ∧ v % 64 ≤ 32 ∧ 1 ≤ v / 256 % 64 ∧ v / 256 % 64 ≤ 32 ∧ (v / 65536 % 16 = 2 ∨ v / 65536 % 16 = 8) ∧
    v / 64 % 4 = 0 ∧ v / 16384 % 4 = 0 ∧ v / 1048576 = 0

/-- The stream operations on tile registers (R329): 0 zero, 1 load, 2 store; the register, W, the scratch offset, the stream, the
length. -/
noncomputable def tileMoveOf (s : State) : Instr → Option (Nat × ZReg × WClass × Nat × Nat × Nat)
  | .zzero z st => some (0, z, .none, 0, st.toNat, 4)
  | .zzeroX z st => some (0, z, .none, 0, st.toNat, 12)
  | .zld w z b st => some (1, z, w, (s.getD b).toNat, st.toNat, 4)
  | .zst w z b st => some (2, z, w, (s.getD b).toNat, st.toNat, 4)
  | .zldX w z b i st => some (1, z, w, (((s.getD b).toNat + i.toInt) % 2 ^ 64).toNat, st.toNat, 12)
  | .zstX w z b i st => some (2, z, w, (((s.getD b).toNat + i.toInt) % 2 ^ 64).toNat, st.toNat, 12)
  | _ => none

/-- No operation in flight of the thread names a tile register (R315, R316). -/
def TileFree (s : State) (z : ZReg) : Prop :=
  ∀ o ∈ s.eng.ops, o.thread = s.th.num → o.home = s.th.taskid → ∀ k zz r c, o.kind = .stream k zz r c → zz ≠ z.toNat

/-- Every operation of a context numbered up to `n` has been issued and has completed (R288). -/
def Covered (s : State) (ctx n : Nat) : Prop :=
  n ≤ (engCtx s (ownTile s) ctx).issued ∧ ∀ o ∈ s.eng.ops, o.tile = ownTile s → o.ctx = ctx → n < o.num

/-- Whether a wait for `n` reports the timeline's first failed operation: it lies above what the thread has covered (R288). -/
def Reports (s : State) (ctx n : Nat) : Prop :=
  let c := engCtx s (ownTile s) ctx
  c.abn ≠ 0 ∧ c.abn ≤ n ∧ (s.th.covered[ctx]?).getD 0 < c.abn

end Sys2Proof.Safety
end

