-- ==== Sys2Proof/Safety/Events.lean ====
section
/-! DEFINITION. The events of the device as tables that the statements use: the registers of the Welt space that read back, the packets
in sequence, the messages of an attestation (R399, R412, R418), and the words of the scalar file (R20). -/

namespace Sys2Proof.Safety

open Sys2Proof.Machine

/-! ### The Welt registers (R412) -/

/-- The registers of the Welt space that hold what is written to them, with the bits that they hold: SCOPEBASE, HOTBASE, POOLBASE,
POOLPAGES, the queue roots, the address-space roots, and of a die block TVEC, FRBASE, FRSLOTS, FRHEAD, SUPER and LWBASE. -/
def weltMask (off : Nat) : Option Word :=
  let r := off % 2 ^ 20
  if off % 8 ≠ 0 then none
  else if off = 0x18 then some (.ofNat 64 (2 ^ 64 - 2 ^ 21))
  else if off = 0x20 then some (.ofNat 64 (2 ^ 52 - 2 ^ 27 + 1))
  else if off = 0x28 ∨ off = 0x30 then some (.ofNat 64 (2 ^ 64 - 1))
  else if 0x80 ≤ off ∧ off < 0x100 then some (.ofNat 64 (2 ^ 16 - 1))
  else if 2 ^ 24 ≤ off ∧ off < 2 ^ 24 + 2 ^ 19 then some (.ofNat 64 (2 ^ 52 - 2 ^ 11 + 1))
  else if 2 ^ 25 ≤ off ∧ off < 2 ^ 25 + 2 ^ 23 then
    if r = 0x08 then some (.ofNat 64 (2 ^ 64 - 2 ^ 14))
    else if r = 0x10 then some (.ofNat 64 (2 ^ 64 - 2 ^ 6))
    else if r = 0x18 ∨ r = 0x20 ∨ r = 0x40 then some (.ofNat 64 (2 ^ 64 - 1))
    else if r = 0x30 then some (.ofNat 64 (2 ^ 24 - 2 ^ 16 + 2 ^ 14 - 1))
    else none
  else none

/-! ### The fabric (R399) -/

/-- The packets that travel in sequence, with the code of their operation. -/
def sequencedOf : Instr → Option (Nat × FabPacket)
  | .pktLoad p => some (0x10, p)
  | .pktLoadr p => some (0x11, p)
  | .pktStore p => some (0x12, p)
  | .pktStorea p => some (0x13, p)
  | .pktAtomic p => some (0x14, p)
  | .pktAtomicr p => some (0x15, p)
  | .pktRsv p => some (0x16, p)
  | .pktCmt p => some (0x17, p)
  | .pktCmtr p => some (0x18, p)
  | .pktColl p => some (0x20, p)
  | .pktDrain p => some (0x30, p)
  | .pktDraina p => some (0x31, p)
  | _ => none

/-- A packet is for this device, and its sender's connection is up and of its version. -/
def Expected (s : State) (p : FabPacket) (c : FabConn) : Prop :=
  p.dst = s.fab.device ∧ lookup p.src s.fab.conns = some c ∧ c.up = true ∧ c.ver = p.ver

/-- A packet that is not expected is dropped and counted. -/
def droppedAt (s : State) : State := { s with fab := { s.fab with dropped := s.fab.dropped + 1 } }

/-- The state once a packet's header has been taken: its bytes counted, and the packets that it acknowledges let go. -/
def taken (s : State) (p : FabPacket) : State := takeAck p (countPacket true p.payload.length s)

/-! ### Attestation (R418) -/

/-- The messages of an attestation: the request code, what follows it in the transcript, the stage it needs, the stage it reaches, and
the answer for the transcript with it. -/
def messageOf (m : Mgmt) : Instr → Option (Nat × List Byte × Nat × Nat × (List Byte → List Byte))
  | .spdmGetVersion => some (0x84, [], 0, 1, fun _ => [0x12])
  | .spdmGetCapabilities => some (0xE1, [], 1, 2, fun _ => [0x12])
  | .spdmNegotiateAlgorithms => some (0xE3, [], 2, 3, fun _ => [0x12])
  | .spdmGetDigests => some (0x81, [], 3, 3, fun _ => Config.sha384 Config.certificates)
  | .spdmGetCertificate => some (0x82, [], 3, 3, fun _ => Config.certificates)
  | .spdmChallenge n => some (0x83, n, 3, 4, fun t => sign 0 t)
  | .spdmGetMeasurements k n => some (0xE0, bytesOf 1 k ++ n, 3, 4, fun t =>
      (if k = 0xFF then [1, 2, 3, 4, 0xFD] else if k = 0xFD then [0xFD] else [k, 0xFD]).flatMap (fun x => block x t) ++ sign 0 t)
  | _ => none
where
  sign (scheme : Nat) (t : List Byte) : List Byte :=
    (m.keys.map fun k => Config.signature scheme (if scheme = 0 then k.1 else k.2) (Config.sha384 t)).getD []
  block (k : Nat) (t : List Byte) : List Byte :=
    match k with
    | 1 => Config.sha384 Config.rom.toList
    | 2 => Config.sha384 m.recBody
    | 3 => Config.sha384 m.loaderBody
    | 4 => Config.sha384 m.lasterBody
    | 0xFD => sign 1 t
    | _ => []

/-- The commands of a debug session. -/
def IsDebugCommand : Instr → Prop
  | .dbgClose | .dbgReadctx _ _ _ | .dbgWritectx _ _ _ | .dbgResume _ | .dbgStep _ | .dbgReadmem _ _ _ | .dbgWritemem _ _ _ => True
  | _ => False

/-- The machine as a command of an open session finds it: its time runs anew, and nothing is answered yet. -/
def inCommand (s : State) : State := { s with mgmt := { s.mgmt with idle := s.time, response := [] } }

/-- The same with an access to memory begun (R422). -/
def inAccess (d : DebugAccess) (s : State) : State :=
  let v := inCommand s
  { v with mgmt := { v.mgmt with accesses := v.mgmt.accesses ++ [d] } }

/-! ### The scalar file (R20) -/

/-- Word `j` of the level-0 bank. -/
def bankWordOf (t : Thread) (j : Nat) : Word := (t.d[16 + j]?).getD 0
/-- Word `j` of frame F`k`. -/
def frameWordOf (t : Thread) (k j : Nat) : Word := (t.d[24 + 8 * k + j]?).getD 0

/-! ### Steps -/

/-- Slot `num` is the next of a core to issue under a schedule that names the core, leads no phrase and has not given its
turn up: `f` is the machine with its
context in focus. -/
def IssuesNext (s : State) (num : Nat) (f : State) : Prop :=
  ∃ core rest slots, s.schedule = .issue core :: rest ∧ issuers { s with schedule := rest } core = num :: slots ∧
    f = State.focus { s with schedule := rest } num ∧ f.th.phrase = .none ∧ f.th.yields = false

/-- Nothing comes before the instruction at the PC of the context in focus: it does not wait to halt, stands at no vector of the Laster
and takes no interrupt. -/
def AtItsInstruction (f : State) : Prop := isHalting f = false ∧ vectorAt f = none ∧ takesInterrupt f = false

/-- Physical memory is in its canonical form: addresses rise strictly, and no entry equals what an unlisted address reads as. -/
def MemoryIsCanonical (s : State) : Prop := Memory.wf s.mem.dram = true

end Sys2Proof.Safety
end

