-- ==== Sys2Proof/Safety/Region.lean ====
section
/-! DEFINITION. The region instructions as a table of checks and effects, and the cells that a region stands for (R159 to R187). -/

namespace Sys2Proof.Safety

open Sys2Proof.Machine

/-- Whether a cell lies in a box (R159): in every dimension at or above `lo`, below `hi`, and a whole number of strides from `lo`. -/
def inBox (x : List Int) (b : Box) : Prop :=
  x.length = b.length ∧ ∀ j (h : j < b.length) (k : j < x.length),
    b[j].lo ≤ x[j] ∧ x[j] < b[j].hi ∧ (x[j] - b[j].lo) % (2 ^ b[j].sc : Nat) = 0

/-- Whether a cell is one of a region's. -/
def inRegion (c : List Int) (q : Region) : Prop := ∃ b ∈ q.boxes, inBox c b

/-- A region whose boxes have as many dimensions as its RANK says (R160). -/
def Shaped (q : Region) : Prop := ∀ b ∈ q.boxes, b.length = q.rank

/-- One region instruction: its checks in their order, each with the trap class and subcode where it fails, and the state after it. -/
structure RegionOp where
  checks : List (Bool × Nat × Nat)
  after : State

/-- What the instruction does: the trap of the first check that fails, else its effect. -/
def RegionOp.next (o : RegionOp) (s : State) : State :=
  match o.checks.find? fun c => !c.1 with
  | some (_, cls, sub) => takeTrap cls sub 0 s
  | none => o.after

/-- Trap classes of the checks: REGION_FORM, REGION_OVF and REGION_APX on a register, ILL VALUE (R35, R169). -/
def formCheck (ok : Bool) (q : QReg) : Bool × Nat × Nat := (ok, 11, q.toNat)
@[inherit_doc formCheck] def ovfCheck (s : State) (q : QReg) : Bool × Nat × Nat := (!(s.getQ q).ovf, 9, q.toNat)
@[inherit_doc formCheck] def apxCheck (s : State) (q : QReg) : Bool × Nat × Nat := (!(s.getQ q).apx, 10, q.toNat)
@[inherit_doc formCheck] def valueCheck (ok : Bool) : Bool × Nat × Nat := (ok, 1, 9)

/-- The rank of a tensor-table entry, 0 for an empty one (R289). -/
def tensorRank (s : State) (t : Nat) : Nat := ((lookup t s.th.tensors).map fun d => d.rank).getD 0

/-- The extents of the tensor that a region names (R172). -/
def extentsOf (s : State) (x : Region) : List Int :=
  (List.range x.rank).map fun j => (((lookup x.tid s.th.tensors).map fun d => d.ext.getD j 1).getD 1 : Nat)

/-- Whether a region names a tensor that is set (R172). -/
def hasTensor (s : State) (x : Region) : Bool := x.tv && tensorRank s x.tid ≠ 0

/-- The number of dimensions in a projection's mask. -/
def maskSize (mask : BitVec 4) : Nat := ((List.range 4).filter fun j => mask.getLsbD j).length

/-- Whether a projection's source is one it may drop the masked dimensions of (R180). -/
def projects (mask : BitVec 4) (x : Region) : Bool :=
  !x.rag && (List.range 4).all (fun j => !mask.getLsbD j || j < x.rank) && (mask = 0 || maskSize mask < x.rank)

/-- The part number and the part count of a split (R181). -/
def splitParts (v : Word) : Nat × Nat := (v.toNat / 65536, v.toNat % 65536)

/-- Whether the fields of a translation beyond the region's dimensions are zero (R178). -/
def noFieldBeyond (v : Word) (x : Region) : Bool := (List.range 4).all fun j => j < x.rank || v.toNat / 2 ^ (16 * j) % 65536 = 0

/-- Whether a field selector is well formed: box 0 to 7, dimension 0 to 3, item 0 to 2, every other bit 0 (R185). -/
def selectorOk (v : Word) : Bool :=
  decide (v.toNat / 65536 < 3 ∧ v.toNat % 16 ≤ 7 ∧ v.toNat / 16 % 16 = 0 ∧ v.toNat / 1024 % 64 = 0)

/-- The selected field (R185): lo, hi or the stride code of a dimension of a box, as the save slot holds it. -/
def selectedField (v : Word) (q : Region) : Word :=
  let d := q.slotDim (v.toNat % 16) (v.toNat / 256 % 4)
  .ofInt 64 (match v.toNat / 65536 with | 0 => d.lo | 1 => d.hi | _ => d.sc)

/-- A set operation, dilation, projection, split or translation (R175 to R181, R423). -/
def regionOpOf (s : State) : Instr → Option RegionOp
  | .runi o a b c => some (two a b c (regionUnion o))
  | .rhull o a b c => some (two a b c (regionHull o))
  | .rint o a b c =>
    let x := s.getQ b
    let y := s.getQ c
    some ⟨[formCheck (compatible x y && (!x.rag || y.isPlainBox) && (!y.rag || x.isPlainBox)) c, ovfCheck s b, ovfCheck s c],
      (s.setQ a (regionInter o x y)).advance 4⟩
  | .rsub o a b c =>
    let x := s.getQ b
    let y := s.getQ c
    some ⟨[formCheck (!x.rag) b, formCheck (!y.rag && compatible x y) c, ovfCheck s b, ovfCheck s c, apxCheck s c],
      (s.setQ a (regionDiff o x y)).advance 4⟩
  | .rmove a b => some ⟨[], (s.setQ a (s.getQ b)).advance 4⟩
  | .rclip o a b =>
    let x := s.getQ b
    some ⟨[formCheck (!x.rag && hasTensor s x) b, ovfCheck s b], (s.setQ a (regionClip o (extentsOf s x) x)).advance 4⟩
  | .rdil o a b c => some (dil 4 o a b c)
  | .rdilX o a b c => some (dil 12 o a b c)
  | .rproj o a b mask =>
    let x := s.getQ b
    some ⟨[formCheck (projects mask x) b, ovfCheck s b],
      (s.setQ a (if x.isBlank then {} else regionProject o mask.toNat none x)).advance 4⟩
  | .rprojX o a b mask t =>
    let x := s.getQ b
    let rank := tensorRank s t.toNat
    some ⟨[formCheck (projects mask x) b, formCheck (rank ≠ 0 && (x.isBlank || rank = x.rank - maskSize mask)) a, ovfCheck s b],
      (s.setQ a (if x.isBlank then { tid := t.toNat, tv := true, rank := rank }
        else regionProject o mask.toNat (some t.toNat) x)).advance 12⟩
  | .rsplit o a b c => some (split 4 o a b c)
  | .rsplitX o a b c => some (split 12 o a b c)
  | .rstr a b c => some (translated 4 a b c)
  | .rstrX a b c => some (translated 12 a b c)
  | .rrag a b => some (ragged 4 a b)
  | .rragX a b => some (ragged 12 a b)
  | .rtid a t =>
    let x := s.getQ a
    let rank := tensorRank s t.toNat
    some ⟨[formCheck (rank ≠ 0 && !x.rag && (x.isBlank || x.rank = rank)) a, ovfCheck s a],
      (s.setQ a { x with tv := true, tid := t.toNat, rank := rank }).advance 12⟩
  | .rnbox a b => some ⟨[], (s.setD a (s.getQ b).header).advance 4⟩
  | .rnboxX a b => some ⟨[], (s.setD a (s.getQ b).header).advance 12⟩
  | .rgetb a b c => some ⟨[valueCheck (selectorOk (s.getD c))], (s.setD a (selectedField (s.getD c) (s.getQ b))).advance 4⟩
  | .rgetbX a b c => some ⟨[valueCheck (selectorOk (s.getD c))], (s.setD a (selectedField (s.getD c) (s.getQ b))).advance 12⟩
  | .rcells a b => some (counted 4 a b)
  | .rcellsX a b => some (counted 12 a b)
  | .rtest a b c => some (tested 4 a b c)
  | .rtestX a b c => some (tested 12 a b c)
  | _ => none
where
  two (a b c : QReg) (f : Region → Region → Region) : RegionOp :=
    let x := s.getQ b
    let y := s.getQ c
    ⟨[formCheck (!x.rag) b, formCheck (!y.rag && compatible x y) c, ovfCheck s b, ovfCheck s c], (s.setQ a (f x y)).advance 4⟩
  dil (len : Nat) (o : Bool) (a b : QReg) (c : DReg) : RegionOp :=
    let x := s.getQ b
    ⟨[formCheck (!x.rag && hasTensor s x) b, ovfCheck s b],
      (s.setQ a (regionDilate o (extentsOf s x)
        ((List.range 4).map fun j => (s.getD c).toNat / 2 ^ (16 * j) % 65536) x)).advance len⟩
  split (len : Nat) (o : Bool) (a b : QReg) (c : DReg) : RegionOp :=
    let x := s.getQ b
    let p := splitParts (s.getD c)
    ⟨[valueCheck (p.1 < p.2), formCheck (!x.rag) b, ovfCheck s b], (s.setQ a (regionSplit o p.1 p.2 x)).advance len⟩
  translated (len : Nat) (a b : QReg) (c : DReg) : RegionOp :=
    let x := s.getQ b
    ⟨[valueCheck (noFieldBeyond (s.getD c) x), formCheck (!x.rag) b, ovfCheck s b],
      (s.setQ a (regionTranslate (s16Fields (s.getD c)) x)).advance len⟩
  ragged (len : Nat) (a b : QReg) : RegionOp :=
    let x := s.getQ b
    ⟨[formCheck (x.tv && 2 ≤ x.rank) b, ovfCheck s b], (s.setQ a { x with rag := true }).advance len⟩
  counted (len : Nat) (a : DReg) (b : QReg) : RegionOp :=
    let x := s.getQ b
    ⟨[formCheck (!x.rag) b, ovfCheck s b], (s.setD a (.ofNat 64 (min (countCells x.rank x.cells) (2 ^ 64 - 1)))).advance len⟩
  tested (len : Nat) (a : PReg) (b : QReg) (c : DReg) : RegionOp :=
    let x := s.getQ b
    ⟨[formCheck (!x.rag) b, ovfCheck s b], (s.setP a (if hasCell (s16Fields (s.getD c)) x then 1 else 0)).advance len⟩

/-- The box that `rbox` builds over a tensor (R182): the bounds and stride codes of two dimensions from the operands, the whole
extent in the others. -/
def boxDims (s : State) (d : Tensor) (b c : DReg) (j : BitVec 2) (s0 s1 : BitVec 3) : Box :=
  let low (r : DReg) : Int := ((s.getD r).extractLsb' 0 32).toInt
  let high (r : DReg) : Int := ((s.getD r).extractLsb' 32 32).toInt
  (List.range d.rank).map fun i =>
    if i = j.toNat then ⟨low b, low c, s0.toNat⟩
    else if i = j.toNat + 1 then ⟨high b, high c, s1.toNat⟩
    else ⟨0, (d.ext.getD i 1 : Nat), 0⟩

end Sys2Proof.Safety
end

