-- ==== Sys2Proof/Safety/Scalar.lean ====
section
/-! DEFINITION. What the scalar and control instructions are to do, as tables that the statements use: written from the tables of
R84 to R94, in integers and natural numbers, apart from the meanings of Machine/. -/

namespace Sys2Proof.Safety

open Sys2Proof.Machine

/-- A result: the register that is written, its value and the bytes of the instruction. -/
structure Result where
  reg : DReg
  value : Word
  len : Nat

/-- The state after a result. -/
def Result.after (r : Result) (s : State) : State := (s.setD r.reg r.value).advance r.len

/-- `p` as the number 1 or 0. -/
def oneIf (p : Prop) [Decidable p] : Word := if p then 1 else 0

/-- The results of R84 that are neither quotients nor remainders, modulo 2⁶⁴. -/
def arithResult (s : State) : Instr → Option Result
  | .add a b c => some ⟨a, .ofNat 64 ((s.getD b).toNat + (s.getD c).toNat), 4⟩
  | .sub a b c => some ⟨a, .ofInt 64 ((s.getD b).toInt - (s.getD c).toInt), 4⟩
  | .mul a b c => some ⟨a, .ofNat 64 ((s.getD b).toNat * (s.getD c).toNat), 4⟩
  | .mulh a b c => some ⟨a, .ofInt 64 ((s.getD b).toInt * (s.getD c).toInt / 2 ^ 64), 4⟩
  | .mulhn a b c => some ⟨a, .ofNat 64 ((s.getD b).toNat * (s.getD c).toNat / 2 ^ 64), 4⟩
  | .min a b c => some ⟨a, .ofInt 64 (min (s.getD b).toInt (s.getD c).toInt), 4⟩
  | .max a b c => some ⟨a, .ofInt 64 (max (s.getD b).toInt (s.getD c).toInt), 4⟩
  | .minn a b c => some ⟨a, .ofNat 64 (min (s.getD b).toNat (s.getD c).toNat), 4⟩
  | .maxn a b c => some ⟨a, .ofNat 64 (max (s.getD b).toNat (s.getD c).toNat), 4⟩
  | .addLit a b k => some ⟨a, .ofNat 64 ((s.getD b).toNat + k.toNat), 12⟩
  | .subLit a b k => some ⟨a, .ofInt 64 ((s.getD b).toInt - k.toInt), 12⟩
  | .mulLit a b k => some ⟨a, .ofNat 64 ((s.getD b).toNat * k.toNat), 12⟩
  | .mulhLit a b k => some ⟨a, .ofInt 64 ((s.getD b).toInt * k.toInt / 2 ^ 64), 12⟩
  | .mulhnLit a b k => some ⟨a, .ofNat 64 ((s.getD b).toNat * k.toNat / 2 ^ 64), 12⟩
  | .minLit a b k => some ⟨a, .ofInt 64 (min (s.getD b).toInt k.toInt), 12⟩
  | .maxLit a b k => some ⟨a, .ofInt 64 (max (s.getD b).toInt k.toInt), 12⟩
  | .minnLit a b k => some ⟨a, .ofNat 64 (min (s.getD b).toNat k.toNat), 12⟩
  | .maxnLit a b k => some ⟨a, .ofNat 64 (max (s.getD b).toNat k.toNat), 12⟩
  | .addImm a b i => some ⟨a, .ofInt 64 ((s.getD b).toInt + i.toInt), 4⟩
  | _ => none

/-- The results of R85 and of the quotients of R84: the register, the signedness, whether it is the remainder, dividend, divisor
and length. -/
structure Division where
  reg : DReg
  isSigned : Bool
  isRem : Bool
  dividend : Word
  divisor : Word
  len : Nat

/-- The divisions of R84. -/
def divisionOf (s : State) : Instr → Option Division
  | .div a b c => some ⟨a, true, false, s.getD b, s.getD c, 4⟩
  | .divn a b c => some ⟨a, false, false, s.getD b, s.getD c, 4⟩
  | .rem a b c => some ⟨a, true, true, s.getD b, s.getD c, 4⟩
  | .remn a b c => some ⟨a, false, true, s.getD b, s.getD c, 4⟩
  | .divLit a b k => some ⟨a, true, false, s.getD b, k, 12⟩
  | .divnLit a b k => some ⟨a, false, false, s.getD b, k, 12⟩
  | .remLit a b k => some ⟨a, true, true, s.getD b, k, 12⟩
  | .remnLit a b k => some ⟨a, false, true, s.getD b, k, 12⟩
  | _ => none

/-- The value of a division (R84, R85): truncated towards zero, with the sign of the dividend in the remainder. -/
def Division.value (d : Division) : Word :=
  if d.divisor = 0 then (if d.isRem then d.dividend else 0xFFFFFFFFFFFFFFFF)
  else match d.isSigned, d.isRem with
    | true, false => .ofInt 64 (d.dividend.toInt.tdiv d.divisor.toInt)
    | true, true => .ofInt 64 (d.dividend.toInt - d.divisor.toInt * d.dividend.toInt.tdiv d.divisor.toInt)
    | false, false => .ofNat 64 (d.dividend.toNat / d.divisor.toNat)
    | false, true => .ofNat 64 (d.dividend.toNat - d.divisor.toNat * (d.dividend.toNat / d.divisor.toNat))

/-- The results of R86 that are no counts: logic, and shifts and rotates by an amount below 64. -/
def logicResult (s : State) : Instr → Option Result
  | .and a b c => some ⟨a, s.getD b &&& s.getD c, 4⟩
  | .or a b c => some ⟨a, s.getD b ||| s.getD c, 4⟩
  | .xor a b c => some ⟨a, s.getD b ^^^ s.getD c, 4⟩
  | .andn a b c => some ⟨a, s.getD b &&& ~~~ s.getD c, 4⟩
  | .orn a b c => some ⟨a, s.getD b ||| ~~~ s.getD c, 4⟩
  | .andLit a b k => some ⟨a, s.getD b &&& k, 12⟩
  | .orLit a b k => some ⟨a, s.getD b ||| k, 12⟩
  | .xorLit a b k => some ⟨a, s.getD b ^^^ k, 12⟩
  | .andnLit a b k => some ⟨a, s.getD b &&& ~~~ k, 12⟩
  | .ornLit a b k => some ⟨a, s.getD b ||| ~~~ k, 12⟩
  | .andImm a b i => some ⟨a, s.getD b &&& .ofInt 64 i.toInt, 4⟩
  | .orImm a b i => some ⟨a, s.getD b ||| .ofInt 64 i.toInt, 4⟩
  | .xorImm a b i => some ⟨a, s.getD b ^^^ .ofInt 64 i.toInt, 4⟩
  | .sll a b c => some ⟨a, .ofNat 64 ((s.getD b).toNat * 2 ^ ((s.getD c).toNat % 64)), 4⟩
  | .srl a b c => some ⟨a, .ofNat 64 ((s.getD b).toNat / 2 ^ ((s.getD c).toNat % 64)), 4⟩
  | .sra a b c => some ⟨a, .ofInt 64 ((s.getD b).toInt / 2 ^ ((s.getD c).toNat % 64)), 4⟩
  | .rol a b c => some ⟨a, (s.getD b).rotateLeft ((s.getD c).toNat % 64), 4⟩
  | .ror a b c => some ⟨a, (s.getD b).rotateRight ((s.getD c).toNat % 64), 4⟩
  | .sllAmount a b n => some ⟨a, .ofNat 64 ((s.getD b).toNat * 2 ^ n.toNat), 4⟩
  | .srlAmount a b n => some ⟨a, .ofNat 64 ((s.getD b).toNat / 2 ^ n.toNat), 4⟩
  | .sraAmount a b n => some ⟨a, .ofInt 64 ((s.getD b).toInt / 2 ^ n.toNat), 4⟩
  | .rolAmount a b n => some ⟨a, (s.getD b).rotateLeft n.toNat, 4⟩
  | .rorAmount a b n => some ⟨a, (s.getD b).rotateRight n.toNat, 4⟩
  | _ => none

/-- The counts and the reversal of R86: the register, the source and the relation of the result to the source. -/
def countOf (s : State) : Instr → Option (DReg × (Word → Prop))
  | .clz a b => some (a, fun v => v.toNat ≤ 64 ∧ (∀ i, 64 - v.toNat ≤ i → (s.getD b).getLsbD i = false) ∧
      (v.toNat < 64 → (s.getD b).getLsbD (63 - v.toNat) = true))
  | .ctz a b => some (a, fun v => v.toNat ≤ 64 ∧ (∀ i, i < v.toNat → (s.getD b).getLsbD i = false) ∧
      (v.toNat < 64 → (s.getD b).getLsbD v.toNat = true))
  | .popc a b => some (a, fun v => v.toNat = ((List.range 64).filter fun i => (s.getD b).getLsbD i).length)
  | .brev a b => some (a, fun v => ∀ i, i < 64 → v.getLsbD i = (s.getD b).getLsbD (63 - i))
  | .pcnt a p => some (a, fun v => v.toNat = ((List.range 32).filter fun i => (s.getP p).getLsbD i).length)
  | .pfirst a p => some (a, fun v => v.toNat ≤ 32 ∧ (∀ i, i < v.toNat → (s.getP p).getLsbD i = false) ∧
      (v.toNat < 32 → (s.getP p).getLsbD v.toNat = true))
  | _ => none

/-- The bit-field operations of R87: the destination, the source and the control value, whether it inserts, and the length. -/
structure Field where
  reg : DReg
  source : Word
  control : Word
  inserts : Bool
  len : Nat

@[inherit_doc Field] def fieldOf (s : State) : Instr → Option Field
  | .bext a b c => some ⟨a, s.getD b, s.getD c, false, 4⟩
  | .bins a b c => some ⟨a, s.getD b, s.getD c, true, 4⟩
  | .bextLit a b k => some ⟨a, s.getD b, k, false, 12⟩
  | .binsLit a b k => some ⟨a, s.getD b, k, true, 12⟩
  | _ => none

/-- Position p and length n = min(w, 64 − p) of a control value (R87). -/
def Field.pos (f : Field) : Nat := (f.control.extractLsb' 0 6).toNat
@[inherit_doc Field.pos] def Field.width (f : Field) : Nat := min (f.control.extractLsb' 8 7).toNat (64 - f.pos)
/-- The control value has no other bit than its two fields, and a width of at most 64 (R87). -/
def Field.ok (f : Field) : Prop :=
  (∀ i, f.control.getLsbD i = true → i < 6 ∨ (8 ≤ i ∧ i < 15)) ∧ (f.control.extractLsb' 8 7).toNat ≤ 64

/-- Bit `i` of the result (R87). -/
def Field.bit (f : Field) (old : Word) (i : Nat) : Bool :=
  if f.inserts then
    if f.pos ≤ i ∧ i < f.pos + f.width then f.source.getLsbD (i - f.pos) else old.getLsbD i
  else decide (i < f.width) && f.source.getLsbD (f.pos + i)

/-- The results of R88. -/
def selectResult (s : State) : Instr → Option Result
  | .slt a b c => some ⟨a, oneIf ((s.getD b).toInt < (s.getD c).toInt), 4⟩
  | .sltn a b c => some ⟨a, oneIf ((s.getD b).toNat < (s.getD c).toNat), 4⟩
  | .seq a b c => some ⟨a, oneIf (s.getD b = s.getD c), 4⟩
  | .mov a b => some ⟨a, s.getD b, 4⟩
  | .csel a b c p => some ⟨a, if (s.getP p).getLsbD 0 then s.getD b else s.getD c, 4⟩
  | .sltLit a b k => some ⟨a, oneIf ((s.getD b).toInt < k.toInt), 12⟩
  | .sltnLit a b k => some ⟨a, oneIf ((s.getD b).toNat < k.toNat), 12⟩
  | .seqLit a b k => some ⟨a, oneIf (s.getD b = k), 12⟩
  | .liLit a k => some ⟨a, k, 12⟩
  | .sltImm a b i => some ⟨a, oneIf ((s.getD b).toInt < i.toInt), 4⟩
  | .sltnImm a b i => some ⟨a, oneIf ((s.getD b).toNat < (BitVec.ofInt 64 i.toInt).toNat), 4⟩
  | .seqImm a b i => some ⟨a, oneIf (s.getD b = .ofInt 64 i.toInt), 4⟩
  | .liImm a i => some ⟨a, .ofInt 64 i.toInt, 4⟩
  | .lidx a => some ⟨a, if s.th.lvl = 0 then 0 else ((s.th.loops[s.th.lvl - 1]?).getD {}).index, 4⟩
  | _ => none

/-- The predicate results of R89: the register and the value of its bit `i`. -/
def predResult (s : State) : Instr → Option (PReg × (Nat → Prop))
  | .pcmpEq a b c => some (a, fun i => i = 0 ∧ s.getD b = s.getD c)
  | .pcmpNe a b c => some (a, fun i => i = 0 ∧ s.getD b ≠ s.getD c)
  | .pcmpLt a b c => some (a, fun i => i = 0 ∧ (s.getD b).toInt < (s.getD c).toInt)
  | .pcmpGe a b c => some (a, fun i => i = 0 ∧ (s.getD c).toInt ≤ (s.getD b).toInt)
  | .pcmpLtn a b c => some (a, fun i => i = 0 ∧ (s.getD b).toNat < (s.getD c).toNat)
  | .pcmpGen a b c => some (a, fun i => i = 0 ∧ (s.getD c).toNat ≤ (s.getD b).toNat)
  | .pand a b c => some (a, fun i => i < 32 ∧ (s.getP b).getLsbD i = true ∧ (s.getP c).getLsbD i = true)
  | .por a b c => some (a, fun i => i < 32 ∧ ((s.getP b).getLsbD i = true ∨ (s.getP c).getLsbD i = true))
  | .pxor a b c => some (a, fun i => i < 32 ∧ (s.getP b).getLsbD i ≠ (s.getP c).getLsbD i)
  | .pnot a b => some (a, fun i => i < 32 ∧ (s.getP b).getLsbD i = false)
  | _ => none

/-- A conditional branch (R90): whether it is taken, its word offset and its length. -/
structure Branch where
  taken : Prop
  off : Int
  len : Nat

@[inherit_doc Branch] def branchOf (s : State) : Instr → Option Branch
  | .beq a b o => some ⟨s.getD a = s.getD b, o.toInt, 4⟩
  | .bne a b o => some ⟨s.getD a ≠ s.getD b, o.toInt, 4⟩
  | .blt a b i => some ⟨(s.getD a).toInt < (s.getD b).toInt, i.toInt, 12⟩
  | .bge a b i => some ⟨(s.getD b).toInt ≤ (s.getD a).toInt, i.toInt, 12⟩
  | .bltn a b i => some ⟨(s.getD a).toNat < (s.getD b).toNat, i.toInt, 12⟩
  | .bgen a b i => some ⟨(s.getD b).toNat ≤ (s.getD a).toNat, i.toInt, 12⟩
  | .beqX a b i => some ⟨s.getD a = s.getD b, i.toInt, 12⟩
  | .bneX a b i => some ⟨s.getD a ≠ s.getD b, i.toInt, 12⟩
  | .bpt a i => some ⟨(s.getP a).getLsbD 0 = true, i.toInt, 12⟩
  | .bpf a i => some ⟨(s.getP a).getLsbD 0 = false, i.toInt, 12⟩
  | _ => none

/-- A call or a jump (R91): its target, and the link it writes to d1. -/
def jumpOf (s : State) : Instr → Option (Word × Option Word)
  | .call o => some (s.th.pc + .ofInt 64 (4 * o.toInt), some (s.th.pc + 4))
  | .callX i => some (s.th.pc + .ofInt 64 (4 * i.toInt), some (s.th.pc + 12))
  | .jr a => some (s.getD a, none)
  | .callr a => some (s.getD a, some (s.th.pc + 4))
  | .ret => some (s.getD 1, none)
  | _ => none

/-- The calls whose target stands in the instruction. -/
def isDirectCall : Instr → Prop
  | .call _ => True
  | .callX _ => True
  | _ => False

/-- The state with the link written, where there is one. -/
def linked (link : Option Word) (s : State) : State := match link with | some l => s.setD 1 l | none => s

/-- A hardware loop's opening (R93): the count register, the word offset of its `lend` and the length. -/
def loopOf : Instr → Option (DReg × Nat × Nat)
  | .loop a o => some (a, o.toNat, 4)
  | .loopX a i => some (a, i.toNat, 12)
  | _ => none

/-- The state after `loop` opens a level (R21, R93): its frame F(L+1) is zero. -/
def opened (s : State) (count : Word) (off len : Nat) : State :=
  let l := s.th.lvl + 1
  let start := s.th.pc + .ofNat 64 len
  { s with th := { s.th with
    lvl := l
    d := Vector.ofFn fun j => if 24 + 8 * l ≤ j.val ∧ j.val < 32 + 8 * l then 0 else s.th.d[j]
    loops := s.th.loops.setIfInBounds (l - 1)
      { start := start, stop := s.th.pc + .ofNat 64 (4 * off), count := count, index := 0 }
    pc := start } }

/-- The current level's index replaced. -/
def reindexed (s : State) (index : Word) : State :=
  { s with th := { s.th with
    loops := s.th.loops.setIfInBounds (s.th.lvl - 1) { (s.th.loops[s.th.lvl - 1]?).getD {} with index := index } } }

/-- The current level left, with control at an address. -/
def left (s : State) (pc : Word) : State := { s with th := { s.th with lvl := s.th.lvl - 1, pc := pc } }

end Sys2Proof.Safety
end

