-- ==== Sys2Proof/Safety/Vector.lean ====
section
/-! DEFINITION. What the vector instructions are to do lane by lane, as tables that the statements use (R135 to R157): integer lanes
in integers and natural numbers. -/

namespace Sys2Proof.Safety

open Sys2Proof.Machine

/-- A vector instruction with a vector destination: its sources, its governing predicate, its length, and lane `k` of the result
with the flags it raises, from the sources by position and lane. -/
structure VecOp where
  dst : VReg
  srcs : List VReg
  gov : Gov
  len : Nat
  lane : (Nat → Nat → Lane) → Nat → LaneResult

/-- The shapes of one, two and three sources, without and with flags, and of whole vectors. -/
def VecOp.float1 (len : Nat) (a b : VReg) (g : Gov) (f : Lane → LaneResult) : VecOp := ⟨a, [b], g, len, fun src k => f (src 0 k)⟩
@[inherit_doc VecOp.float1] def VecOp.float2 (len : Nat) (a b c : VReg) (g : Gov) (f : Lane → Lane → LaneResult) : VecOp :=
  ⟨a, [b, c], g, len, fun src k => f (src 0 k) (src 1 k)⟩
@[inherit_doc VecOp.float1] def VecOp.float3 (len : Nat) (a b c d : VReg) (g : Gov) (f : Lane → Lane → Lane → LaneResult) : VecOp :=
  ⟨a, [b, c, d], g, len, fun src k => f (src 0 k) (src 1 k) (src 2 k)⟩
@[inherit_doc VecOp.float1] def VecOp.one (len : Nat) (a b : VReg) (g : Gov) (f : Lane → Lane) : VecOp :=
  .float1 len a b g fun x => ⟨f x, {}⟩
@[inherit_doc VecOp.float1] def VecOp.two (len : Nat) (a b c : VReg) (g : Gov) (f : Lane → Lane → Lane) : VecOp :=
  .float2 len a b c g fun x y => ⟨f x y, {}⟩
@[inherit_doc VecOp.float1] def VecOp.three (len : Nat) (a b c d : VReg) (g : Gov) (f : Lane → Lane → Lane → Lane) : VecOp :=
  .float3 len a b c d g fun x y z => ⟨f x y z, {}⟩
@[inherit_doc VecOp.float1] def VecOp.whole (len : Nat) (a : VReg) (srcs : List VReg) (g : Gov) (f : (Nat → Nat → Lane) → Nat → Lane) :
    VecOp := ⟨a, srcs, g, len, fun src k => ⟨f src k, {}⟩⟩

/-- Lane `k` of the source at a position. -/
def VecOp.src (v : VecOp) (s : State) (n k : Nat) : Lane := Machine.lane (readVec s (v.srcs.getD n 0)) k

/-- The state after a vector instruction whose pops leave `u` (R136, R137): executing lanes receive the results, and the flags of
those lanes become set. -/
def VecOp.after (v : VecOp) (s u : State) : State :=
  let mask := govMask s.th v.gov
  ((writeVec v.dst mask (fun k => (v.lane (v.src s) k).lane) u).raise (laneFlags mask (v.lane (v.src s)))).advance v.len

/-- The table of `vlop3` (R140): bit k of the result is the table's bit 4a + 2b + c. -/
def tableLane (table : BitVec 8) (x y z : Lane) : Lane :=
  (BitVec.ofBoolListLE ((List.range 32).map fun k => table.getLsbD
    (4 * (x.getLsbD k).toNat + 2 * (y.getLsbD k).toNat + (z.getLsbD k).toNat))).setWidth 32

/-- `vshuf` of [a, b, c] (R143): indexes 0 to 31 name lanes of b and 32 to 63 old lanes of a. -/
def shuffled (src : Nat → Nat → Lane) (k : Nat) : Lane :=
  let j := (src 2 k).toNat % 64
  if j < 32 then src 1 j else src 0 (j - 32)

/-- `vslide` of [b] by a distance (R143). -/
def slid (n : Int) (src : Nat → Nat → Lane) (k : Nat) : Lane :=
  if 0 ≤ (k : Int) - n ∧ (k : Int) - n < 32 then src 0 ((k : Int) - n).toNat else 0

/-- The integer vector operations of R138 to R143, lane by lane. -/
def intVectorOf (s : State) : Instr → Option VecOp
  | .vadd a b c => some (.two 4 a b c none fun x y => x + y)
  | .vsub a b c => some (.two 4 a b c none fun x y => x - y)
  | .vmul a b c => some (.two 4 a b c none fun x y => .ofInt 32 (x.toInt * y.toInt))
  | .vmulh a b c => some (.two 4 a b c none fun x y => .ofInt 32 (x.toInt * y.toInt / 2 ^ 32))
  | .vmin a b c => some (.two 4 a b c none fun x y => .ofInt 32 (min x.toInt y.toInt))
  | .vmax a b c => some (.two 4 a b c none fun x y => .ofInt 32 (max x.toInt y.toInt))
  | .vminn a b c => some (.two 4 a b c none fun x y => .ofNat 32 (min x.toNat y.toNat))
  | .vmaxn a b c => some (.two 4 a b c none fun x y => .ofNat 32 (max x.toNat y.toNat))
  | .vand a b c => some (.two 4 a b c none fun x y => x &&& y)
  | .vor a b c => some (.two 4 a b c none fun x y => x ||| y)
  | .vxor a b c => some (.two 4 a b c none fun x y => x ^^^ y)
  | .vandn a b c => some (.two 4 a b c none fun x y => x &&& ~~~ y)
  | .vsll a b c => some (.two 4 a b c none fun x y => .ofNat 32 (x.toNat * 2 ^ (y.toNat % 32)))
  | .vsrl a b c => some (.two 4 a b c none fun x y => .ofNat 32 (x.toNat / 2 ^ (y.toNat % 32)))
  | .vsra a b c => some (.two 4 a b c none fun x y => .ofInt 32 (x.toInt / 2 ^ (y.toNat % 32)))
  | .vrot a b c => some (.two 4 a b c none fun x y => x.rotateLeft (y.toNat % 32))
  | .vaddX a b c _ g => some (.two 12 a b c g fun x y => x + y)
  | .vsubX a b c _ g => some (.two 12 a b c g fun x y => x - y)
  | .vmulX a b c _ g => some (.two 12 a b c g fun x y => .ofInt 32 (x.toInt * y.toInt))
  | .vmulhX a b c n g => some (.two 12 a b c g fun x y => if n then .ofNat 32 (x.toNat * y.toNat / 2 ^ 32) else .ofInt 32 (x.toInt * y.toInt / 2 ^ 32))
  | .vminX a b c n g => some (.two 12 a b c g fun x y => if n then .ofNat 32 (min x.toNat y.toNat) else .ofInt 32 (min x.toInt y.toInt))
  | .vmaxX a b c n g => some (.two 12 a b c g fun x y => if n then .ofNat 32 (max x.toNat y.toNat) else .ofInt 32 (max x.toInt y.toInt))
  | .vminnX a b c _ g => some (.two 12 a b c g fun x y => .ofNat 32 (min x.toNat y.toNat))
  | .vmaxnX a b c _ g => some (.two 12 a b c g fun x y => .ofNat 32 (max x.toNat y.toNat))
  | .vandX a b c _ g => some (.two 12 a b c g fun x y => x &&& y)
  | .vorX a b c _ g => some (.two 12 a b c g fun x y => x ||| y)
  | .vxorX a b c _ g => some (.two 12 a b c g fun x y => x ^^^ y)
  | .vandnX a b c _ g => some (.two 12 a b c g fun x y => x &&& ~~~ y)
  | .vsllX a b c _ g => some (.two 12 a b c g fun x y => .ofNat 32 (x.toNat * 2 ^ (y.toNat % 32)))
  | .vsrlX a b c _ g => some (.two 12 a b c g fun x y => .ofNat 32 (x.toNat / 2 ^ (y.toNat % 32)))
  | .vsraX a b c _ g => some (.two 12 a b c g fun x y => .ofInt 32 (x.toInt / 2 ^ (y.toNat % 32)))
  | .vrotX a b c _ g => some (.two 12 a b c g fun x y => x.rotateLeft (y.toNat % 32))
  | .vmad a b c => some (.three 4 a a b c none fun z x y => .ofInt 32 (z.toInt + x.toInt * y.toInt))
  | .vmadX a b c _ g => some (.three 12 a a b c g fun z x y => .ofInt 32 (z.toInt + x.toInt * y.toInt))
  | .vabs a b => some (.one 4 a b none fun x => .ofInt 32 (if x.toInt < 0 then -x.toInt else x.toInt))
  | .vneg a b => some (.one 4 a b none fun x => .ofInt 32 (-x.toInt))
  | .vmov a b => some (.one 4 a b none fun x => x)
  | .vabsX a b g => some (.one 12 a b g fun x => .ofInt 32 (if x.toInt < 0 then -x.toInt else x.toInt))
  | .vnegX a b _ g => some (.one 12 a b g fun x => .ofInt 32 (-x.toInt))
  | .vmovX a b g => some (.one 12 a b g fun x => x)
  | .vclz a b => some (.one 4 a b none fun x => .ofNat 32 (leadingZeros x))
  | .vpopc a b => some (.one 4 a b none fun x => .ofNat 32 (popCount x))
  | .vclzX a b _ g => some (.one 12 a b g fun x => .ofNat 32 (leadingZeros x))
  | .vpopcX a b _ g => some (.one 12 a b g fun x => .ofNat 32 (popCount x))
  | .vlop3 a b c d table _ g => some (.three 12 a b c d g (tableLane table))
  | .vfsl a b c d _ g => some (.two 12 a b c g fun x y => .ofNat 32 ((x.toNat * 2 ^ 32 + y.toNat) * 2 ^ ((s.getD d).toNat % 32) / 2 ^ 32))
  | .vfsr a b c d _ g => some (.two 12 a b c g fun x y => .ofNat 32 ((x.toNat * 2 ^ 32 + y.toNat) / 2 ^ ((s.getD d).toNat % 32)))
  | .vfslAmount a b c k _ g => some (.two 12 a b c g fun x y => .ofNat 32 ((x.toNat * 2 ^ 32 + y.toNat) * 2 ^ k.toNat / 2 ^ 32))
  | .vfsrAmount a b c k _ g => some (.two 12 a b c g fun x y => .ofNat 32 ((x.toNat * 2 ^ 32 + y.toNat) / 2 ^ k.toNat))
  | .vsllAmount a b k _ g => some (.one 12 a b g fun x => .ofNat 32 (x.toNat * 2 ^ k.toNat))
  | .vsrlAmount a b k _ g => some (.one 12 a b g fun x => .ofNat 32 (x.toNat / 2 ^ k.toNat))
  | .vsraAmount a b k _ g => some (.one 12 a b g fun x => .ofInt 32 (x.toInt / 2 ^ k.toNat))
  | .vrotAmount a b k _ g => some (.one 12 a b g fun x => x.rotateLeft k.toNat)
  | .vsel a b c p => some (.whole 4 a [b, c] none fun src k => if (s.getP p).getLsbD k then src 0 k else src 1 k)
  | .vselX a b c p g => some (.whole 12 a [b, c] g fun src k => if (s.getP p).getLsbD k then src 0 k else src 1 k)
  | .vbcast a b => some (.whole 4 a [] none fun _ _ => (s.getD b).extractLsb' 0 32)
  | .vbcastX a b g => some (.whole 12 a [] g fun _ _ => (s.getD b).extractLsb' 0 32)
  | .vperm a b c => some (.whole 4 a [b, c] none fun src k => src 0 ((src 1 k).toNat % 32))
  | .vpermX a b c _ g => some (.whole 12 a [b, c] g fun src k => src 0 ((src 1 k).toNat % 32))
  | .vshuf a b c => some (.whole 4 a [a, b, c] none shuffled)
  | .vshufX a b c _ g => some (.whole 12 a [a, b, c] g shuffled)
  | .vslide a b c => some (.whole 4 a [b] none (slid (s.getD c).toInt))
  | .vslideX a b c _ g => some (.whole 12 a [b] g (slid (s.getD c).toInt))
  | _ => none

/-- The floating vector operations of R145 to R149, lane by lane, by the number formats of chapter 5 and RM and TOPINF of FMODE. -/
def floatVectorOf (s : State) : Instr → Option VecOp
  | .vfadd a b c => some (.float2 4 a b c none (laneFadd .f32 (roundOf s.th.fmode)))
  | .vfaddX a b c t g => some (.float2 12 a b c g (laneFadd t (roundOf s.th.fmode)))
  | .vfsub a b c => some (.float2 4 a b c none (laneFsub .f32 (roundOf s.th.fmode)))
  | .vfsubX a b c t g => some (.float2 12 a b c g (laneFsub t (roundOf s.th.fmode)))
  | .vfmul a b c => some (.float2 4 a b c none (laneFmul .f32 (roundOf s.th.fmode)))
  | .vfmulX a b c t g => some (.float2 12 a b c g (laneFmul t (roundOf s.th.fmode)))
  | .vfmin a b c => some (.float2 4 a b c none (laneFminmax false .f32))
  | .vfminX a b c t g => some (.float2 12 a b c g (laneFminmax false t))
  | .vfmax a b c => some (.float2 4 a b c none (laneFminmax true .f32))
  | .vfmaxX a b c t g => some (.float2 12 a b c g (laneFminmax true t))
  | .vfma a b c => some (.float3 4 a a b c none (laneFma .f32 (roundOf s.th.fmode)))
  | .vfmaX a b c t g => some (.float3 12 a a b c g (laneFma t (roundOf s.th.fmode)))
  | .vfabs a b => some (.float1 4 a b none (fun x => ⟨laneFabs .f32 x, {}⟩))
  | .vfabsX a b t g => some (.float1 12 a b g (fun x => ⟨laneFabs t x, {}⟩))
  | .vfneg a b => some (.float1 4 a b none (fun x => ⟨laneFneg .f32 x, {}⟩))
  | .vfnegX a b t g => some (.float1 12 a b g (fun x => ⟨laneFneg t x, {}⟩))
  | .vfrcp a b => some (.float1 4 a b none (laneFrcp .f32 (roundOf s.th.fmode)))
  | .vfrcpX a b t g => some (.float1 12 a b g (laneFrcp t (roundOf s.th.fmode)))
  | .vfrsq a b => some (.float1 4 a b none (laneFrsq .f32 (roundOf s.th.fmode)))
  | .vfrsqX a b t g => some (.float1 12 a b g (laneFrsq t (roundOf s.th.fmode)))
  | .vcvt a b => some (.float1 4 a b none (laneConvert .f32 .s32 (roundOf s.th.fmode) (topinfOf s.th.fmode) false))
  | .vcvtX a b dt st g => some (.float1 12 a b g (laneConvert dt st (roundOf s.th.fmode) (topinfOf s.th.fmode) false))
  | .vcvtSat a b dt st g => some (.float1 12 a b g (laneConvert dt st (roundOf s.th.fmode) (topinfOf s.th.fmode) true))
  | _ => none

/-- A vector comparison: the predicate, the sources, the governing predicate, the length, and what it makes of two lanes. -/
structure PredOp where
  dst : PReg
  b : VReg
  c : VReg
  gov : Gov
  len : Nat
  holds : Lane → Lane → Bool × Flags

/-- The integer comparison of two lanes (R142). -/
def laneCompare (op : CmpOp) (x y : Lane) : Bool × Flags :=
  (match op with
    | .eq => decide (x = y)
    | .ne => decide (x ≠ y)
    | .lt => decide (x.toInt < y.toInt)
    | .ge => decide (y.toInt ≤ x.toInt)
    | .ltn => decide (x.toNat < y.toNat)
    | .gen => decide (y.toNat ≤ x.toNat), {})

/-- The floating comparison of two lanes, and NV (R148). -/
def laneFloatCompare (op : FCmpOp) (t : FTy) (x y : Lane) : Bool × Flags :=
  let r := compareFloat op ((fmtOf t).lane x) ((fmtOf t).lane y)
  (r.1, { nv := r.2 })

/-- The vector comparisons of R142 and R148. -/
def vectorPredOf : Instr → Option PredOp
  | .vcmpEq a b c => some ⟨a, b, c, none, 4, laneCompare .eq⟩
  | .vcmpNe a b c => some ⟨a, b, c, none, 4, laneCompare .ne⟩
  | .vcmpLt a b c => some ⟨a, b, c, none, 4, laneCompare .lt⟩
  | .vcmpGe a b c => some ⟨a, b, c, none, 4, laneCompare .ge⟩
  | .vcmpLtn a b c => some ⟨a, b, c, none, 4, laneCompare .ltn⟩
  | .vcmpGen a b c => some ⟨a, b, c, none, 4, laneCompare .gen⟩
  | .vcmpX op a b c g => some ⟨a, b, c, g, 12, laneCompare op⟩
  | .vfcmpEq a b c => some ⟨a, b, c, none, 4, laneFloatCompare .eq .f32⟩
  | .vfcmpNe a b c => some ⟨a, b, c, none, 4, laneFloatCompare .ne .f32⟩
  | .vfcmpLt a b c => some ⟨a, b, c, none, 4, laneFloatCompare .lt .f32⟩
  | .vfcmpGe a b c => some ⟨a, b, c, none, 4, laneFloatCompare .ge .f32⟩
  | .vfcmpX op a b c t g => some ⟨a, b, c, g, 12, laneFloatCompare op t⟩
  | _ => none

/-- A reduction: the destination, the source, the governing predicate, the length, the signedness of the type, the value where no
lane executes, and how two values combine (R143, R144). -/
structure Reduction where
  dst : DReg
  src : VReg
  gov : Gov
  len : Nat
  isUnsigned : Bool
  unit : Lane
  join : Lane → Lane → Lane

/-- The reductions of R143. -/
def reductionOf : Instr → Option Reduction
  | .vredadd a b => some ⟨a, b, none, 4, false, 0, fun x y => x + y⟩
  | .vredaddX a b n g => some (if n then ⟨a, b, g, 12, true, 0, fun x y => x + y⟩ else ⟨a, b, g, 12, false, 0, fun x y => x + y⟩)
  | .vredmin a b => some ⟨a, b, none, 4, false, 0x7FFFFFFF, fun x y => .ofInt 32 (min x.toInt y.toInt)⟩
  | .vredminX a b n g => some (if n then ⟨a, b, g, 12, true, 0xFFFFFFFF, fun x y => .ofNat 32 (min x.toNat y.toNat)⟩ else ⟨a, b, g, 12, false, 0x7FFFFFFF, fun x y => .ofInt 32 (min x.toInt y.toInt)⟩)
  | .vredmax a b => some ⟨a, b, none, 4, false, 0x80000000, fun x y => .ofInt 32 (max x.toInt y.toInt)⟩
  | .vredmaxX a b n g => some (if n then ⟨a, b, g, 12, true, 0, fun x y => .ofNat 32 (max x.toNat y.toNat)⟩ else ⟨a, b, g, 12, false, 0x80000000, fun x y => .ofInt 32 (max x.toInt y.toInt)⟩)
  | .vredand a b => some ⟨a, b, none, 4, false, 0xFFFFFFFF, fun x y => x &&& y⟩
  | .vredandX a b n g => some (if n then ⟨a, b, g, 12, true, 0xFFFFFFFF, fun x y => x &&& y⟩ else ⟨a, b, g, 12, false, 0xFFFFFFFF, fun x y => x &&& y⟩)
  | .vredor a b => some ⟨a, b, none, 4, false, 0, fun x y => x ||| y⟩
  | .vredorX a b n g => some (if n then ⟨a, b, g, 12, true, 0, fun x y => x ||| y⟩ else ⟨a, b, g, 12, false, 0, fun x y => x ||| y⟩)
  | .vredxor a b => some ⟨a, b, none, 4, false, 0, fun x y => x ^^^ y⟩
  | .vredxorX a b n g => some (if n then ⟨a, b, g, 12, true, 0, fun x y => x ^^^ y⟩ else ⟨a, b, g, 12, false, 0, fun x y => x ^^^ y⟩)
  | _ => none

/-- The value that the executing lanes of a source give, in increasing order (R143). -/
def Reduction.value (r : Reduction) (mask : Lane) (x : Lanes) : Lane :=
  (((List.range 32).filter fun k => mask.getLsbD k).map (lane x)).foldl r.join r.unit

end Sys2Proof.Safety
end

