-- ==== Sys2Proof/Certificates/Slice0/Obligations.lean ====
section
/-! DEFINITION. The statements about the model, in the order of the families of the opcode table. -/

open Sys2Proof
open Sys2Proof.Machine
open Sys2Proof.Safety

/-- Words written bit by bit from R54 and the opcode map, of the scalar, literal, branch, scratch, vector, region, engine, matrix,
global, job, message and system families, decode to their instructions; the zero word is refused as such. -/
def Obligations.WordsOfTheMapDecode : Prop :=
  decodeWords [0x00148304] = .instr (.add 3 4 5) ∧
  decodeWords [0x20008305, 0x9ABCDEF0, 0x12345678] = .instr (.addLit 3 4 0x123456789ABCDEF0) ∧
  decodeWords [0xFFFC4140] = .instr (.beq 1 2 0x3FFF) ∧
  decodeWords [0x5108C550] = .instr (.lds .wrs .full .s32 5 6 2) ∧
  decodeWords [0x000C4160] = .instr (.vadd 1 2 3) ∧
  decodeWords [0x200C4180] = .instr (.runi true 1 2 3) ∧
  decodeWords [0x000C4190] = .instr (.twIn 1 2 3) ∧
  decodeWords [0x030801A4] = .instr (.mstat 1 2) ∧
  decodeWords [0xC38C41B8] = .instr (.ldg .wrd .n64 1 2 3) ∧
  decodeWords [0x000041C0] = .instr (.jsub 1 2) ∧
  decodeWords [0x000041D0] = .instr (.snd 1 2) ∧
  decodeWords [0x0120A0D8] = .instr (.svc 0x105) ∧
  decodeWords [0] = .reject .zero

/-- For every well-formed instruction, with every operand at every value that the encoding admits, decoding its words gives it back.
The other way, words that decode to an instruction, other than a factory operation, are the words of that instruction: no bit of
a word is dropped, and the length is the one that the first word announces. -/
def Obligations.EncodingsRoundTrip : Prop :=
  (∀ i : Instr, i.wf = true → decodeWords (encode i) = .instr i) ∧
  (∀ (w0 w1 w2 w3 w4 : BitVec 32) (i : Instr), decodeWords [w0, w1, w2, w3, w4] = .instr i → (∀ x, i ≠ .factoryTest x) →
    encode i = [w0, w1, w2, w3, w4].take (lenWords w0))

/-- The scalar file holds 64 words: d1 to d15, the level-0 bank and the frames F0 to F4. At level 0, d16 to d23 name the bank and
d24 to d31 name F0; at level L of 1 to 4 they name F(L-1) and FL; d1 to d15 name the same word at every level. A write through a
name changes the one word that the name reaches, so that it is read back through that name and no other name at that level, and
d0 keeps reading zero; a write at a deeper level leaves every word of the bank, and the bank is seen again at level 0. -/
def Obligations.ScalarNamesFollowTheLoopLevel : Prop :=
  ∀ (t : Thread), t.lvl ≤ 4 →
    (∀ n : DReg, n.toNat < 16 → t.getD n = if n = 0 then 0 else (t.d[n.toNat]?).getD 0) ∧
    (∀ (n : DReg) (j : Nat), n.toNat = 16 + j → j < 8 →
      t.getD n = if t.lvl = 0 then bankWordOf t j else frameWordOf t (t.lvl - 1) j) ∧
    (∀ (n : DReg) (j : Nat), n.toNat = 24 + j → j < 8 → t.getD n = frameWordOf t t.lvl j) ∧
    (∀ (n m : DReg) (x : Word), (t.setD n x).getD m = if m = n ∧ n ≠ 0 then x else t.getD m) ∧
    (∀ (n : DReg) (x : Word), t.lvl ≠ 0 → ∀ j, j < 8 →
      bankWordOf (t.setD n x) j = bankWordOf t j ∧
      ∀ m : DReg, m.toNat = 16 + j → ({ t.setD n x with lvl := 0 } : Thread).getD m = bankWordOf t j)

/-- `add`, `sub`, `mul`, `mulh`, `mulhn`, `min`, `max`, `minn` and `maxn`, the logic operations, shifts and rotates of R86 (a
register amount counts modulo 64), and `slt`, `sltn`, `seq`, `mov`, `csel`, `li` and `lidx` (0 at level 0, else the current
level's index), in all their forms: the instruction completes in every state, dA receives the value of R84, R86, R88 or R94 from
the old sources, the pc moves past the instruction, and nothing else changes. A write to d0 is discarded by the register write
itself. -/
def Obligations.ScalarOperationsWriteTheirResult : Prop :=
  ∀ (i : Instr) (s : State) (r : Result),
    arithResult s i = some r ∨ logicResult s i = some r ∨ selectResult s i = some r → exec i s = .next (r.after s)

/-- `div`, `divn`, `rem` and `remn`, with a register or a literal: the instruction completes in every state; the quotient is
truncated towards zero, the remainder has the sign of the dividend; a zero divisor gives all ones or the dividend and sets DZ,
also where dA is d0; the most negative number by minus one wraps to itself with remainder 0; no other flag and nothing else
changes. -/
def Obligations.DivisionWritesItsResult : Prop :=
  ∀ (i : Instr) (s : State) (d : Division), divisionOf s i = some d →
    exec i s = .next (((s.setD d.reg d.value).raise { dz := decide (d.divisor = 0) }).advance d.len)

/-- `clz`, `ctz`, `popc`, `brev`, `pcnt` and `pfirst` complete in every state: dA receives a value v with the property that R86 or
R89 gives it bit by bit (for `clz`: the v highest bits are 0 and the next is 1 unless v is 64, and so on). The six `pcmp` forms
write the comparison into bit 0 of pA and zeros above; `pand`, `por`, `pxor` and `pnot` write all 32 bits bit by bit. `bext` and
`bins`, with a register or literal control value: where the control value has no bit outside its fields and a width of at most
64, each bit of dA is as R87 says (extracted bits zero-extended; inserted bits among the kept bits of dA); otherwise they trap
ILL VALUE with EADDR 0. The pc moves on, nothing else changes. -/
def Obligations.CountsFieldsAndPredicatesWriteTheirResult : Prop :=
  ∀ (i : Instr) (s : State),
    (∀ (a : DReg) (p : Word → Prop), countOf s i = some (a, p) → ∃ v, p v ∧ exec i s = .next ((s.setD a v).advance 4)) ∧
    (∀ (a : PReg) (p : Nat → Prop), predResult s i = some (a, p) →
      ∃ v : Lane, (∀ j, v.getLsbD j = true ↔ p j) ∧ exec i s = .next ((s.setP a v).advance 4)) ∧
    (∀ f : Field, fieldOf s i = some f →
      (f.ok → ∃ v : Word, (∀ j, j < 64 → v.getLsbD j = f.bit (s.getD f.reg) j) ∧
        exec i s = .next ((s.setD f.reg v).advance f.len)) ∧
      (¬ f.ok → exec i s = .next (takeTrap 1 9 0 s)))

/-- Every conditional branch completes in every state: taken, its pc becomes the instruction's address plus four times the word
offset, and, as a transfer of control after an acquire, it drops what the thread had fetched ahead (R53); untaken, the pc moves
past the instruction. `call` in both forms writes the address after it to d1 and goes to its target; `jr`, `callr` and `ret` go
to the register's old value, `callr` writing the link to d1, where bits 1:0 of the target are zero, and otherwise trap IFETCH
with subcode ALIGN at the instruction with EADDR the target and no link written; `nop` moves on by 4. Nothing else changes. -/
def Obligations.TransfersGoToTheirTarget : Prop :=
  ∀ (i : Instr) (s : State),
    (∀ (b : Branch), branchOf s i = some b →
      (b.taken → exec i s = .next (s.jump (s.th.pc + .ofInt 64 (4 * b.off)))) ∧
      (¬ b.taken → exec i s = .next (s.advance b.len))) ∧
    (∀ target link, isDirectCall i → jumpOf s i = some (target, some link) → exec i s = .next ((s.setD 1 link).setPc target)) ∧
    (∀ target link, ¬ isDirectCall i → jumpOf s i = some (target, link) →
      (target.toNat % 4 = 0 → exec i s = .next ((linked link s).jump target)) ∧
      (target.toNat % 4 ≠ 0 → exec i s = .next (takeTrap 3 3 target s))) ∧
    (i = .nop → exec i s = .next (s.advance 4))

/-- `loop` (both forms) below level 4: with a count of 0 the pc goes to 4 past the `lend`; else the next level opens with its frame
zero, its start, end, count and index 0 as R93 says, and the pc at the body. At level 4 it traps LOOP DEPTH even with count 0.
`lend` above level 0 raises the index, and goes to the start while it is below the count, else leaves the level and moves on;
`lbrk` leaves the level and goes to 4 past the end; both trap LOOP UNDERFLOW at level 0. Where the spec leaves a point open it
rests on the model's own reading: log entry 82. -/
def Obligations.HardwareLoopsOpenRepeatAndClose : Prop :=
  ∀ (s : State),
    (∀ i a off len, loopOf i = some (a, off, len) →
      (s.th.lvl = 4 → exec i s = .next (takeTrap 7 0 0 s)) ∧
      (s.th.lvl < 4 → s.getD a = 0 → exec i s = .next (s.setPc (s.th.pc + .ofNat 64 (4 * off) + 4))) ∧
      (s.th.lvl < 4 → s.getD a ≠ 0 → exec i s = .next (opened s (s.getD a) off len))) ∧
    (s.th.lvl = 0 → exec .lend s = .next (takeTrap 7 1 0 s) ∧ exec .lbrk s = .next (takeTrap 7 1 0 s)) ∧
    (∀ l, s.th.lvl ≠ 0 → s.th.loops[s.th.lvl - 1]? = some l →
      (exec .lbrk s = .next (left s (l.stop + 4))) ∧
      ((l.index + 1).toNat < l.count.toNat → exec .lend s = .next ((reindexed s (l.index + 1)).setPc l.start)) ∧
      (l.count.toNat ≤ (l.index + 1).toNat → exec .lend s = .next (left (reindexed s (l.index + 1)) (s.th.pc + 4))))

/-- Every vector instruction of R138 to R143, R145 to R147 and R149 with a vector destination that is not `vput`, in all forms:
where its bound operands can be popped and appended to (u is the state after the pops), it completes; each executing lane of vA
receives the value of the rule computed from the old source lanes (floating: the lane function of its format under RM and TOPINF
of FMODE), excluded lanes keep theirs; the flags of the executing lanes, and of no others, become set in FMODE (none for integer
vectors); the pc moves on; nothing else changes. -/
def Obligations.VectorsWriteTheirLanes : Prop :=
  ∀ (i : Instr) (s u : State) (v : VecOp), intVectorOf s i = some v ∨ floatVectorOf s i = some v →
    useStreams (some v.dst) v.srcs s = .ok u → exec i s = .next (v.after s u)

/-- Where the bound operands can be popped and appended to, each completes and its pc moves on. `vcmp` and `vfcmp` in all forms: bit
k of pA becomes the comparison of lane k for an executing lane and keeps its value otherwise; NV becomes set for an executing
lane whose floating comparison signals. The reductions in both forms: dA receives the executing lanes combined in increasing
order from the identity (with none, the identity), sign-extended under .s32 and zero-extended under .n32. `vlane` writes the
named lane of vB to dA, zero-extended; `vput` writes the low 32 bits of D(B) to the named lane of vA where that lane executes,
and every other lane keeps its contents. -/
def Obligations.ComparisonsReductionsAndLaneMovesWrite : Prop :=
  ∀ (i : Instr) (s u : State),
    (∀ v : PredOp, vectorPredOf i = some v → useStreams none [v.b, v.c] s = .ok u →
      let mask := govMask s.th v.gov
      let r (k : Nat) := v.holds (lane (readVec s v.b) k) (lane (readVec s v.c) k)
      ∃ x : Lane, (∀ k, k < 32 → x.getLsbD k = if mask.getLsbD k then (r k).1 else (s.getP v.dst).getLsbD k) ∧
        exec i s = .next (((u.setP v.dst x).raise (laneFlags mask fun k => ⟨0, (r k).2⟩)).advance v.len)) ∧
    (∀ r : Reduction, reductionOf i = some r → useStreams none [r.src] s = .ok u →
      let x := r.value (govMask s.th r.gov) (readVec s r.src)
      exec i s = .next ((u.setD r.dst (if r.isUnsigned then .ofNat 64 x.toNat else .ofInt 64 x.toInt)).advance r.len)) ∧
    (∀ (a : DReg) (b : VReg) (l : BitVec 5), useStreams none [b] s = .ok u →
      let t := u.setD a (.ofNat 64 (lane (readVec s b) l.toNat).toNat)
      exec (.vlane a b l) s = .next (t.advance 4) ∧ exec (.vlaneX a b l) s = .next (t.advance 12)) ∧
    (∀ (a : VReg) (b : DReg) (l : BitVec 5) (g : Gov), useStreams (some a) [] s = .ok u →
      let put (g : Gov) := writeVec a (govMask s.th g &&& .ofNat 32 (2 ^ l.toNat)) (fun _ => .ofNat 32 (s.getD b).toNat) u
      exec (.vput a b l) s = .next ((put none).advance 4) ∧ exec (.vputX a b l g) s = .next ((put g).advance 12))

/-- In f32, f16 and bf16 under every rounding mode, with the encodings' values in rational numbers: the lane functions of `vfadd`,
`vfsub`, `vfmul`, `vfma`, `vfrcp` and `vfrsq` deliver the exact result rounded once: to the nearer of the two neighbouring
codes, a tie to the even one, or as RTZ, RDN and RUP say; subnormals are kept; an overflow gives infinity or the largest finite
value by R116; NaNs give the default NaN; exact zeros have R115's sign; NV, DZ, OF, UF and NX are set as R117 says, tininess
before rounding. `vfmin` and `vfmax` give an operand unchanged, -0 below +0; `vfabs` clears and `vfneg` inverts the sign;
`vfcmp` compares the values, a NaN as R148 says. A NaN addend of an invalid product sets no flag (log entry 30). -/
def Obligations.FloatingLanesAreRoundedOnce : Prop :=
  ∀ (t : FTy) (rm : Round) (a b c : Lane),
    let f := fmtOf t
    let v (x : Lane) := ieeeValue f x.toNat
    let gives (x : Value × Bool) (r : LaneResult) := IeeeGives f rm false x r.lane.toNat r.flags
    let n := (v b).isNaN || (v c).isNaN
    let less := (v b).lt (v c)
    gives ((v b).add rm (v c)) (laneFadd t rm b c) ∧
    gives ((v b).add rm (v c).negated) (laneFsub t rm b c) ∧
    gives ((v b).mul (v c)) (laneFmul t rm b c) ∧
    gives ((v b).fma rm (v c) (v a)) (laneFma t rm a b c) ∧
    RecipGives f rm (v b) (laneFrcp t rm b).lane.toNat (laneFrcp t rm b).flags ∧
    RsqrtGives f rm (v b) (laneFrsq t rm b).lane.toNat (laneFrsq t rm b).flags ∧
    (∀ max : Bool, laneFminmax max t b c =
      if n then ⟨.ofNat 32 f.nanBits, { nv := (v b).signals || (v c).signals }⟩
      else ⟨.ofNat 32 ((if (if max then (v b).before (v c) else (v c).before (v b)) then c else b).toNat % (2 * f.signBit)), {}⟩) ∧
    (laneFabs t b).toNat = b.toNat % f.signBit ∧ (laneFneg t b).toNat = (b.toNat % (2 * f.signBit)) ^^^ f.signBit ∧
    ∀ op, laneFloatCompare op t b c =
      (match op with
        | .eq => !n && !less && !(v c).lt (v b) | .ne => n || less || (v c).lt (v b) | .lt => !n && less | .ge => !n && !less,
       { nv := if op = .lt ∨ op = .ge then n else (v b).signals || (v c).signals })

/-- For every pair of integer, IEEE and tapered types, every rounding mode, TOPINF, plain and .sat, and every scale: the exact
source value (for tapered codes by the tables of R119 and R120, under TOPINF) times the power of two is delivered as R125's
table says: rounded once into an IEEE format; to an integer, out of range or NaN giving the bad value or the clamped one with
NV; between integers the low bits, or clamped (under a scale log entry 77 says what, and nothing is claimed here); into a
tapered format the nearest of the finite codes and zero, a tie to the even code, an overflow above the largest finite code in
every mode, without a negative zero. A lane of `vcvt` is such a conversion without a scale. -/
def Obligations.ConversionsFollowTheirTable : Prop :=
  (∀ (dt st : Ty) (rm : Round) (topinf sat : Bool) (scale : Int) (x : Nat),
    ConvertsTo dt st rm topinf sat scale x (convert dt st rm topinf sat scale x).bits (convert dt st rm topinf sat scale x).flags) ∧
  (∀ (dt st : Ty) (rm : Round) (topinf sat : Bool) (x : Lane), tySize dt ≤ 4 →
    ConvertsTo dt st rm topinf sat 0 x.toNat (laneConvert dt st rm topinf sat x).lane.toNat (laneConvert dt st rm topinf sat x).flags)

/-- Where no vector register of an instruction is bound, its operands are ready in the state as it is, a source reads as the
register, and a write changes exactly the lanes of the mask of that one register. A source register bound to a pattern: while
elements are left, one that lies outside the partition traps SCRATCH BOUND with its offset; past the last element it traps
STREAM_END with the generator number; an element inside one of whose granules is not full waits; one that is full but poisoned
ends the task with POISON; one that is full and clean is popped: the operand reads the 128 bytes at base plus position times
stride, and only the binding's position rises by one. -/
def Obligations.VectorOperandsAreRegistersOrStreams : Prop :=
  (∀ (s : State) (dst : Option VReg) (srcs : List VReg), (∀ r ∈ dst.toList ++ srcs, bindingOf s.th r = none) →
      useStreams dst srcs s = .ok s ∧ (∀ r ∈ srcs, readVec s r = s.th.getV r) ∧
      ∀ a ∈ dst.toList, ∀ (mask : Lane) (x : Nat → Lane), ∃ v : Lanes, writeVec a mask x s = { s with th := s.th.setV a v } ∧
        ∀ k, k < 32 → lane v k = if mask.getLsbD k then x k else lane (s.th.getV a) k) ∧
  (∀ (s : State) (r : VReg) (b : Binding), bindingOf s.th r = some b →
      let o : Int := b.base + b.pos * b.stride
      let inside := 0 ≤ o ∧ o + 128 ≤ s.th.spsize.toNat
      let key := scratchKey s.th o.toNat
      (b.pos < b.count → ¬ inside → useStreams none [r] s = .error (.trap 5 0 (.ofInt 64 o))) ∧
      (b.count ≤ b.pos → useStreams none [r] s = .error (.trap 6 b.gen 0)) ∧
      (b.pos < b.count → inside → (∃ g ∈ granulesOf key 128, isFull s g = false) → useStreams none [r] s = .error .block) ∧
      (b.pos < b.count → inside → (∀ g ∈ granulesOf key 128, isFull s g = true) → scratchPoisoned s key 128 = true →
        useStreams none [r] s = .error (.endTask 9)) ∧
      (b.pos < b.count → inside → (∀ g ∈ granulesOf key 128, isFull s g = true) → scratchPoisoned s key 128 = false →
        useStreams none [r] s = .ok { s with th := { s.th with
          binds := s.th.binds.setIfInBounds (r.toNat - 24) (some { b with pos := b.pos + 1 }) } } ∧
        ∀ k, k < 32 → (lane (readVec s r) k).toNat = scratchNat s (key + 4 * k) 4))

/-- `vbind` with a count above 0, a base and stride that are multiples of 16 and first and last elements inside the partition: where
a generator of the core is free apart from the register's own, it completes with the lowest one, position 0 and the pc 4
further; where none is, it traps STREAM_END with subcode 8. A count of 0 traps ILL VALUE. `vunbind` always completes: the
register is not bound and reads as zero. Where the spec leaves a point open it rests on the model's own reading: log entry 83. -/
def Obligations.BindingsOpenAndClose : Prop :=
  ∀ (s : State) (a : VReg) (b c : DReg),
    let base := (s.getD b).toNat
    let stride := ((s.getD c).extractLsb' 32 32).toInt
    let count := ((s.getD c).extractLsb' 0 32).toNat
    let last : Int := base + (count - 1 : Nat) * stride
    (count = 0 → exec (.vbind a b c) s = .next (takeTrap 1 9 0 s)) ∧
    (count ≠ 0 → base % 16 = 0 → stride % 16 = 0 → base + 128 ≤ s.th.spsize.toNat → 0 ≤ last → last + 128 ≤ s.th.spsize.toNat →
      (∀ g, g < 4 → g ∉ generatorsHeld s (some a) → (∀ k, k < g → k ∈ generatorsHeld s (some a)) →
        exec (.vbind a b c) s = .next ((setBinding a (some ⟨g, base, stride, count, 0⟩) s).advance 4)) ∧
      ((∀ g, g < 4 → g ∈ generatorsHeld s (some a)) → exec (.vbind a b c) s = .next (takeTrap 6 8 0 s))) ∧
    exec (.vunbind a) s = .next ({ (setBinding a none s) with
      th := (setBinding a none s).th.setV a (Vector.replicate 32 0) }.advance 4)

/-- `lds` and `sts` in both forms without a handle, at offset o: a misaligned o traps ALIGN SCRATCH and an access that leaves the
partition traps SCRATCH BOUND, each with EADDR o. A load, where the wait of W is over and, under .f and .fc, the full bit is
set, and the bytes are not poisoned, completes: dA receives the bytes extended by the type, .fc clears the full bit, .f and .fc
acquire at cluster scope (R272), and the pc moves on; where W is over but the full bit that .f or .fc needs is clear, outside a
cancel handler, it waits with no effect. A store, where the wait of W is over, completes: the type's number of low bytes of D(A)
stand at the offset, least significant first, .s sets the granule's full bit, the pc moves on, nothing else changes. -/
def Obligations.ScratchAccessesMoveTheirBytes : Prop :=
  ∀ (i : Instr) (s : State) (x : OwnAccess),
    (ownLoadOf s i = some x →
      let n := intSize x.ty
      let key := scratchKey s.th x.off
      (x.off % n ≠ 0 → exec i s = .next (takeTrap 4 0 (.ofNat 64 x.off) s)) ∧
      (x.off % n = 0 → s.th.spsize.toNat < x.off + n → exec i s = .next (takeTrap 5 0 (.ofNat 64 x.off) s)) ∧
      (x.off % n = 0 → x.off + n ≤ s.th.spsize.toNat → WaitOver x.w s.th →
        (x.full ≠ .plain → isFull s key = false → s.th.inHandler = false → exec i s = .next s.waitHere) ∧
        ((x.full = .plain ∨ isFull s key = true) → scratchPoisoned s key n = false →
          exec i s = .next (((afterFullLoad x.full key s).setD x.reg (extended x.ty (scratchNat s key n))).advance x.len)))) ∧
    (∀ (sets : Bool), ownStoreOf s i = some (x, sets) →
      let n := intSize x.ty
      let key := scratchKey s.th x.off
      let t := scratchPut key (bytesOf n (s.getD x.reg).toNat) s
      (x.off % n ≠ 0 → exec i s = .next (takeTrap 4 0 (.ofNat 64 x.off) s)) ∧
      (x.off % n = 0 → s.th.spsize.toNat < x.off + n → exec i s = .next (takeTrap 5 0 (.ofNat 64 x.off) s)) ∧
      (x.off % n = 0 → x.off + n ≤ s.th.spsize.toNat → WaitOver x.w s.th →
        exec i s = .next ((if sets then setFull key t else t).advance x.len)))

/-- For every X-form access with a handle: where the handle's checks and wait succeed (a load consumes, a store produces; a
satisfied consume acquires at tile scope, whatever its need, which gives s1), and the same access without the handle completes
from s1 without a trap or a wait, the access through the handle completes with the same next state. -/
def Obligations.AccessesThroughHandles : Prop :=
  ∀ (i j : Instr) (consumes : Bool) (h : HReg) (n : BitVec 4) (s s1 t : State), handleForm i = some (consumes, h, n, j) →
    waitHandle consumes (some (h, n)) s = .ok s1 → exec j s1 = .next t → t.th.trapped = false → t.th.waiting = false →
      exec i s = .next t

/-- `ldp` and `stp` in both forms, where no `ldp` of the thread has issued and waits: a misaligned offset traps ALIGN PEER, a target
core outside the issuing thread's cluster SCRATCH PEER_CORE, a slot without a context or an access beyond its partition SCRATCH
PEER_BOUND, each with EADDR the offset; else, where the wait of W is over, `stp` is posted with the target's array place and the
low bytes of D(A), and the thread's remote-scratch count rises by one, and `ldp` has issued at the target's place. An `ldp` that
has issued keeps its place while it waits, whatever becomes of the target. With no earlier `stp` of the thread to that slot
under way, the full bit set where it needs it and no poison at its place, it reads the extended value, .fc clearing the bit, .f
and .fc acquiring at cluster scope (R272). -/
def Obligations.PeerAccessesReachTheCluster : Prop :=
  ∀ (i : Instr) (s : State) (b : DReg) (x : OwnAccess) (st : Option Bool),
    ((peerLoadOf s i = some (b, x) ∧ st = none) ∨ (∃ f, peerStoreOf s i = some (b, x, f) ∧ st = some f)) →
    let n := intSize x.ty
    let target := peerOf (s.getD b)
    let sameCluster := clusterOfCore (coreOf target) = clusterOfCore (coreOf s.th.num)
    (st.isSome ∨ s.th.kept = none →
    (x.off % n ≠ 0 → exec i s = .next (takeTrap 4 1 (.ofNat 64 x.off) s)) ∧
    (x.off % n = 0 → ¬ sameCluster → exec i s = .next (takeTrap 5 2 (.ofNat 64 x.off) s)) ∧
    (x.off % n = 0 → sameCluster → (∀ u, s.thread? target = some u → u.spsize.toNat < x.off + n) →
      exec i s = .next (takeTrap 5 1 (.ofNat 64 x.off) s)) ∧
    (∀ u, x.off % n = 0 → sameCluster → s.thread? target = some u → x.off + n ≤ u.spsize.toNat → WaitOver x.w s.th →
      match st with
      | some sets => exec i s = .next ({ s with
          stores := s.stores ++ [({ sender := s.th.num, task := s.th.taskid, slot := u.num, key := scratchKey u x.off
                                    bytes := bytesOf n (s.getD x.reg).toNat, full := sets, step := s.fresh } : RemoteStore)]
          th := { s.th with cntRemote := s.th.cntRemote + 1 } }.advance x.len)
      | none => peerLoadDone s x target (scratchKey u x.off) → exec i s = .next (afterPeerLoad s x (scratchKey u x.off)))) ∧
    (∀ k r, st = none → s.th.kept = some (k :: r) → peerLoadDone s x target k → exec i s = .next (afterPeerLoad s x k))

/-- `fes` and `fec` trap ALIGN SCRATCH on an unaligned start or length and SCRATCH BOUND on a range beyond the partition, whatever
the length; else they complete: the full bits of the granules of the range are set or clear, every other full bit, memory and
register is as before, and the pc moves on by 4. -/
def Obligations.FullBitRangesAreSetAndCleared : Prop :=
  ∀ (s : State) (a b : DReg) (sets : Bool),
    let i : Instr := if sets then .fes a b else .fec a b
    let o := (s.getD a).toNat
    let n := (s.getD b).toNat
    (o % 16 ≠ 0 → exec i s = .next (takeTrap 4 0 (s.getD a) s)) ∧
    (o % 16 = 0 → n % 16 ≠ 0 → exec i s = .next (takeTrap 4 0 (s.getD b) s)) ∧
    (o % 16 = 0 → n % 16 = 0 → s.th.spsize.toNat < o + n → exec i s = .next (takeTrap 5 0 (s.getD a) s)) ∧
    (o % 16 = 0 → n % 16 = 0 → o + n ≤ s.th.spsize.toNat →
      ∃ full : List Nat, exec i s = .next ((s.onMem fun m => { m with full := full }).advance 4) ∧
        ∀ g, g ∈ full ↔ if ∃ k, k < n / 16 ∧ g = granuleOf (scratchKey s.th o + 16 * k) then sets = true else g ∈ s.mem.full)

/-- `push` and `pop` (both forms) of registers other than d0 and d2, with d2 a multiple of 8, and `push.v` and `pop.v` of unbound
registers, with d2 a multiple of 128, every slot at or above SPILLTOP and inside the partition, complete: a push stores the
named registers from the highest number down below the old d2 and lowers d2 by their size each; a pop of bytes that are not
poisoned reads them from the lowest number up and raises d2. `push dA` and `pop dA` with the slot below SPILLTOP: SPILLOVF not a
multiple of 8 traps ALIGN GLOBAL with EADDR SPILLOVF, SPILLOVF 0 traps SPILL NO_AREA; else a push whose global store of D(A) at
SPILLOVF is accepted raises SPILLOVF by 8 and lowers d2 by 8, and a pop whose global load below SPILLOVF completes lowers
SPILLOVF by 8, writes dA and raises d2 by 8. The pc moves on. -/
def Obligations.StackMovesNamedRegisters : Prop :=
  (∀ (i : Instr) (s : State) (pushes : Bool) (m : BitVec 32) (len : Nat), stackOf i = some (pushes, m, len) →
    m.getLsbD 0 = false → m.getLsbD 2 = false →
    let rs := namedRegs m
    let sp := (s.getD 2).toNat
    let bottom : Int := if pushes then (sp : Int) - 8 * rs.length else sp
    let top := if pushes then sp else sp + 8 * rs.length
    sp % 8 = 0 → 0 ≤ bottom → top ≤ s.th.spsize.toNat → top < 2 ^ 63 → s.th.spilltop.toInt ≤ bottom → s.th.lvl ≤ 4 →
    if pushes then
      exec i s = .next (((rs.zip (List.range rs.length)).reverse.foldl (fun u r =>
        scratchPut (scratchKey s.th (bottom.toNat + 8 * r.2)) (bytesOf 8 (s.getD (.ofNat 5 r.1)).toNat) u) s
        |>.setD 2 (.ofInt 64 bottom)).advance len)
    else
      scratchPoisoned s (scratchKey s.th sp) (8 * rs.length) = false →
      exec i s = .next (((rs.zip (List.range rs.length)).foldl (fun u r =>
        u.setD (.ofNat 5 r.1) (.ofNat 64 (scratchNat s (scratchKey s.th (sp + 8 * r.2)) 8))) s
        |>.setD 2 (.ofNat 64 top)).advance len)) ∧
  (∀ (s : State) (m : BitVec 32) (pushes : Bool), (∀ r ∈ namedRegs m, bindingOf s.th (.ofNat 5 r) = none) →
    let rs := namedRegs m
    let sp := (s.getD 2).toNat
    let bottom : Int := if pushes then (sp : Int) - 128 * rs.length else sp
    let top := if pushes then sp else sp + 128 * rs.length
    sp % 128 = 0 → 0 ≤ bottom → top ≤ s.th.spsize.toNat → top < 2 ^ 63 → s.th.spilltop.toInt ≤ bottom →
    if pushes then
      exec (.pushV m) s = .next (((rs.zip (List.range rs.length)).reverse.foldl (fun u r =>
        scratchPut (scratchKey s.th (bottom.toNat + 128 * r.2)) (bytesOfLanes (s.th.getV (.ofNat 5 r.1))) u) s
        |>.setD 2 (.ofInt 64 bottom)).advance 12)
    else
      scratchPoisoned s (scratchKey s.th sp) (128 * rs.length) = false →
      exec (.popV m) s = .next (((rs.zip (List.range rs.length)).foldl (fun u r =>
        { u with th := u.th.setV (.ofNat 5 r.1) (lanesOfBytes (scratchBytes s (scratchKey s.th (sp + 128 * r.2)) 128)) }) s
        |>.setD 2 (.ofNat 64 top)).advance 12)) ∧
  (∀ (s : State) (a : DReg) (pushes : Bool), a ≠ 0 → a ≠ 2 →
    let i : Instr := if pushes then .push a else .pop a
    let sp := s.getD 2
    let slot := if pushes then sp - 8 else sp
    let ovf := s.th.spillovf
    sp.toNat % 8 = 0 → slot.toInt < s.th.spilltop.toInt →
    (ovf.toNat % 8 ≠ 0 → exec i s = .next (takeTrap 4 2 ovf s)) ∧
    (ovf = 0 → exec i s = .next (takeTrap 12 0 0 s)) ∧
    (ovf.toNat % 8 = 0 → ovf ≠ 0 →
      (∀ u, pushes = true → storeGlobal 1 .normal ovf.toNat 8 (s.getD a).toNat (s.setD 2 slot) = .ok u →
        exec i s = .next ({ u with th := { u.th with spillovf := ovf + 8 } }.advance 4)) ∧
      (∀ x u, pushes = false → loadGlobal 1 .normal (ovf - 8).toNat 8 s = .ok (x, u) →
        exec i s = .next ((({ u with th := { u.th with spillovf := ovf - 8 } }.setD a (.ofNat 64 x)).setD 2 (sp + 8)).advance 4))))

/-- `vld`, `vlds`, `vst` and `vsts` in both forms without a handle: the lowest executing lane with a misaligned offset traps ALIGN
SCRATCH; with none (and, for a load, a register that is not bound) the lowest executing lane outside the partition traps SCRATCH
BOUND. Else, where a load's destination can be appended to, the wait of W is over and no word read is poisoned, each executing
lane receives its word and the others keep theirs; where a store's source can be popped, which leaves u, and the wait of W is
over, the executing lanes' words are written at their offsets in increasing lane order, so that of two lanes with one offset the
higher stays. The pc moves on; nothing else changes. -/
def Obligations.VectorAccessesMoveTheirLanes : Prop :=
  ∀ (i : Instr) (s : State) (x : VecAccess),
    (vecLoadOf s i = some x →
      let live := Safety.lanesOf (govMask s.th x.gov)
      let ok (k : Nat) := x.off k + 4 ≤ s.th.spsize.toNat
      (∀ k ∈ live, (∀ j ∈ live, j < k → x.off j % 4 = 0) → x.off k % 4 ≠ 0 →
        exec i s = .next (takeTrap 4 0 (.ofNat 64 (x.off k)) s)) ∧
      (bindingOf s.th x.reg = none → (∀ k ∈ live, x.off k % 4 = 0) → ∀ k ∈ live, (∀ j ∈ live, j < k → ok j) → ¬ ok k →
        exec i s = .next (takeTrap 5 0 (.ofNat 64 (x.off k)) s)) ∧
      ((∀ k ∈ live, x.off k % 4 = 0 ∧ ok k ∧ scratchPoisoned s (scratchKey s.th (x.off k)) 4 = false) → WaitOver x.w s.th →
        useStreams (some x.reg) [] s = .ok s →
        exec i s = .next ((writeVec x.reg (govMask s.th x.gov)
          (fun k => .ofNat 32 (scratchNat s (scratchKey s.th (x.off k)) 4)) s).advance x.len))) ∧
    (∀ (u : State), vecStoreOf s i = some x →
      let live := Safety.lanesOf (govMask s.th x.gov)
      let ok (k : Nat) := x.off k + 4 ≤ s.th.spsize.toNat
      (∀ k ∈ live, (∀ j ∈ live, j < k → x.off j % 4 = 0) → x.off k % 4 ≠ 0 →
        exec i s = .next (takeTrap 4 0 (.ofNat 64 (x.off k)) s)) ∧
      ((∀ k ∈ live, x.off k % 4 = 0) → ∀ k ∈ live, (∀ j ∈ live, j < k → ok j) → ¬ ok k →
        exec i s = .next (takeTrap 5 0 (.ofNat 64 (x.off k)) s)) ∧
      ((∀ k ∈ live, x.off k % 4 = 0 ∧ ok k) → WaitOver x.w s.th → useStreams none [x.reg] s = .ok u →
        exec i s = .next ((live.foldl (fun v k =>
          scratchPut (scratchKey s.th (x.off k)) (bytesOf 4 (lane (readVec s x.reg) k).toNat) v) u).advance x.len)))

/-- `vldx` and `vldx.zero` in both forms without a handle: where D(B) is a multiple of 4, the operands can be popped, the wait of W
is over, and every executing lane holds the sentinel, or lies at or above the bound in the `.zero` form, or reads a word inside
the partition that is not poisoned, the instruction completes: absent lanes become 0 and their bits of the governing predicate
0, the others receive their words, SHADOW becomes set exactly where a sentinel lies below the bound or there is no bound, and
the pc moves on. In the plain form with an index register that is not bound, the lowest executing lane that is at or above the
bound, with lower ones fine, traps SCRATCH INDEX. -/
def Obligations.GathersReadOrMaskTheirLanes : Prop :=
  ∀ (i : Instr) (s u : State) (g : GatherOp), gatherOf s i = some g → g.base.toNat % 4 = 0 →
    let mask := govMask s.th g.gov
    let live := Safety.lanesOf mask
    let index (k : Nat) := (lane (readVec s g.idx) k).toNat
    let absent (k : Nat) := g.isSentinel (index k) ∨ (g.zero = true ∧ g.isBeyond (index k))
    let fits (k : Nat) := absent k ∨ (¬ g.isBeyond (index k) ∧ g.off (index k) + 4 ≤ s.th.spsize.toNat)
    (useStreams (some g.dst) [g.idx] s = .ok u → WaitOver g.w s.th → (∀ k ∈ live, fits k) →
      (∀ k ∈ live, ¬ absent k → scratchPoisoned s (scratchKey s.th (g.off (index k))) 4 = false) →
      ∃ (x : Nat → Lane) (gone : Lane) (shadow : Bool),
        (∀ k ∈ live, (absent k → x k = 0) ∧
          (¬ absent k → x k = .ofNat 32 (scratchNat s (scratchKey s.th (g.off (index k))) 4))) ∧
        (∀ k, k < 32 → (gone.getLsbD k = true ↔ k ∈ live ∧ absent k)) ∧
        (shadow = true ↔ ∃ k ∈ live, g.isSentinel (index k) ∧ (g.bound = 0 ∨ g.sentinel < g.bound)) ∧
        exec i s = .next (((match g.gov with
          | some p => (writeVec g.dst mask x u).setP p (s.getP p &&& ~~~ gone)
          | none => writeVec g.dst mask x u).raise { shadow := shadow }).advance g.len)) ∧
    (g.zero = false → bindingOf s.th g.idx = none → bindingOf s.th g.dst = none →
      ∀ k ∈ live, (∀ j ∈ live, j < k → fits j) → ¬ g.isSentinel (index k) → g.isBeyond (index k) →
        exec i s = .next (takeTrap 5 3 (.ofNat 64 (g.off (index k))) s))

/-- `rld` and `rst` in both forms at offset o: a misaligned o traps ALIGN SCRATCH, a slot that leaves the partition SCRATCH BOUND;
else, where the wait of W is over, `rst` writes the region's 40 words, and `rld` of bytes that are not poisoned takes the region
that they encode, or traps REGION_FORM with the register's number where they encode none; the pc moves on. -/
def Obligations.RegionSlotsLoadAndStore : Prop :=
  ∀ (i : Instr) (s : State) (w : WClass) (a : QReg) (o len : Nat) (loads : Bool),
    regionAccessOf s i = some (w, a, o, len, loads) →
    (o % 16 ≠ 0 → exec i s = .next (takeTrap 4 0 (.ofNat 64 o) s)) ∧
    (o % 16 = 0 → s.th.spsize.toNat < o + 320 → exec i s = .next (takeTrap 5 0 (.ofNat 64 o) s)) ∧
    (o % 16 = 0 → o + 320 ≤ s.th.spsize.toNat → WaitOver w s.th →
      let key := scratchKey s.th o
      let ws := (List.range 40).map fun k => BitVec.ofNat 64 (scratchNat s (key + 8 * k) 8)
      if loads then
        scratchPoisoned s key 320 = false →
          exec i s = .next (if slotOk ws then (s.setQ a (regionOfSlot ws)).advance len else takeTrap 11 a.toNat 0 s)
      else exec i s = .next ((scratchPut key ((s.getQ a).slotWords.flatMap fun x => bytesOf 8 x.toNat) s).advance len))

/-- Every set operation, dilation, projection, split, translation, ragged mark, tensor change and inspection of a region, in all
forms and in every state: the first check of its list that fails, in the order of the rules, is taken as its trap with EADDR 0;
where all hold, it completes with its result in the destination register, the pc past it, and nothing else changed. -/
def Obligations.RegionInstructionsCheckAndComplete : Prop :=
  ∀ (i : Instr) (s : State) (o : RegionOp), regionOpOf s i = some o → exec i s = .next (o.next s)

/-- For compatible regions with RANK dimensions and 32-bit bounds: the cells stand in lexicographic order, each once, and are
counted and tested as such. `rhull` gives the box of the members between least and greatest, `rclip` the cells inside the
extents, `rdil` the cells inside the extents within the amounts of a cell, `rproj` the cells without the dropped coordinates,
`rsplit` the cells with ordinals floor(iN/k) to floor((i+1)N/k) - 1: exact where it does not overflow; in the approximating form
at least those cells, without overflow where the extents are below 2^31 (log entry 78). Tensor, RANK and RAG are the rule's.
`rstr` moves every bound, keeping boxes and APX, and overflows exactly where a bound leaves 32 bits. `rbox` gives an exact
region of its tensor with the cells of R182's box, or traps REGION_FORM. -/
def Obligations.RegionResultsHaveTheirCells : Prop :=
  (∀ (x y : Region) (ext : List Int) (a : List Nat) (offs : List Int) (tid : Option Nat) (mask i k : Nat), Shaped x → Shaped y →
    (∀ b ∈ x.boxes ++ y.boxes, boxInS32 b = true) → compatible x y = true → ext.length = x.rank → x.rank ≤ a.length →
    x.rank ≤ offs.length → mask < 16 → (∀ j, mask.testBit j = true → j < x.rank) → i < k →
    let cells := cellsInOrder x.rank x.cells
    let both (c : List Int) := inRegion c x ∨ inRegion c y
    let h := sharedHeader x y
    let t := regionTranslate offs x
    cells.Pairwise (· < ·) ∧ (∀ c, c ∈ cells ↔ inRegion c x) ∧ countCells x.rank x.cells = cells.length ∧
    (hasCell offs x = true ↔ inRegion (offs.take x.rank) x) ∧
    (∀ r ∈ [(regionHull false x y, regionHull true x y, h, fun (c : List Int) => c.length = h.rank ∧ (∃ u, both u) ∧ ∀ j < c.length,
            (∃ u, both u ∧ u.getD j 0 ≤ c.getD j 0) ∧ ∃ u, both u ∧ c.getD j 0 ≤ u.getD j 0),
        (regionClip false ext x, regionClip true ext x, x, fun (c : List Int) => inRegion c x ∧ ∀ j < x.rank, 0 ≤ c.getD j 0 ∧ c.getD j 0 < ext.getD j 0),
        (regionDilate false ext a x, regionDilate true ext a x, x, fun (c : List Int) => c.length = x.rank ∧
          (∀ j < x.rank, 0 ≤ c.getD j 0 ∧ c.getD j 0 < ext.getD j 0) ∧
          ∃ u, inRegion u x ∧ ∀ j < x.rank, (c.getD j 0 - u.getD j 0).natAbs ≤ a.getD j 0),
        (regionProject false mask tid x, regionProject true mask tid x,
          { x with tid := tid.getD 0, tv := tid.isSome, rank := x.rank - ((List.range 4).filter mask.testBit).length },
          fun (c : List Int) => ∃ u, inRegion u x ∧ c = (((u.zip (List.range u.length)).filter fun p => !mask.testBit p.2).map Prod.fst)),
        (regionSplit false i k x, regionSplit true i k x, x,
          fun (c : List Int) => ∃ n, cells[n]? = some c ∧ i * cells.length / k ≤ n ∧ n < (i + 1) * cells.length / k)],
      (r.1.ovf = false → ∀ c, inRegion c r.1 ↔ r.2.2.2 c) ∧
      ((∀ e ∈ ext, e < 2 ^ 31) → r.2.1.ovf = false ∧ ∀ c, r.2.2.2 c → inRegion c r.2.1) ∧
      ∀ q ∈ [r.1, r.2.1], q.tid = r.2.2.1.tid ∧ q.tv = r.2.2.1.tv ∧ q.rank = r.2.2.1.rank ∧ q.rag = r.2.2.1.rag) ∧
    (t.tid = x.tid ∧ t.tv = x.tv ∧ t.rank = x.rank ∧ t.rag = x.rag) ∧
    (x.ovf = false → (t.ovf = true ↔ ∃ b ∈ x.boxes, ∃ j, ∃ _ : j < b.length,
        ¬ (inS32 (b[j].lo + offs.getD j 0) = true ∧ inS32 (b[j].hi + offs.getD j 0) = true)) ∧
      (t.ovf = false → t.apx = x.apx ∧ t.boxes.length = x.boxes.length ∧
        ∀ c, inRegion c t ↔ ∃ u, inRegion u x ∧ c = (u.zip offs).map fun p => p.1 + p.2))) ∧
  (∀ (s : State) (a : QReg) (t : TReg) (b c : DReg) (j : BitVec 2) (s0 s1 : BitVec 3),
    (tensorRank s t.toNat ≤ j.toNat → exec (.rbox a t b c j s0 s1) s = .next (takeTrap 11 a.toNat 0 s)) ∧
    (∀ d, lookup t.toNat s.th.tensors = some d → j.toNat < d.rank →
      ∃ q : Region, exec (.rbox a t b c j s0 s1) s = .next ((s.setQ a q).advance 12) ∧
        q.tid = t.toNat ∧ q.tv = true ∧ q.rank = d.rank ∧ q.rag = false ∧ q.apx = false ∧
        (q.ovf = false → ∀ x, inRegion x q ↔ inBox x (boxDims s d b c j s0 s1))))

/-- For compatible regions whose boxes have their RANK's dimensions and 32-bit bounds, as a register holds them: an exact union,
intersection or difference that does not overflow has exactly the cells that the set operation gives on its operands' stored
cells; in the approximating form it never overflows and has at least those cells. -/
def Obligations.SetOperationsDenoteTheirSets : Prop :=
  ∀ (x y : Region), Shaped x → Shaped y → (∀ b ∈ x.boxes ++ y.boxes, boxInS32 b = true) → compatible x y = true →
    ∀ r ∈ [((regionUnion false x y, regionUnion true x y), fun c => inRegion c x ∨ inRegion c y),
        ((regionInter false x y, regionInter true x y), fun c => inRegion c x ∧ inRegion c y),
        ((regionDiff false x y, regionDiff true x y), fun c => inRegion c x ∧ ¬ inRegion c y)],
      (r.1.1.ovf = false → ∀ c, inRegion c r.1.1 ↔ r.2 c) ∧
      r.1.2.ovf = false ∧ ∀ c, r.2 c → inRegion c r.1.2

/-- Two unions of regions of one rank that stand for the same cells have the same list of boxes and the same overflow: the canonical
form is unique. -/
def Obligations.EqualCellsHaveEqualBoxes : Prop :=
  ∀ (x y : Region), Shaped x → Shaped y → x.rank = y.rank → (∀ c, inRegion c x ↔ inRegion c y) →
    let canonical (q : Region) := regionUnion false { q with ovf := false, tv := true } { q with ovf := false, tv := true, boxes := [] }
    (canonical x).boxes = (canonical y).boxes ∧ (canonical x).ovf = (canonical y).ovf

/-- On core 1 of a tile: a region of a set tensor in global memory whose checks hold (exact for tw.out), inside its extents, with
images that lie aligned in every named partition, and a timeline with room that takes the operation: the transfer completes with
one operation entered under the next number that moves exactly the region's cells, a ragged region's below the lengths read at
issue, between their global addresses and their images; the full bits of exactly the granules it writes are cleared; the
thread's tensor table records the offset; the rest is as before. Where the lengths cannot be read at issue, the operation enters
too, has them to read, and clears the full bits of every cell whose length the table gives (log entry 36). On another core the
instruction traps ENGINE OWNER. Where the spec leaves a point open it rests on the model's own reading: log entries 51, 94. -/
def Obligations.TransfersIssueTheirCells : Prop :=
  ∀ (i : Instr) (s : State) (x : TransferOp), transferOf s i = some x →
    let q := s.getQ x.reg
    let reader : EngOp := { (issuerOf s).op x.ctx.toNat (.transfer none) [] [] with targets := x.parts.map fun t => (t.num, t.taskid) }
    (coreOf s.th.num % 4 ≠ 1 → exec i s = .next (takeTrap 22 0x10 0 s)) ∧
    (∀ (d : Tensor) (s1 : State), coreOf s.th.num % 4 = 1 →
      TakesRegion s.th q d true (!x.inward) → (∀ t ∈ x.parts, ImagesFit d q.boxes x.off t) →
      TakesOp s (ownTile s) x.ctx.toNat (s.th.fmode.getLsbD 2) → TakesOp s1 (ownTile s) x.ctx.toNat (s.th.fmode.getLsbD 2) →
      lookup q.tid s1.th.tensors = some d →
      let cs := tableCoords q d (heads q.cells)
      let enters (o : EngOp) (written : Elem → Prop) : Prop :=
        ∃ (ctxs : List (Nat × EngCtx)) (full : List Nat) (pending : List (Nat × Nat)),
          let t := withIssue s1 o ctxs full pending (insert q.tid { d with img := x.off } s1.th.tensors)
          exec i s = .next (t.advance x.len) ∧ Entered s1 t o ∧ OwnOp s x.ctx.toNat o ∧ o.kind = .transfer none ∧
            ClearsGranules s1.mem.full full written
      (∀ ns refused, LengthsRead reader (tableEntries d cs) ns refused s s1 → ∃ o, enters o (movedBy o) ∧
        o.status = (if refused then some 3 else none) ∧
        ∀ e, movedBy o e ↔ ∃ c ∈ cellsCounted q cs ns, ∃ p ∈ x.parts, e = cellElem d x.off p x.inward c) ∧
      (∀ srcs, LengthsLater reader (tableEntries d cs) srcs s s1 → ∃ (o : EngOp) (lists : List (List LenCell)),
        let known (e : Elem) : Prop := ∃ c ∈ cellsInOrder q.rank q.cells, c.headD 0 ∈ cs ∧ ∃ p ∈ x.parts, e = cellElem d x.off p x.inward c
        enters o known ∧ o.status = none ∧ o.jobs = [.lengths srcs lists] ∧ ∀ e, (∃ l ∈ lists.flatten, e ∈ l.elems) ↔ known e))

/-- On core 2 of a tile, with two regions whose checks hold, lengths of ragged ones that are read at issue and a timeline that takes
the operation: unequal counts of cells trap ENGINE with subcode 0x15; where the hulls of the two places do not meet, the
operation enters and moves the k-th source cell to the k-th destination cell with the tensors' formats and scales; where they
meet, unequal formats or scales or shifts trap COPY_OVERLAP, and a copy inside the partition takes its values, with their
poison, at issue. Lengths that cannot be read at issue are left for the operation to read (log entry 36). On another core the
instruction traps ENGINE OWNER. -/
def Obligations.ConversionsPairTheirCells : Prop :=
  ∀ (s : State) (e : EReg) (b c : QReg) (sat : Bool),
    let i : Instr := if sat then .cvtSat e b c else .cvt e b c
    (coreOf s.th.num % 4 ≠ 2 → exec i s = .next (takeTrap 22 0x10 0 s)) ∧
    (∀ (db dc : Tensor) (s1 : State), coreOf s.th.num % 4 = 2 →
      TakesRegion s.th (s.getQ b) db false true → TakesRegion s.th (s.getQ c) dc false true →
      (db.loc = true → ImagesFit db (s.getQ b).boxes db.base s.th) → (dc.loc = true → ImagesFit dc (s.getQ c).boxes dc.base s.th) →
      TakesOp s (ownTile s) e.toNat (s.th.fmode.getLsbD 2) → TakesOp s1 (ownTile s) e.toNat (s.th.fmode.getLsbD 2) →
      let conv : Conv := ⟨db.format, dc.format, db.scale, dc.scale, sat, decide (db.format = dc.format ∧ db.scale = dc.scale)⟩
      let reader : EngOp := (issuerOf s).op e.toNat (.transfer (some conv)) [] []
      let bt := tableCoords (s.getQ b) db (heads (s.getQ b).cells)
      let ct := tableCoords (s.getQ c) dc (heads (s.getQ c).cells)
      let table := tableEntries db bt ++ tableEntries dc ct
      let enters (o : EngOp) : Prop := ∃ (ctxs : List (Nat × EngCtx)) (full : List Nat) (pending : List (Nat × Nat)),
        let t := withIssue s1 o ctxs full pending s1.th.tensors
        exec i s = .next (t.advance 4) ∧ Entered s1 t o ∧ OwnOp s e.toNat o ∧ o.kind = .transfer (some conv)
      (∀ srcs, LengthsLater reader table srcs s s1 → ∃ (o : EngOp) (lists : List (List LenCell)), enters o ∧ o.jobs = [.lengths srcs lists]) ∧
      (∀ ns refused, LengthsRead reader table ns refused s s1 →
        let dst := (cellsCounted (s.getQ b) bt ns).map (placeOf s.th db)
        let src := (cellsCounted (s.getQ c) ct (ns.drop bt.length)).map (placeOf s.th dc)
        let meets := db.loc = dc.loc ∧ Meets (dst.map Loc.addr) (src.map Loc.addr) db.size dc.size
        let same := db.format = dc.format ∧ db.scale = dc.scale ∧
          ∃ k : Int, ∀ p ∈ dst.zip src, (p.1.addr : Int) - p.2.addr = k
        (dst.length ≠ src.length → exec i s = .next (takeTrap 22 0x15 0 s)) ∧
        (dst.length = src.length → meets → ¬ same → exec i s = .next (takeTrap 24 0 0 s)) ∧
        ∀ value : Loc → Loc, dst.length = src.length → (¬ meets ∧ value = id) ∨ (meets ∧ same ∧ db.loc = true ∧
            value = fun l => .imm (scratchBytes s1 l.addr dc.size) (scratchPoisoned s1 l.addr dc.size) false) →
          ∃ o, enters o ∧ o.status = (if refused then some 3 else none) ∧
            ∀ el, movedBy o el ↔ ∃ p ∈ dst.zip src, el = ⟨value p.2, dc.size, p.1, db.size⟩))

/-- An action of a transfer or conversion that can be made, whose sources are read and whose elements lie in one granule: into a
partition of a die that is not fenced, each element receives the source bytes as they are, or converted by the two tensors'
formats and scales (the conversion of R123 to R127), with their poison; the flags of the conversions gather in the operation; a
source that a protection refused gives it status 3; the granule counts as written, its pending mark, if the operation holds one,
ends, and the action is gone from what is left; nothing else changes. An element alone in its granule of local memory: once the
action has been made, its bytes stand at the physical place that it was written to. -/
def Obligations.GranulesMoveWhole : Prop :=
  ∀ (s s1 : State) (o : EngOp) (j : Nat) (es : List Elem) (mark : Option Nat) (conv : Option Conv) (ds : List EngData),
    o.kind = .transfer conv → CanAct s o j (.granule es mark) → overwritten o j = none → es ≠ [] →
    gatherSources o (es.map fun e => (e.src, e.ssize)) s = .ok (.data ds, s1) →
    ∃ outs : List (List Byte × Flags), outs.length = es.length ∧
      (∀ (k : Nat) (e : Elem) (d : EngData) (r : List Byte × Flags), es[k]? = some e → ds[k]? = some d → outs[k]? = some r → ElementGives o e d.bytes r) ∧
      (∀ g, (∀ e ∈ es, ∃ key, e.dst = .scr key ∧ key / 16 = g) → ((s1.dies[dieOfCore (16 * g / 327680)]?).getD {}).fenced = false →
        let written := (es.zip (outs.zip ds)).foldl (fun u x => match x.1.dst with
          | .scr key => putElement u key x.2.1.1 x.2.2.poison
          | _ => u) s1
        granuleStep o j s = some (putOp
          { o with
            status := if ds.any fun d => d.refused then some 3 else o.status
            flags := outs.foldl (fun f r => f ||| r.2.bits) o.flags
            jobs := o.jobs.eraseIdx j, made := o.made + 1, marks := o.marks.filter fun m => m ≠ 16 * g }
          (if 16 * g ∈ o.marks then endPending (16 * g) written else written))) ∧
      (∀ e va pa s2 d r u, es = [e] → e.dst = .glob va → ds = [d] → outs = [r] → s1.mem.watches = [] →
        engTarget o ⟨va, r.1, d.poison⟩ s1 = .ok (some pa, s2) → isRemote pa = false → pa % 16 + r.1.length ≤ 16 →
        granuleStep o j s = some u → readBytes u.mem.dram pa r.1.length = r.1)

/-- On core 1 of a tile, with a defined handle of the thread's task that no other walk holds in that direction, an aligned walk
record inside the partition that is not poisoned and encodes a walk, a region of a set tensor in global memory whose first and
last positions lie inside the extents, slots that hold every cell's place (log entry 92), lengths of a ragged region that are
read at issue, and a timeline that takes the operation: `tw.walk` completes; its operation has one step for each count, each
moving exactly the region's cells, moved by that many steps, that count there, between global memory and the slot; the handle
names it as its producer, or, for a walk that writes back, as its consumer. -/
def Obligations.WalksHoldTheirHandle : Prop :=
  ∀ (s s1 : State) (e : EReg) (b : DReg) (h : HReg) (n : BitVec 4) (ent : HandleEnt) (r : WalkRecord) (d : Tensor) (m : List Int)
    (ns : List Nat) (refused : Bool),
    let at' := (s.getD b).toNat
    let cells := cellsInOrder r.region.rank r.region.cells
    let key := handleKey s.th h.toNat
    let firsts := (heads r.region.cells).flatMap fun c => (List.range r.count).map fun (k : Nat) => c + k * r.step.headD 0
    let cs := tableCoords r.region d firsts.eraseDups
    coreOf s.th.num % 4 = 1 → lookup key s.eng.handles = some ent → ent.task = s.th.taskid → n.toNat ≤ ent.slots.length →
    at' % 16 = 0 → at' + 384 ≤ s.th.spsize.toNat → scratchPoisoned s (scratchKey s.th at') 384 = false →
    parseWalk (scratchBytes s (scratchKey s.th at') 384) = some r → lookup r.tid s.th.tensors = some d →
    TakesRegion s.th { r.region with tid := r.tid } d true r.writesBack → Shaped r.region →
    InExtents d (moveBoxes r.step (r.count - 1) r.region.boxes) →
    m.length = r.region.rank → LeastCorner r.region.boxes m →
    (∀ c ∈ cells, let o := d.off ((c.zip m).map fun x => x.1 - x.2); 0 ≤ o ∧ o + d.size ≤ 16 * ent.ssize) →
    (if r.writesBack then ent.consumer else ent.producer) = none →
    TakesOp s (ownTile s) e.toNat (s.th.fmode.getLsbD 2) →
    LengthsRead ((issuerOf s).op e.toNat (.walk h.toNat r.writesBack n.toNat [] []) [] []) (tableEntries d cs) ns refused s s1 →
    TakesOp s1 (ownTile s) e.toNat (s.th.fmode.getLsbD 2) → s1.eng = s.eng →
    ∃ (o : EngOp) (steps : List (List Elem)) (ctxs : List (Nat × EngCtx)),
      let hold := some (e.toNat, o.num)
      let ent' := if r.writesBack then { ent with consumer := hold } else { ent with producer := hold }
      let t : State := { s1 with eng := { s.eng with ops := s.eng.ops ++ [o], ctxs := ctxs, handles := insert key ent' s.eng.handles } }
      exec (.twWalk e b h n) s = .next (t.advance 12) ∧ Entered s t o ∧ OwnOp s e.toNat o ∧ o.status = (if refused then some 3 else none) ∧
        o.kind = .walk h.toNat r.writesBack n.toNat steps [] ∧ steps.length = r.count ∧
        ∀ k (hk : k < steps.length), ∀ el, el ∈ steps[k] ↔ ∃ c ∈ cells,
          countsCell r.region.rag cs ns (moveCell r.step k c) = true ∧ el = walkElem d m r.step r.writesBack k c

/-- The collectives, with a length of 1 to 2^32 - 1 and a record address that is a multiple of 32, and `ckpt` over an exact region
that its checks take, on a timeline that takes the operation, complete with one operation entered, whose first action is the
read of its record. A drain takes every cell once in order and sets a draining mark on exactly the granules of its cells; one
without a cell has nothing to do and reads no record. The record read: a collective's that keeps its layout, in a group that has
this device and more members than the root, gives the operation the record's fields and, for each 32 elements, the actions of
this member's part and of its result, else the operation fails with REMOTE (5); a drain's gives it its target's fields, else
MEDIA (6). Where the spec leaves a point open it rests on the model's own reading: log entry 50. -/
def Obligations.CollectivesAndDrainsReadTheirRecord : Prop :=
  (∀ (s s1 : State) (e : EReg), TakesOp s (ownTile s) e.toNat (s.th.fmode.getLsbD 2) →
    (∀ (i : Instr) (op : Nat) (b c : DReg) (ty : Ty) (len : Nat), collectiveOf i = some (op, e, b, c, ty, len) →
      0 < (s.getD c).toNat → (s.getD c).toNat < 2 ^ 32 → (s.getD b).toNat % 32 = 0 →
      ∃ (o : EngOp) (ctxs : List (Nat × EngCtx)),
        let t : State := { s with eng := { s.eng with ops := s.eng.ops ++ [o], ctxs := ctxs } }
        exec i s = .next (t.advance len) ∧ Entered s t o ∧ OwnOp s e.toNat o ∧ o.status = none ∧
          o.kind = .collective op 0 (tyCode ty).toNat (s.getD c).toNat 0 0 0 0 ∧ o.jobs = [.record (s.getD b).toNat []]) ∧
    (∀ (b : QReg) (c : DReg) (d : Tensor) (ns : List Nat),
      TakesRegion s.th (s.getQ b) d true true → (s.getD c).toNat % 32 = 0 →
      let cs := tableCoords (s.getQ b) d (heads (s.getQ b).cells)
      let cells := cellsCounted (s.getQ b) cs ns
      LengthsRead ((issuerOf s).op e.toNat (.drain 2 0 0 [] false) [.record (s.getD c).toNat []] []) (tableEntries d cs) ns false s s1 →
      TakesOp s1 (ownTile s) e.toNat (s.th.fmode.getLsbD 2) →
      ∃ (o : EngOp) (ctxs : List (Nat × EngCtx)) (drains : List DrainMark),
        let t : State := { s1 with
          eng := { s1.eng with ops := s1.eng.ops ++ [o], ctxs := ctxs }
          mem := { s1.mem with drains := s1.mem.drains ++ drains } }
        exec (.ckpt e b c) s = .next (t.advance 4) ∧ Entered s1 t o ∧ OwnOp s e.toNat o ∧ o.status = none ∧
          (∀ el, movedBy o el ↔ ∃ k, ∃ h : k < cells.length, el = ⟨.glob (d.addr cells[k]), d.size, .out (d.size * k), d.size⟩) ∧
          (∀ g, (∃ m ∈ drains, m.asid = s.th.asid ∧ m.granule = g) ↔ ∃ c ∈ cells, g = d.addr c / 16) ∧
          (cells ≠ [] → o.kind = .drain 2 0 0 (List.replicate (d.size * cells.length) 0) false ∧
            o.jobs.head? = some (.record (s.getD c).toNat [])) ∧
          (cells = [] → o.jobs = []))) ∧
  (∀ (s s1 : State) (o : EngOp) (va : Nat) (ds : List EngData),
    gatherSources o ((List.range 4).map fun k => (.glob (va + 8 * k), 8)) s = .ok (.data ds, s1) → (∀ d ∈ ds, d.refused = false) →
    let field := Safety.recordField (ds.flatMap fun d => d.bytes)
    (∀ op red ty n a b g r, o.kind = .collective op red ty n a b g r →
      let layout := field 19 1 = 0 ∧ field 22 10 = 0 ∧ field 18 1 ≤ 2 ∧ (op = 2 → field 18 1 = 0) ∧ (op = 1 → field 20 2 = 0)
      (∀ ms, layout → lookup (field 16 2) s1.eng.groups = some ms → s1.fab.device ∈ ms → field 20 2 < ms.length →
        let isRoot := ms.findIdx (· = s1.fab.device) = field 20 2
        ∃ js, readRecord o va [] s = .ok (js,
            { o with kind := .collective op (field 18 1) ty n (field 0 8) (field 8 8) (field 16 2) (field 20 2) }, s1) ∧
          ∀ result k, .chunk result k [] ∈ js ↔ k % 32 = 0 ∧ k < n ∧ (if result then op ≠ 0 ∨ isRoot else op ≠ 2 ∨ isRoot)) ∧
      (¬ (layout ∧ ∃ ms, lookup (field 16 2) s1.eng.groups = some ms ∧ s1.fab.device ∈ ms ∧ field 20 2 < ms.length) →
        readRecord o va [] s = .error (.fail 5))) ∧
    (∀ k a b out sent, o.kind = .drain k a b out sent →
      let good := field 0 1 ≤ 1 ∧ field 1 3 = 0 ∧ field 16 16 = 0
      (good → readRecord o va [] s = .ok ([], { o with kind := .drain (field 0 1) (field 4 4) (field 8 8) out false }, s1)) ∧
      (¬ good → readRecord o va [] s = .error (.fail 6))))

/-- `hdef` on a free handle with a well-formed value whose slots lie aligned in the partition of the thread itself or of one of its
triad defines it with every slot free; on a defined handle of the thread's task: `hfree` frees it where no engine operation
holds it; `hwait` with its full slots there goes on after an acquire at tile scope, whatever its need, and waits with nothing
changed where they are not there and no operation failed; `hstat` reads the state word; `adv.c` frees the next full slots,
`adv.p`, after its release at tile scope, fills the next free slots, each moving its index round the ring. An undefined handle,
a need above its slots or another task's handle trap HANDLE with subcode 0, 1 or 2. -/
def Obligations.HandlesKeepTheirRing : Prop :=
  ∀ (s : State) (h : HReg) (a : DReg) (n : BitVec 4),
    let key := handleKey s.th h.toNat
    let set (f : HandleEnt) (u : State) : State := { u with eng := { u.eng with handles := insert key f u.eng.handles } }
    let v := (s.getD a).toNat
    let slots := v / 2 ^ 52 % 16 + 1
    let ssize := v / 2 ^ 32 % 65536
    let num := 16 * ownTile s + 4 * (v / 2 ^ 56 % 4) + v / 2 ^ 58 % 4
    (∀ t, lookup key s.eng.handles = none → v / 2 ^ 60 = 0 → v / 2 ^ 48 % 16 = 0 → ssize ≠ 0 → s.thread? num = some t →
      mayHold s t = true → v % 2 ^ 32 % 16 = 0 → v % 2 ^ 32 + 16 * ssize * slots ≤ t.spsize.toNat →
      exec (.hdef h a) s = .next ((set ⟨s.th.taskid, num, ssize, v % 2 ^ 32, List.replicate slots .free, 0, 0, 0, 0, none, none⟩
        s).advance 4)) ∧
    (lookup key s.eng.handles = none → ∀ i ∈ [Instr.hfree h, .hwait h n, .hstat a h, .advC h n, .advP h n],
      exec i s = .next (takeTrap 8 0 (.ofNat 64 h.toNat) s)) ∧
    ∀ e, lookup key s.eng.handles = some e →
      let full := (e.slots.filter fun x => x = .full).length
      let free := (e.slots.filter fun x => x = .free).length
      let ring (first : Nat) := (List.range n.toNat).map fun k => (first + k) % e.slots.length
      (e.slots.length < n.toNat → ∀ i ∈ [Instr.hwait h n, .advC h n, .advP h n], exec i s = .next (takeTrap 8 1 (.ofNat 64 h.toNat) s)) ∧
      (n.toNat ≤ e.slots.length → e.task ≠ s.th.taskid → ∀ i ∈ [Instr.hfree h, .hwait h n, .hstat a h, .advC h n, .advP h n],
        exec i s = .next (takeTrap 8 2 (.ofNat 64 h.toNat) s)) ∧
      (e.task = s.th.taskid → n.toNat ≤ e.slots.length →
        (e.producer = none → e.consumer = none →
          exec (.hfree h) s = .next ({ s with eng := { s.eng with handles := remove key s.eng.handles } }.advance 4)) ∧
        (n.toNat ≤ full → exec (.hwait h n) s = .next ((acquire 3 s).advance 4)) ∧
        (full < n.toNat → e.fail = 0 → s.th.inHandler = false →
          exec (.hwait h n) s = .next { s with th := { s.th with waiting := true } }) ∧
        exec (.hstat a h) s = .next ((s.setD a (.ofNat 64 (free + 2 ^ 8 * full + 2 ^ 16 * (e.slots.length - 1) + 2 ^ 20 * e.prod +
          2 ^ 24 * e.cons + 2 ^ 28 * e.fail + ((List.range e.slots.length).map fun k => 2 ^ (32 + 2 * k) * match e.slots[k]? with
            | some .filling => 1 | some .full => 2 | some .draining => 3 | _ => 0).sum))).advance 4) ∧
        (e.consumer = none → (∀ k ∈ ring e.cons, e.slots[k]? = some .full) →
          exec (.advC h n) s = .next ((set { e with
            slots := (ring e.cons).foldl (fun l k => l.set k .free) e.slots, cons := (e.cons + n.toNat) % e.slots.length } s).advance 4)) ∧
        (e.producer = none → (∀ k ∈ ring e.prod, e.slots[k]? = some .free) → ∀ u, releaseAt 3 s = .ok u →
          u.eng.handles = s.eng.handles →
          exec (.advP h n) s = .next ((set { e with
            slots := (ring e.prod).foldl (fun l k => l.set k .full) e.slots, prod := (e.prod + n.toNat) % e.slots.length } u).advance 4)))

/-- `tlrd` writes the timeline's issued number. `tlw` for a number that is issued and completed covers it and acquires at the
engine's level; it goes on where no failure is new to the thread (the X form writes 0), else the plain form traps ENGINE with
the status, TOPCODE with subcode 2 or ACHK with the stream number, and the X form writes the status except that TOPCODE traps;
for a number not completed it waits. `mstat` in both forms on core 3, at its first execution: while an operation issued so far
is in flight it waits; else it covers and acquires, a new failure TOPCODE or ACHK traps as such, and otherwise dA receives the
issued number above bit 32, the failure's status in bits 31:28, the tile's health count in bits 23:16 and retry count in bits
7:0 (as fields of R330), and the pc moves on. -/
def Obligations.TimelinesReportOnce : Prop :=
  (∀ (s : State) (e : EReg) (a b : DReg),
      let n := (s.getD b).toNat
      let c := engCtx s (ownTile s) e.toNat
      let seen := { s with th := { s.th with covered := s.th.covered.setIfInBounds e.toNat (max ((s.th.covered[e.toNat]?).getD 0) n) } }
      let u := acquire (if e.toNat = 6 ∨ e.toNat = 7 then 6 else if 8 ≤ e.toNat ∧ e.toNat < 12 then 1 else 5) seen
      exec (.tlrd a e) s = .next ((s.setD a (.ofNat 64 c.issued)).advance 4) ∧
      (¬ Covered s e.toNat n → s.th.inHandler = false →
        ∀ i ∈ [Instr.tlw e b, .tlwX e b a], exec i s = .next { s with th := { s.th with waiting := true } }) ∧
      (Covered s e.toNat n → ¬ Reports s e.toNat n →
        exec (.tlw e b) s = .next (u.advance 4) ∧ exec (.tlwX e b a) s = .next ((u.setD a 0).advance 12)) ∧
      (Covered s e.toNat n → Reports s e.toNat n →
        (c.abnStatus = 2 → ∀ i ∈ [Instr.tlw e b, .tlwX e b a], exec i s = .next (takeTrap 21 2 (.ofNat 64 c.abn) u)) ∧
        (c.abnStatus ≠ 2 → c.abnStatus ≠ 7 →
          exec (.tlw e b) s = .next (takeTrap 22 c.abnStatus (.ofNat 64 c.abn) u) ∧
          exec (.tlwX e b a) s = .next ((u.setD a (.ofNat 64 c.abnStatus)).advance 12)) ∧
        (c.abnStatus = 7 → ∃ ctxs, let w : State := { u with eng := { u.eng with ctxs := ctxs } }
          (engCtx w (ownTile s) e.toNat).halted = false ∧
          exec (.tlw e b) s = .next (takeTrap 27 (e.toNat - 8) (.ofNat 64 c.abnAddr) w) ∧
          exec (.tlwX e b a) s = .next ((w.setD a 7).advance 12)))) ∧
  (∀ (i : Instr) (s : State) (a : DReg) (st : BitVec 5) (len : Nat),
      (i = .mstat a st ∧ len = 4) ∨ (i = .mstatX a st ∧ len = 12) → coreOf s.th.num % 4 = 3 → s.th.micro = 0 → st.toNat < 4 →
      let ctx := 8 + st.toNat
      let c := engCtx s (ownTile s) ctx
      let seen := { s with th := { s.th with
        covered := s.th.covered.setIfInBounds ctx (max ((s.th.covered[ctx]?).getD 0) c.issued) } }
      let u := acquire 1 seen
      let tile := (lookup (ownTile s) u.eng.tiles).getD {}
      let value (status : Nat) : Word := .ofNat 64 (2 ^ 32 * c.issued + 2 ^ 28 * status + 2 ^ 16 * tile.health + tile.retry)
      (Covered s ctx c.issued → ¬ Reports s ctx c.issued → exec i s = .next ((u.setD a (value 0)).advance len)) ∧
      (Covered s ctx c.issued → Reports s ctx c.issued →
        (c.abnStatus ≠ 2 → c.abnStatus ≠ 7 → exec i s = .next ((u.setD a (value c.abnStatus)).advance len)) ∧
        (c.abnStatus = 2 → exec i s = .next (takeTrap 21 2 (.ofNat 64 c.abn) u)) ∧
        (c.abnStatus = 7 → ∃ ctxs, exec i s = .next (takeTrap 27 st.toNat (.ofNat 64 c.abnAddr)
          { u with eng := { u.eng with ctxs := ctxs } }))) ∧
      (¬ Covered s ctx c.issued → s.th.inHandler = false →
        exec i s = .next { s with th := { s.th with micro := 1, awaits := c.issued, waiting := true } }))

/-- `tset` and `tget` at an aligned offset with 64 bytes inside the partition: `tset` of bytes that are not poisoned takes the
tensor they describe, empties the entry for RANK 0, and traps ENGINE with subcode 0x11 where they describe none; `tget` writes
the 64 bytes of the entry. `rwait` over a region whose checks hold and whose images' full bits are set acquires at tile scope
and goes on, and waits while a bit is clear, keeping the lengths of a ragged region that it has read, which is the model's
reading (log entry 36). `rprot`, with nothing of the thread under way and its lines written back, replaces the task's protection
of that mode by exactly the byte ranges of the region's cells. -/
def Obligations.TensorsAndProtectionsAreSet : Prop :=
  ∀ (s : State),
    (∀ (t : TReg) (b : DReg) (i : BitVec 32),
      let o := longOffset s b i
      let key := scratchKey s.th o
      (o % 16 ≠ 0 → ∀ j ∈ [Instr.tset t b i, .tget t b i], exec j s = .next (takeTrap 4 0 (.ofNat 64 o) s)) ∧
      (o % 16 = 0 → s.th.spsize.toNat < o + 64 → ∀ j ∈ [Instr.tset t b i, .tget t b i],
        exec j s = .next (takeTrap 5 0 (.ofNat 64 o) s)) ∧
      (o % 16 = 0 → o + 64 ≤ s.th.spsize.toNat →
        exec (.tget t b i) s = .next ((scratchPut key ((lookup t.toNat s.th.tensors).getD {}).bytes s).advance 12) ∧
        (scratchPoisoned s key 64 = false → exec (.tset t b i) s = .next (match parseTensor (scratchBytes s key 64) with
          | none => takeTrap 22 0x11 (.ofNat 64 o) s
          | some d =>
            (s.setTensors (if d.rank = 0 then remove t.toNat s.th.tensors else insert t.toNat d s.th.tensors)).advance 12)))) ∧
    (∀ (a : QReg) (d : Tensor) (lens : List (Int × Nat)) (s1 : State), TakesRegion s.th (s.getQ a) d true true →
      ownLens (s.getQ a) d s = .ok (lens, s1) →
      let cells := countedCells (s.getQ a) lens
      let kept := forgetWaits s
      (d.img % d.size = 0 → ImagesFit d (s.getQ a).boxes d.img s.th →
        let isSet := ∀ c ∈ cells, ∀ g ∈ granulesOf (scratchKey s1.th ((d.img : Int) + d.off c).toNat) d.size, isFull s1 g = true
        (isSet → exec (.rwait a) s = .next ((acquire 3 s1).advance 4)) ∧
        (¬ isSet → s.th.inHandler = false → s1.th.inHandler = false → exec (.rwait a) s = .next (
          if lens = [] then { s with th := { s.th with waiting := true } }
          else { kept with th := { kept.th with kept := some (lens.map Prod.snd), waiting := true } }))) ∧
      (∀ (mode : BitVec 5) (s2 : State), s1.th.cntRemote = 0 → s1.th.cntGlobal = 0 → s1.th.cntDevice = 0 →
        flushLines s1.th.asid (fun va => ((cells.map fun c => d.addr c / 128).eraseDups).contains (va / 128)) s1 = some s2 →
        let others := s2.mem.prots.filter fun p => !(p.task = s2.th.taskid && p.mode = mode.toNat)
        let own : Prot := ⟨s2.th.taskid, s2.th.asid, mode.toNat, cells.map fun c => (d.addr c, d.size)⟩
        exec (.rprot a mode) s =
          .next ((s2.onMem fun m => { m with prots := if cells = [] then others else others ++ [own] }).advance 4)))

/-- With an aligned record inside the partition that is not poisoned, `wcmd`, `ccmd`, and `mcmd` on core 3, complete: a command with
the record's bytes as they stand, the capability, the target, the sender's scope and its modes is under way, and the remote-
scratch count rises by one. On core 3 `mcap` of a well-formed request mints a key that is not 0 and not live in that table and
answers the capability, and answers 0 where the table holds 16 keys; another request traps ILL VALUE; `mrev` removes the key
that its capability of this tile names and always completes. Where the spec leaves a point open it rests on the model's own
reading: log entry 5. -/
def Obligations.CommandsArePosted : Prop :=
  ∀ (s : State),
    (∀ (i : Instr) (engine : Nat) (a b : DReg) (target : Word) (n : Nat), commandOf s i = some (engine, a, b, target, n) →
      let o := (s.getD b).toNat
      let c : Command := { sender := s.th.num, senderTask := s.th.taskid, scope := s.th.scopeid, asid := s.th.asid, engine := engine
                           cap := s.getD a, target := target, record := scratchBytes s (scratchKey s.th o) n
                           rm := s.th.fmode.toNat % 4, topinf := s.th.fmode.getLsbD 2 }
      (engine = 2 → coreOf s.th.num % 4 = 3) → o % 64 = 0 → o + n ≤ s.th.spsize.toNat →
      scratchPoisoned s (scratchKey s.th o) n = false →
      exec i s = .next ({ s with
        eng := { s.eng with commands := s.eng.commands ++ [c] }
        th := { s.th with cntRemote := s.th.cntRemote + 1 } }.advance 4)) ∧
    (∀ (a b : DReg), coreOf s.th.num % 4 = 3 →
      let v := (s.getD b).toNat
      let engine := v / 2 ^ 28 % 4
      let mask := v / 2 ^ 32
      let table := s.eng.keys.filter fun k => k.tile = ownTile s && k.engine = engine
      let good := v % 2 ^ 28 = 0 ∧ v / 2 ^ 30 % 4 = 0 ∧ engine ≠ 3 ∧ mask ≠ 0 ∧ mask < (if engine = 1 then 4 else 16)
      (¬ good → exec (.mcap a b) s = .next (takeTrap 1 9 0 s)) ∧
      (good → 16 ≤ table.length → exec (.mcap a b) s = .next ((s.setD a 0).advance 4)) ∧
      (good → table.length < 16 → ∃ key, 0 < key ∧ key < 2 ^ 24 ∧ (∀ k ∈ table, k.key ≠ key) ∧
        exec (.mcap a b) s = .next ((({ s with eng := { s.eng with keys := s.eng.keys ++ [(⟨ownTile s, engine, key, mask, s.th.taskid⟩ : KeyEnt)] } }
          ).setD a (.ofNat 64 (2 ^ 40 * key + v + ownTile s))).advance 4))) ∧
    (∀ a : DReg, coreOf s.th.num % 4 = 3 → ∃ keys, exec (.mrev a) s = .next ({ s with eng := { s.eng with keys := keys } }.advance 4) ∧
      ∀ k, k ∈ keys ↔ k ∈ s.eng.keys ∧ ¬ (k.tile = ownTile s ∧ (s.getD a).toNat % 2 ^ 10 = ownTile s ∧
        k.engine = (s.getD a).toNat / 2 ^ 28 % 4 ∧ k.key = (s.getD a).toNat / 2 ^ 40)) ∧
    (coreOf s.th.num % 4 ≠ 3 → ∀ (a b c : DReg), ∀ i ∈ [Instr.mcmd a b c, .mcap a b, .mrev a], exec i s = .next (takeTrap 1 4 0 s))

/-- `mma`, `mmi`, `mma.sp` and `mmi.sp` on core 3, with operands that are ready (scratch rows aligned, inside and not poisoned;
vector groups that can be popped), a tile register of the fitting type, sparse metadata in form, and a stream that takes the
operation: where the operand flits of the product bring those between the core and its matrix unit to at most 64 (R354; how the
operands lie in flits of 128 bytes is the model's choice, log entry 37), it completes with one operation entered whose operands
are the values of R320 to R323, whose operands set out as so many flits, and whose actions are one update for each element; with
more than 64 it waits. An unfitting type traps MATRIX 0; another core traps ILL FEATURE. -/
def Obligations.ProductsCaptureTheirOperands : Prop :=
  ∀ (i : Instr) (s u : State) (p : Product), productOf i = some p →
    let reg := s.th.getZ p.z
    let size := tySize (tyOfCode p.ty)
    let kl := (productDepth p.ty p.sparse).1
    let ka := (productDepth p.ty p.sparse).2
    let a := p.sideA s
    let b := p.sideB s
    let metaKey := scratchKey s.th p.meta'
    let flits := (size * (reg.rows * ka + kl * reg.cols) + (if p.sparse then 4 * reg.rows else 0) + 127) / 128
    (coreOf s.th.num % 4 ≠ 3 → exec i s = .next (takeTrap 1 4 0 s)) ∧
    (coreOf s.th.num % 4 = 3 → a.Ready s size reg.rows (ka * size) → b.Ready s size kl (reg.cols * size) →
      (p.sparse = true → p.meta' % 16 = 0 ∧ p.meta' + 4 * reg.rows ≤ s.th.spsize.toNat ∧
        scratchPoisoned s metaKey (4 * reg.rows) = false ∧ ∀ r < reg.rows, Ascending (scratchNat s (metaKey + 4 * r) 4)) →
      useStreams none (a.regs (reg.rows * ka * size) ++ b.regs (((kl - 1) * 32 + reg.cols) * size)) s = .ok u →
      (reg.f32 ≠ decide (p.ty ≠ 0) → exec i s = .next (takeTrap 25 0 0 s)) ∧
      (reg.f32 = decide (p.ty ≠ 0) → TakesOp s (ownTile s) (8 + p.stream) (s.th.fmode.getLsbD 2) → ¬ FlitsFit s flits →
        s.th.inHandler = false → exec i s = .next { s with th := { s.th with waiting := true } }) ∧
      (reg.f32 = decide (p.ty ≠ 0) → TakesOp s (ownTile s) (8 + p.stream) (s.th.fmode.getLsbD 2) → FlitsFit s flits →
        ∃ (o : EngOp) (ctxs : List (Nat × EngCtx)) (as bs metas : List Nat),
          let t := withIssue u o ctxs u.mem.full u.mem.pending u.th.tensors
          exec i s = .next (t.advance 12) ∧ Entered u t o ∧ OwnOp s (8 + p.stream) o ∧
            o.kind = .stream (.product p.ty p.sparse as bs metas) p.z.toNat reg.rows reg.cols ∧
            o.jobs = (List.range (reg.rows * reg.cols)).map Job.tile ∧ o.flits = flits ∧
            as.length = reg.rows * ka ∧ (∀ r < reg.rows, ∀ k < ka, as[r * ka + k]? = some (a.value s size (ka * size) r k)) ∧
            (∀ k < kl, ∀ c < reg.cols, bs[k * reg.cols + c]? = some (b.value s size (32 * size) k c)) ∧
            (p.sparse = true → ∀ r < reg.rows, metas[r]? = some (scratchNat s (metaKey + 4 * r) 4))))

/-- The oldest operation of a matrix stream that can act, on an element of its tile register: a product gives it what one block
makes of the old word: for s8 the exact sum of the products added and wrapped to 32 bits, with OV where it leaves s32; for t8
and t6 the exact sum of the block's products added with one rounding to nearest even, NaNs, infinities and 0 x infinity as R132
says; for f16, bf16 and f32 one rounding for each product, in increasing k; where the operands are A of the element's row and B
of its column, for a sparse product B at the logical k that the metadata select. `zzero` gives 0 and `zld` the loaded word. The
flags gather in the operation, the action is gone from what is left, and no other element and nothing else of the context
changes. -/
def Obligations.TileElementsTakeTheirProducts : Prop :=
  ∀ (s : State) (o : EngOp) (t : Thread) (j i z rows cols : Nat) (k : StreamKind),
    o.kind = .stream k z rows cols → contextOf s o.thread o.home = some t → 8 ≤ o.ctx → o.ctx < 12 →
    (∀ p ∈ s.eng.ops, p.tile = o.tile → p.ctx = o.ctx → o.num ≤ p.num) → CanAct s o j (.tile i) →
    let old := ((t.z[z]?).getD {}).get i
    let gives (r : Lane) (flags : Flags) : Prop := granuleStep o j s = some (putOp
      { o with flags := o.flags ||| flags.bits, jobs := o.jobs.eraseIdx j }
      (s.onThreads (isContext o.thread o.home) fun t => { t with z := onVec t.z z fun x => x.put i r }))
    (∀ ty sparse as bs metas, k = .product ty sparse as bs metas → ty ∈ [0, 8, 9, 10, 11, 12] → i < rows * cols →
      as.length = rows * (productDepth ty sparse).2 →
      let ps := (List.range (productDepth ty sparse).2).map fun q =>
        let row := if sparse then 4 * (q / 2) + metas.getD (i / cols) 0 / 2 ^ (2 * q) % 4 else q
        (as.getD (i / cols * (productDepth ty sparse).2 + q) 0, bs.getD (row * cols + i % cols) 0)
      ∃ r flags, BlockGives ty o.topinf old ps r flags ∧ gives r flags) ∧
    (k = .zero → gives 0 {}) ∧
    (∀ ws, k = .load ws → gives (ws.getD i 0) {})

/-- On another core than core 3 every form traps ILL FEATURE. On core 3: `zcfg` of a shape value sets rows, columns and type, and
clears the contents unless `.keep`, and traps ILL VALUE for another value; `zmov` copies contents and shape; each where no
operation in flight names a register of it, else it waits. `zzero`, `zld` and `zst` on a stream that takes the operation, a
load's words with at most 64 flits on their way (R354; 128 bytes a flit, log entry 37), enter one operation: zero in all 1,024
words; the words of an aligned range inside the partition, read at issue; or a store of every element whose granules' full bits
become clear. -/
def Obligations.TileRegistersAreSetAndMoved : Prop :=
  ∀ (i : Instr) (s : State),
    (∀ keep z b len, configOf i = some (keep, z, b, len) →
      let v := (s.getD b).toNat
      (coreOf s.th.num % 4 ≠ 3 → exec i s = .next (takeTrap 1 4 0 s)) ∧
      (coreOf s.th.num % 4 = 3 → ¬ shapeOk v → exec i s = .next (takeTrap 1 9 0 s)) ∧
      (coreOf s.th.num % 4 = 3 → shapeOk v → TileFree s z → exec i s = .next ({ s with
        th := s.th.setZ z ⟨v % 64, v / 256 % 64, decide (v / 65536 % 16 = 8), if keep then (s.th.getZ z).words else []⟩ }.advance len)) ∧
      (coreOf s.th.num % 4 = 3 → shapeOk v → ¬ TileFree s z → s.th.inHandler = false →
        exec i s = .next { s with th := { s.th with waiting := true } })) ∧
    (∀ z y len, (i = .zmov z y ∧ len = 4) ∨ (i = .zmovX z y ∧ len = 12) →
      (coreOf s.th.num % 4 ≠ 3 → exec i s = .next (takeTrap 1 4 0 s)) ∧
      (coreOf s.th.num % 4 = 3 → TileFree s z → TileFree s y →
        exec i s = .next ({ s with th := s.th.setZ z (s.th.getZ y) }.advance len)) ∧
      (coreOf s.th.num % 4 = 3 → ¬ (TileFree s z ∧ TileFree s y) → s.th.inHandler = false →
        exec i s = .next { s with th := { s.th with waiting := true } })) ∧
    (∀ m, tileMoveOf s i = some m → coreOf s.th.num % 4 ≠ 3 → exec i s = .next (takeTrap 1 4 0 s)) ∧
    (∀ kind z w off st len, tileMoveOf s i = some (kind, z, w, off, st, len) →
      let reg := s.th.getZ z
      let n := reg.rows * reg.cols
      let key := scratchKey s.th off
      coreOf s.th.num % 4 = 3 → TakesOp s (ownTile s) (8 + st) (s.th.fmode.getLsbD 2) → WaitOver w s.th →
      (kind ≠ 0 → off % 16 = 0 ∧ off + 4 * n ≤ s.th.spsize.toNat) → (kind = 1 → scratchPoisoned s key (4 * n) = false ∧ FlitsFit s ((4 * n + 127) / 128)) →
      ∃ (o : EngOp) (ctxs : List (Nat × EngCtx)) (full : List Nat) (pending : List (Nat × Nat)) (k : StreamKind),
        let t := withIssue s o ctxs full pending s.th.tensors
        exec i s = .next (t.advance len) ∧ Entered s t o ∧ OwnOp s (8 + st) o ∧ o.kind = .stream k z.toNat reg.rows reg.cols ∧
          ClearsWritten s.mem.full full o ∧
          (kind = 0 → k = .zero ∧ o.jobs = (List.range 1024).map Job.tile) ∧
          (kind = 1 → k = .load ((List.range n).map fun j => .ofNat 32 (scratchNat s (key + 4 * j) 4)) ∧
            o.jobs = (List.range n).map Job.tile) ∧
          (kind = 2 → k = .store ∧ ∀ e, movedBy o e ↔ ∃ j < n, e = ⟨.tileWord z.toNat j, 4, .scr (key + 4 * j), 4⟩))

/-- `ldg`, `stg`, `rsv`, `cmt` in both forms without a handle, and the ten atomics: a misaligned address traps ALIGN GLOBAL; an
address outside the lease ends the task LEASE_OUT; where the wait of W is over and the access can be made at its level, the
instruction completes: loads, reservations and atomics write the extended old value, `cmt` 0 or 1, stores write no register; an
atomic with dA = d0 beyond core scope is posted, with one more in the global count, or, at device scope or wider for a word of
another device, in the remote-device count; at core scope it acts in the L1 and writes no register. Where the spec leaves a
point open it rests on the model's own reading: log entries 49, 55, 75, 80, 81, 86, 87, 91, 97, 99. -/
def Obligations.GlobalAccessesComplete : Prop :=
  ∀ (i : Instr) (s : State) (x : GlobalAccess),
    let n := intSize x.ty
    let done (u : State) := Host.Outcome.next (u.advance x.len)
    (((∃ k, globalOf s i = some (k, x)) ∨ ∃ op d, atomicOf s i = some (op, x, d)) →
      (x.va % n ≠ 0 → exec i s = .next (takeTrap 4 2 (.ofNat 64 x.va) s)) ∧
      (x.va % n = 0 → WaitOver x.w s.th → leaseAllows s s.th x.va n = false → exec i s = .next (endHere 7 s))) ∧
    (x.va % n = 0 → WaitOver x.w s.th →
      (globalOf s i = some (0, x) → ∀ v u, loadGlobal x.lvl x.cp x.va n s = .ok (v, u) →
        exec i s = done (u.setD x.reg (extended x.ty v))) ∧
      (globalOf s i = some (1, x) → ∀ u, storeGlobal x.lvl x.cp x.va n ((s.getD x.reg).toNat % 2 ^ (8 * n)) s = .ok u →
        exec i s = done u) ∧
      (globalOf s i = some (2, x) → ∀ v u, reserve x.lvl x.va n s = .ok (v, u) → exec i s = done (u.setD x.reg (extended x.ty v))) ∧
      (globalOf s i = some (3, x) → ∀ stored u, commit x.lvl x.va n ((s.getD x.reg).toNat % 2 ^ (8 * n)) s = .ok (stored, u) →
        exec i s = done (u.setD x.reg (if stored then 0 else 1))) ∧
      (∀ op d, atomicOf s i = some (op, x, d) → Allowed s true x.va n →
        let operand := (s.getD d).toNat % 2 ^ (8 * n)
        let far : Bool := isFar s s.th.asid x.va && decide (5 ≤ x.lvl)
        (x.reg = 0 → 1 < x.lvl → exec i s = done { s with
          mem := { s.mem with posted := s.mem.posted ++ [({
            thread := s.th.num, taskid := s.th.taskid, core := coreOf s.th.num, asid := s.th.asid, va := x.va, size := n, scope := x.lvl
            kind := .amo op (typeCode x.ty) (.ofNat 64 operand), topinf := s.th.fmode.getLsbD 2, device := far, step := s.fresh } : Posted)] }
          th := { s.th with cntGlobal := s.th.cntGlobal + (if far then 0 else 1), cntDevice := s.th.cntDevice + (if far then 1 else 0) } }) ∧
        (x.reg = 0 → x.lvl ≤ 1 → ∀ u, amoInL1 op x.va n operand 0 s = .ok u → exec i s = done u) ∧
        (x.reg ≠ 0 → ∀ v u,
          amoNow x.lvl op (typeCode x.ty) x.va n operand ((s.getD x.reg).toNat % 2 ^ (8 * n)) s = .ok (v, u) →
          exec i s = done (u.setD x.reg (extended x.ty v)))))

/-- Where an allowed access of 1, 2, 4 or 8 aligned bytes lies in the thread's L1, not poisoned, with nothing under way on its
words: a load answers its bytes and changes nothing; a core-scope reservation answers them and is kept; a store of so many
bytes, of 4 or 8 of shared memory whether or not words are held, is stored: into private memory, the bytes of the L1, and no
others, become the new ones; into shared memory, the L1 stays as it is and the words that the bytes make are posted, the other
bytes of a narrower store's word as the L1 holds them, with one more in the global count. An atomic at core scope, with nothing
that the core has posted going where it goes, answers the old value, and where R258 gives a new value it is written: into
private memory like a store; into cluster-shared memory, or a device-shared line of this device of which the home holds a narrow
word and the bank has the NARROW bit, where the home has the line and no protection or mark meets it, at once in the L1 and
registered, with nothing posted (log entry 86). Where the spec leaves a point open it rests on the model's own reading: log
entries 75, 97, 99. -/
def Obligations.HeldWordsAreReadAndWritten : Prop :=
  ∀ (s : State) (lvl va n : Nat) (cp : CachePolicy), n ∈ [1, 2, 4, 8] → va % n = 0 → cp ≠ .noAlloc →
    let value := ((List.range n).map fun k => 2 ^ (8 * k) * copyByte s va (va + k)).sum
    let cluster := clusterOfCore (coreOf s.th.num)
    let line := s.mem.slices.filter fun h => h.cluster = cluster && h.asid = s.th.asid && h.wa / 32 = va / 128
    (Held s va n → Allowed s false va n →
      loadGlobal lvl cp va n s = .ok (value, s) ∧
      reserve 1 va n s = .ok (value, { s with th := { s.th with resv := some ⟨va, n, 1, none, 0⟩ } })) ∧
    (Held s va n ∨ (4 ≤ n ∧ classAt s s.th.asid va ≠ 0) → Allowed s true va n → ∀ x < 2 ^ (8 * n),
      ∃ u, storeGlobal lvl cp va n x s = .ok u ∧ Stored s u va n lvl cp x) ∧
    (∀ (ty : IntTy) (op v c : Nat), Held s va n → intSize ty = n → ty ∈ [IntTy.s32, .s64, .n32, .n64] → op < 10 → v < 2 ^ (8 * n) →
      s.th.acted = none → isBehind s (coreOf s.th.num) s.th.asid va s.mem.posted = false → weltAt s s.th.asid va = none →
      match atomicResult ty op value v c with
      | none => amoNow 1 op (typeCode ty) va n v c s = .ok (value, s)
      | some y =>
        (classAt s s.th.asid va = 0 → ∃ u, amoNow 1 op (typeCode ty) va n v c s = .ok (value, u) ∧ Stored s u va n 1 .normal y) ∧
        (line ≠ [] → protectedBy s 0 s.th.asid va n = false → protectedBy s 1 s.th.asid va n = false →
          writeStalls s s.th.asid va n = false →
          classAt s s.th.asid va = 1 ∨ (classAt s s.th.asid va = 2 ∧ (∀ h ∈ line, ∀ p, h.pw = some p → isRemote (4 * p) = false) ∧
            ∃ h ∈ line, h.narrow = true ∧ ∃ p, h.pw = some p ∧ (llcLine s (p / 32)).narrow.getLsbD cluster = true) →
          ∃ u, amoNow 1 op (typeCode ty) va n v c s = .ok (value, u) ∧ RegisteredNow s u va n y))

/-- In every state where a thread's global store of 1, 2, 4 or 8 aligned bytes is accepted and its load of the same bytes is
allowed. Where the store is made and posts nothing (private memory, with a copy kept), the load that follows, at any scope,
answers the stored value and changes nothing. Where it is posted, the load waits as long as it is (log entry 86). Once a posted
store that keeps its copy, of memory below class 2, or narrower than die scope and with its place found, is registered with
nothing posted on its words, a load that may allocate answers the stored value. Only where a store of fewer than 4 bytes changed
a poisoned word does the load end the task with POISON instead. Where the spec leaves a point open it rests on the model's own
reading: log entry 75. -/
def Obligations.StoresReadBack : Prop :=
  ∀ (s u : State) (lvl lvl' va n x : Nat) (cp cp' : CachePolicy), n ∈ [1, 2, 4, 8] → va % n = 0 → x < 2 ^ (8 * n) →
    storeGlobal lvl cp va n x s = .ok u → Allowed u false va n →
    let answers (v : State) (policy : CachePolicy) :=
      loadGlobal lvl' policy va n v = .ok (x, v) ∨ (n < 4 ∧ loadGlobal lvl' policy va n v = .error (.endTask 9))
    let isPosted (v : State) := isUnderWay v (l1Core v (coreOf v.th.num) va) v.th.asid (touched va n)
    (isPosted u = false → answers u cp') ∧
    (isPosted u = true → loadGlobal lvl' cp' va n u = .error .wait) ∧
    (isPosted u = true → cp ≠ .noAlloc → cp' ≠ .noAlloc → ∀ (p : Posted) (v : State), u.mem.posted.getLast? = some p →
      (classAt u u.th.asid va < 2 ∧ checkHome p.agent true va n u = .ok () ∨
        2 ≤ classAt u u.th.asid va ∧ lvl < 5 ∧ ∃ pa perm w, placeNarrow p.agent va n u = .ok (pa, perm, w) ∧ isWelt pa = false) →
      arrivePosted (u.mem.posted.length - 1) p u = some v → isPosted v = false → Allowed v false va n → answers v cp')

/-- `pref` completes without effect where its address is outside the lease or its object, or its line cannot be brought; else it
completes with the line brought near, and with nothing changed where the cluster home holds the whole line and the form keeps no
copy; `wcnt` goes on when its counts are zero and no error bit is set, waits while a count is not, and traps REMOTE_REJECT on an
error bit; `rel` and `fence` do the release of their level, `acq` and `fence` then acquire, and a name that binds no set traps
SYNC; `objd` answers a free object number for a record in form that meets no object, once the range is written back and
invalidated, else 2^63 + 14, 15 or 16; `objf` removes an object of the address space, and does nothing for another number; with
a change of objects the watches of the address space move to the homes of the new class. Where the spec leaves a point open it
rests on the model's own reading: log entries 32, 54, 55, 96. -/
def Obligations.FencesWaitsAndObjects : Prop :=
  ∀ (i : Instr) (s : State),
    (∀ b c lvl cp len, prefetchOf i = some (b, c, lvl, cp, len) →
      let va := sumOf s b c
      let core := l1Core s (coreOf s.th.num) va
      (¬ Allowed s false va 1 → exec i s = .next (s.advance len)) ∧
      (Allowed s false va 1 →
        (∀ u, bringLine lvl cp va s = .ok u → exec i s = .next (u.advance len)) ∧
        (∀ status, bringLine lvl cp va s = .error (.endTask status) → exec i s = .next (s.advance len)) ∧
        (cp = .noAlloc → (∀ wa, wa / 32 = va / 128 → homeRead s (clusterOfCore (coreOf s.th.num)) lvl core s.th.asid wa ≠ .miss) →
          exec i s = .next (s.advance len)))) ∧
    (∀ w len, (i = .wcnt w ∧ len = 4) ∨ (i = .wcntX w ∧ len = 12) →
      let covers (c : WClass) := w = .none ∨ w = c
      let zero := (covers .wrs → s.th.cntRemote = 0) ∧ (covers .wgs → s.th.cntGlobal = 0) ∧ (covers .wrd → s.th.cntDevice = 0)
      let bad := (covers .wrs ∧ s.th.rerr = true) ∨ (covers .wrd ∧ s.th.derr = true)
      (zero → ¬ bad → exec i s = .next (s.advance len)) ∧
      (zero → bad → exec i s = .next (takeTrap 23 0 (.ofNat 64 s.th.refused) s)) ∧
      (¬ zero → exec i s = .next { s with th := { s.th with waiting := true } })) ∧
    (∀ releases acquires f len, fenceOf i = some (releases, acquires, f, len) →
      (∀ m, f = .named m → (s.th.getM m).bound = .unbound → exec i s = .next (takeTrap 16 0 0 s)) ∧
      (∀ m x, f = .named m → (s.th.getM m).bound = .scope x → exec i s = .next (takeTrap 16 1 0 s)) ∧
      (∀ (l : Nat) (u : State), FenceAt s f l →
        (releases = true → ∃ r, releaseAt l s = .ok r ∧ u = { r with th := { r.th with level := 0 } }) → (releases = false → u = s) →
        exec i s = .next ((if acquires then acquire l u else u).advance len))) ∧
    (∀ a b len bs (u : State), (i = .objd a b ∧ len = 4) ∨ (i = .objdX a b ∧ len = 12) →
      ((s.getD b).toNat % 32 ≠ 0 → exec i s = .next (takeTrap 4 2 (s.getD b) s)) ∧
      ((s.getD b).toNat % 32 = 0 → objectRecord (s.getD b).toNat s = .ok (bs, u) →
        let answer (v : State) (x : Nat) := exec i s = .next ((v.setD a (.ofNat 64 x)).advance len)
        (parseObject u.th.asid bs = none → answer u (2 ^ 63 + 14)) ∧
        ∀ o, parseObject u.th.asid bs = some o →
          ((∃ x ∈ u.mem.objects, o.meets x.2 = true) → answer u (2 ^ 63 + 15)) ∧
          ((∀ x ∈ u.mem.objects, o.meets x.2 = false) →
            ((∀ id, 1 ≤ id → id ≤ 4095 → (lookup id u.mem.objects).isSome = true) → answer u (2 ^ 63 + 16)) ∧
            (∀ v, (∃ id, 1 ≤ id ∧ id ≤ 4095 ∧ lookup id u.mem.objects = none) → settleObject o u = .ok v →
              ∃ id, 1 ≤ id ∧ id ≤ 4095 ∧ lookup id u.mem.objects = none ∧
                answer (moveWatches o.asid (v.onMem fun m => { m with objects := insert id o m.objects })) id)))) ∧
    (∀ a len, (i = .objf a ∧ len = 4) ∨ (i = .objfX a ∧ len = 12) →
      ((∀ o, lookup (s.getD a).toNat s.mem.objects = some o → o.asid ≠ s.th.asid) → exec i s = .next (s.advance len)) ∧
      (∀ o u, lookup (s.getD a).toNat s.mem.objects = some o → o.asid = s.th.asid → settleObject o s = .ok u →
        exec i s = .next ((moveWatches o.asid (u.onMem fun m => { m with objects := remove (s.getD a).toNat m.objects })).advance len)))

/-- `jsub` and `spawn` of a misaligned card trap ALIGN GLOBAL; `spawn` under a name that binds no scope traps SYNC; in a cancel
handler they answer CANCELLED; else, once the device release is done and the card is read, dA receives the answer of R192 in its
order of checks, and a refusal queues nothing. `jnext` counts its task's energy and writes zeros in a gang, in a cancel handler
and under a scope that is cancelling, else the address and length of the thread's next chunk that has been dealt; where none
has, it deals the task's next chunk and waits. `done` waits while a posted-store count is not zero; else, once nothing of the
task runs and the release is done, the thread's context is free, and with its last thread the task is gone. `yield` always goes
on: its unit is to be pre-empted where a card of a higher class that may be placed could take it, else the thread gives up its
next issue turn. Where the spec leaves a point open it rests on the model's own reading: log entries 26, 65. -/
def Obligations.WorkIsSubmittedTakenAndEnded : Prop :=
  ∀ (s : State) (a b : DReg) (m : MReg),
    let va := (s.getD b).toNat
    let waits (i : Instr) := exec i s = .next { s with th := { s.th with waiting := true } }
    (∀ i ∈ [Instr.jsub a b, .spawn a b m],
      let isSpawn := i = .spawn a b m
      let target := if isSpawn then (match (s.th.getM m).bound with | .scope id => some id | _ => none) else none
      (va % 64 ≠ 0 → exec i s = .next (takeTrap 4 2 (s.getD b) s)) ∧
      (va % 64 = 0 → isSpawn → (s.th.getM m).bound = .unbound → exec i s = .next (takeTrap 16 0 0 s)) ∧
      (va % 64 = 0 → isSpawn → ∀ id, (s.th.getM m).bound = .set id → exec i s = .next (takeTrap 16 1 0 s)) ∧
      (va % 64 = 0 → (isSpawn → target.isSome = true) → s.th.inHandler = true → exec i s = .next ((s.setD a 1).advance 4)) ∧
      (va % 64 = 0 → (isSpawn → target.isSome = true) → s.th.inHandler = false →
        ∀ (r u : State) (bs : List Byte), releaseAt 5 s = .ok r → readAtBank va 64 r = .ok (bs, u) →
        let place := match target with
          | some id => id
          | none => if (parseCard bs).scope = 0 then u.th.scopeid else (parseCard bs).scope
        let stage := scopeState u place
        ∃ (answer : Nat) (v : State), exec i s = .next ((v.setD a (.ofNat 64 answer)).advance 4) ∧ (answer ≠ 0 → v = u) ∧
          (answer = 0 → v.nextId = u.nextId + 1) ∧
          (3 ≤ stage → answer = 1) ∧
          (stage < 3 → natOfBytes (bs.take 2) ≠ 2 → answer = 2) ∧
          (stage < 3 → natOfBytes (bs.take 2) = 2 → cardFormOk bs = false → answer = 3) ∧
          (stage < 3 → natOfBytes (bs.take 2) = 2 → cardFormOk bs = true →
            (stage ≠ 1 ∨ (¬ isSpawn ∧ isUnder u place u.th.scopeid = false) → answer = 4) ∧
            (stage = 1 → isSpawn ∨ isUnder u place u.th.scopeid = true →
              (4096 ≤ (u.cards.filter fun x => x.2.isQueued).length → answer = 5) ∧
              ((u.cards.filter fun x => x.2.isQueued).length < 4096 → (∃ id, 1 ≤ id ∧ id ≤ 65535 ∧ u.scope? id = none) →
                answer = 0))))) ∧
    (let give (v w : Word) (u : State) := exec .jnext s = .next (((u.setD 3 v).setD 4 w).advance 4);
      (s.taskOf s.th = none → give 0 0 s) ∧
      ∀ k c, s.taskOf s.th = some k → lookup k.card s.cards = some c →
        let chunk (x : Nat × Nat) (u : State) :=
          give (if x.2 = 0 then 0 else .ofNat 64 (c.rbase + x.1 * c.rsize)) (.ofNat 64 x.2)
            { u with th := { u.th with dealt := s.th.dealt + 1 } }
        let u := countEnergy k.id s
        let idle := s.th.inHandler = true ∨ c.flags % 2 = 1 ∨ 3 ≤ scopeState s c.scope
        (idle → give 0 0 u) ∧
        (¬ idle → ∀ x, k.deals[s.th.dealt + 1]? = some x → chunk x u) ∧
        (¬ idle → k.deals[s.th.dealt + 1]? = none → let x := dealNext c.id u
          let v := x.2.onTask k.id fun k => { k with deals := k.deals ++ [x.1] }
          exec .jnext s = .next { v with th := { v.th with waiting := true } })) ∧
    (¬ (s.th.cntRemote = 0 ∧ s.th.cntGlobal = 0 ∧ s.th.cntDevice = 0) → waits .done) ∧
    (s.th.cntRemote = 0 → s.th.cntGlobal = 0 → s.th.cntDevice = 0 → s.th.inHandler = false →
      (∀ o ∈ s.eng.ops, o.task = s.th.taskid → o.command = true) → ∀ u k, releaseAt 5 s = .ok u → u.th = s.th → s.th.live = true →
      u.taskOf u.th = some k → k.id = u.th.taskid → lookup 3 k.record = none →
      ∃ t, exec .done s = .next t ∧ t.th.live = false ∧
        ((∀ n ∈ k.live, n = s.th.num) → lookup k.id t.tasks = none) ∧
        (¬ (∀ n ∈ k.live, n = s.th.num) → ∃ k', lookup k.id t.tasks = some k' ∧ k'.live = k.live.filter fun n => n ≠ s.th.num)) ∧
    (let next := s.advance 4
      let wanted := ∃ k c d, s.taskOf s.th = some k ∧ lookup k.card s.cards = some c ∧ d ∈ s.cards ∧ d.2.rank < c.rank ∧
        mayPlace s d.2 = true ∧ couldTake s d.2 s.th.num = true
      (wanted → exec .yield s = .next (askPreempt s.th.num next)) ∧
      (¬ wanted → exec .yield s = .next { next with th := { next.th with yields := true } }))

/-- `mset` traps ILL VALUE above 16,383, SYNC BOUND where the name binds a scope or a set that the thread is a member of, and else
binds a new empty set, whose number it writes to dB, or an existing set; `join` adds a member and traps SYNC where the thread is
one by any of its names; `leave` withdraws it; `bar.a`, after its release, adds the arrival, and the last of E arrivals starts
the next phase; `bar.w` goes on after its acquire once the phase of the arrival is released, and waits before; `bar` does both,
and one that has arrived and waits goes on from there. Unbound names, scopes, and threads that are no members, have arrived or
have not, trap SYNC. A membership and its arrival stand at the name by which the thread joined. Where the spec leaves a point
open it rests on the model's own reading: log entry 14. -/
def Obligations.SetsGatherAndRelease : Prop :=
  ∀ (s : State) (m : MReg) (b : DReg),
    let n := s.th.getM m
    let v := (s.getD b).toNat
    let sync (i : Instr) (sub : Nat) := exec i s = .next (takeTrap 16 sub 0 s)
    let named (u : State) (k : MReg) (x : NameEnt) : State := { u with th := u.th.setM k x }
    let withSet (u : State) (id : Nat) (r : SetRec) : State := { u with sets := insert id r u.sets }
    let isScope := ∃ x, n.bound = .scope x
    let isHeld := isScope ∨ ∃ id, n.bound = .set id ∧ ¬ NoMember s.th id
    (16384 ≤ v → exec (.mset m b) s = .next (takeTrap 1 9 0 s)) ∧
    (v < 16384 → isHeld → sync (.mset m b) 3) ∧
    (v < 16384 → ¬ isHeld →
      (v ≠ 0 → lookup v s.sets = none → sync (.mset m b) 0) ∧
      (v ≠ 0 → lookup v s.sets ≠ none → exec (.mset m b) s = .next ((sweepSets (named s m { bound := .set v })).advance 4)) ∧
      (v = 0 → (∀ id, 1 ≤ id → id ≤ 16383 → lookup id s.sets ≠ none) → sync (.mset m b) 2) ∧
      (v = 0 → (∃ id, 1 ≤ id ∧ id ≤ 16383 ∧ lookup id s.sets = none) → ∃ id, 1 ≤ id ∧ id ≤ 16383 ∧ lookup id s.sets = none ∧
        exec (.mset m b) s = .next
          ((sweepSets ((named (withSet s id {}) m { bound := .set id }).setD b (.ofNat 64 id))).advance 4))) ∧
    (n.bound = .unbound → ∀ i ∈ [Instr.join m, .leave m, .barA m, .barW m, .bar m], sync i 0) ∧
    (isScope → ∀ i ∈ [Instr.join m, .leave m, .barA m, .barW m, .bar m], sync i 1) ∧
    ∀ id, n.bound = .set id →
      let r := s.set id
      (NoMember s.th id → exec (.join m) s = .next ((withSet (named s m { n with member := true, arrived := none, byBar := none }) id
        { r with e := r.e + 1 }).advance 4)) ∧
      (NoMember s.th id → sync (.leave m) 5 ∧ sync (.barA m) 5 ∧ (n.arrived = none ∨ n.byBar ≠ some s.th.pc → sync (.bar m) 5)) ∧
      (∀ k, MemberBy s.th id k → sync (.join m) 4 ∧
        exec (.leave m) s = .next ((sweepSets (named (named (withdraw s.th.num (s.th.getM k) s) k { bound := .set id }) m {})).advance 4) ∧
        ((s.th.getM k).arrived = some r.p → sync (.barA m) 6)) ∧
      (∀ k, MemberBy s.th id k ∨ (NoMember s.th id ∧ k = m) →
        let x := s.th.getM k
        let atBar := s.th.getM k |>.byBar
        (x.arrived = none → sync (.barW m) 7) ∧
        (∀ p, x.arrived = some p →
          (p < r.p → ∃ l, setLevel id s ≤ l ∧ let t := named (acquire l s) k { x with arrived := none, byBar := none }
            let t := { t with th := { t.th with level := 0 } }.advance 4
            exec (.barW m) s = .next t ∧ (atBar = some s.th.pc → exec (.bar m) s = .next t)) ∧
          (r.p ≤ p → s.th.inHandler = false → let t : State := { s with th := { s.th with level := setLevel id s, waiting := true } }
            exec (.barW m) s = .next t ∧ (atBar = some s.th.pc → exec (.bar m) s = .next t)))) ∧
      (∀ k, MemberBy s.th id k → (s.th.getM k).arrived ≠ some r.p → ∀ u, releaseAt (setLevel id s) s = .ok u → u.sets = s.sets → u.th = s.th →
        let x := s.th.getM k
        let isLast := r.a + 1 = r.e
        let u := { u with th := { u.th with level := 0 } }
        let r' : SetRec := if isLast then { e := r.e, a := 0, p := r.p + 1, here := [], last := r.here ++ [s.th.num] }
          else { r with a := r.a + 1, here := r.here ++ [s.th.num] }
        let t (byBar : Option Word) := withSet (named u k { x with arrived := some r.p, byBar := byBar }) id r'
        exec (.barA m) s = .next ((t none).advance 4) ∧
        (x.arrived = none ∨ x.byBar ≠ some s.th.pc →
          (isLast → ∃ l, let w := named (acquire l (t (some s.th.pc))) k { x with arrived := none, byBar := none }
            exec (.bar m) s = .next ({ w with th := { w.th with level := 0 } }.advance 4)) ∧
          (¬ isLast → s.th.inHandler = false → ∃ l, let w := t (some s.th.pc)
            exec (.bar m) s = .next { w with th := { w.th with level := l, waiting := true } })))

/-- `snd` to a thread slot posts its vector with its TOPINF and counts one more in the remote-scratch class, and traps ILL VALUE on
another number. `rcv` traps MESSAGE where packets were lost, waits on an empty queue, traps TOPCODE on a packet of the other
TOPINF, and else writes the oldest packet to vA and its sender to dB; the oldest packets of the overflow area fill the queue up
to 16. `rcvq` reads the counts. `watch` of a request in form arms a watch on its held card, which disarms again where the card
has no record, or answers 2^63 plus the refusal. `unwatch` disarms every watch of the named watch's card where the task's scope
owns it, and else does nothing. `phr.lead`, with every dependent waiting in `phr.join` for it, and `phr.join`, with the head
waiting in `phr.lead` for it and every other dependent there, form the phrase: each member takes its role and goes on past the
instruction of the head, which is the same for all; before, each waits. A width outside 2 to 16 traps ILL VALUE, a thread in a
phrase PHRASE NESTED, a place outside the row, not after its head and within its reach, or a head on another slot PHRASE PLACE.
`phr.end` ends the thread's part in a phrase, and goes on where it has none. Where the spec leaves a point open it rests on the
model's own reading: log entries 11, 56, 72, 82, 85, 98. -/
def Obligations.MessagesWatchesAndPhrases : Prop :=
  ∀ (s : State) (a b c d : DReg) (v : VReg) (k : Word),
    let waits (i : Instr) (role : PhraseRole) := exec i s = .next { s with th := { s.th with phrase := role, waiting := true } }
    (16384 ≤ (s.getD a).toNat → exec (.snd a v) s = .next (takeTrap 1 9 0 s)) ∧
    (∀ t, (s.getD a).toNat < 16384 → useStreams none [v] s = .ok t →
      exec (.snd a v) s = .next ({ t with
        packets := t.packets ++ [(⟨s.th.num, s.th.taskid, (s.getD a).toNat, ⟨s.th.num, s.th.fmode.getLsbD 2, readVec s v⟩⟩ : Packet)]
        th := { t.th with cntRemote := t.th.cntRemote + 1 } }.advance 4)) ∧
    (∀ t, useStreams (some v) [] s = .ok t →
      (s.th.lost ≠ 0 → exec (.rcv v b) s = .next (takeTrap 18 0 (.ofNat 64 s.th.lost) s)) ∧
      (s.th.lost = 0 → s.th.queue = [] → s.th.inHandler = false → waits (.rcv v b) s.th.phrase) ∧
      (∀ p rest, s.th.lost = 0 → s.th.queue = p :: rest →
        (p.topinf ≠ s.th.fmode.getLsbD 2 → exec (.rcv v b) s = .next (takeTrap 21 0 0 s)) ∧
        (p.topinf = s.th.fmode.getLsbD 2 →
          let u := (writeVec v (BitVec.allOnes 32) (lane p.body) t).setD b (.ofNat 64 p.sender)
          let room := 16 - rest.length
          exec (.rcv v b) s = .next ({ u with th := { u.th with
            queue := rest ++ s.th.beyond.take room, beyond := s.th.beyond.drop room, places := s.th.places.drop room } }.advance 4)))) ∧
    (exec (.rcvq a) s = .next ((s.setD a (.ofNat 64 (s.th.queue.length + 2 ^ 16 * (s.th.beyond.length % 2 ^ 32) +
      2 ^ 48 * min s.th.lost 65535))).advance 4)) ∧
    (let x := (s.getD c).toNat
      let n := x / 2 ^ 60 + 1
      let va := x / 8 % 2 ^ 53 * 8
      let good := x / 2 ^ 56 % 16 = 0 ∧ x % 8 = 0 ∧ va % 128 + 8 * n ≤ 128
      (¬ good → exec (.watch a b c d k) s = .next (takeTrap 1 9 0 s)) ∧
      (good → (s.getD b).toNat % 64 ≠ 0 → exec (.watch a b c d k) s = .next (takeTrap 4 2 (s.getD b) s)) ∧
      ∀ bs u, good → (s.getD b).toNat % 64 = 0 → readAtBank (s.getD b).toNat 64 s = .ok (bs, u) →
        ((parseCard bs).rsize < 16 → exec (.watch a b c d k) s = .next (takeTrap 1 9 0 s)) ∧
        (16 ≤ (parseCard bs).rsize →
          let r := submit { scope := u.th.scopeid, spawn := some u.th.scopeid, asid := u.th.asid, thread := some u.th.num, watched := true } bs u
          let home := watchPlace u u.th.asid va
          let isFull := 16 ≤ (u.mem.watches.filter fun w => w.2.home = home).length ∨
            ∀ id, 1 ≤ id → id ≤ 65535 → lookup id u.mem.watches ≠ none
          let refused (x : Nat) := exec (.watch a b c d k) s = .next ((u.setD a (.ofNat 64 (2 ^ 63 + x))).advance 20)
          (r.1 ≠ 0 → refused r.1) ∧ (r.1 = 0 → isFull → refused 6) ∧
          (r.1 = 0 → ¬ isFull → ∃ id, 1 ≤ id ∧ id ≤ 65535 ∧ lookup id u.mem.watches = none ∧
            let t := ((r.2.2.onMem fun m => { m with watches := m.watches ++
              [(id, (⟨r.2.1, u.th.scopeid, u.th.asid, va, n, u.getD d, k, home⟩ : WatchRec))] }).setD a (.ofNat 64 id)).advance 20
            ((parseCard bs).rcount ≠ 0 → exec (.watch a b c d k) s = .next t) ∧
            ((parseCard bs).rcount = 0 → ∃ w, exec (.watch a b c d k) s = .next w ∧ w = settleCards (t.cards.length + 1) (disarm r.2.1 t) ∧
              ∀ x ∈ w.mem.watches, x.2.card ≠ r.2.1)))) ∧
    ((∀ w ∈ s.mem.watches, w.1 = (s.getD a).toNat → w.2.scope ≠ s.th.scopeid) → exec (.unwatch a) s = .next (s.advance 4)) ∧
    (∀ w, s.mem.watches.find? (fun w => w.1 = (s.getD a).toNat) = some w → w.2.scope = s.th.scopeid → ∃ t,
      exec (.unwatch a) s = .next (t.advance 4) ∧ t = settleCards (s.cards.length + 1) (disarm w.2.card s) ∧
        ∀ x ∈ t.mem.watches, x.2.card ≠ w.2.card) ∧
    (let core := coreOf s.th.num
      let w := (s.getD a).toNat
      let h := (s.getD a).toNat % 4096
      let head := 4 * h + s.th.num % 4
      let inPhrase := (∃ x, s.th.phrase = .head x) ∨ ∃ x, s.th.phrase = .dependent x
      let ready (of n : Nat) := ∃ t, s.thread? n = some t ∧ t.phrase = .joining of
      let mayLead := ∃ t, s.thread? head = some t ∧ (∀ x, t.phrase ≠ .joining x) ∧ ∀ x, t.phrase ≠ .dependent x
      let isElsewhere := ∃ t ∈ s.threads, coreOf t.num = h ∧ t.num ≠ head ∧ ∃ x, t.phrase = .leading x ∨ t.phrase = .head x
      let placed := coreInRow h (rowPosition core) = core ∧ rowPosition h < rowPosition core ∧ (mayLead ∨ ¬ isElsewhere) ∧
        ∀ t x, s.thread? head = some t → t.phrase = .leading x ∨ t.phrase = .head x → rowPosition core < rowPosition h + x
      let complete (t : Thread) (x : Nat) := s.thread? head = some t ∧ t.phrase = .leading x ∧
        ∀ j, 1 ≤ j → j < x → memberSlot head j ≠ s.th.num → ready h (memberSlot head j)
      (w < 2 ∨ 16 < w → exec (.phrLead a) s = .next (takeTrap 1 9 0 s)) ∧
      (2 ≤ w → w ≤ 16 → inPhrase → exec (.phrLead a) s = .next (takeTrap 17 0 0 s)) ∧
      (2 ≤ w → w ≤ 16 → ¬ inPhrase → 16 < rowPosition core + w → exec (.phrLead a) s = .next (takeTrap 17 1 0 s)) ∧
      (2 ≤ w → w ≤ 16 → ¬ inPhrase → rowPosition core + w ≤ 16 →
        ((∀ j, 1 ≤ j → j < w → ready core (memberSlot s.th.num j)) →
          ∃ t, exec (.phrLead a) s = .next t ∧ PhraseForms s t s.th.num s.th.num w (s.th.pc + 4)) ∧
        (¬ (∀ j, 1 ≤ j → j < w → ready core (memberSlot s.th.num j)) → s.th.inHandler = false → waits (.phrLead a) (.leading w))) ∧
      (inPhrase → exec (.phrJoin a) s = .next (takeTrap 17 0 0 s)) ∧
      (¬ inPhrase → ¬ placed → exec (.phrJoin a) s = .next (takeTrap 17 1 0 s)) ∧
      (∀ x w, ¬ inPhrase → placed → complete x w → rowPosition h + w ≤ 16 →
        ∃ t, exec (.phrJoin a) s = .next t ∧ PhraseForms s t head s.th.num w (x.pc + 4)) ∧
      (¬ inPhrase → placed → (∀ x w, ¬ complete x w) → s.th.inHandler = false → waits (.phrJoin a) (.joining h)) ∧
      exec .phrEnd s = .next ({ s with th := { s.th with phrase := .none } }.advance 4))

/-- `scope` on an unbound name opens a child of the task's scope (cancelling where that is) and binds it, and traps SYNC BOUND or
SETS_FULL; `scope.close` of a scope that is already gone, or of an open, closing or cancelled one with nothing left under it,
acquires, frees it and unbinds the name, and of an open one with something left closes it and waits; `cancel`, after its
release, makes a scope of the subtree cancelling and goes on, `cancel` of a number that is free, a root or unrelated answers
SCOPE; `cancel.w` waits for a cancelled or freed scope; `onc` sets the handler and traps ILL VALUE where it is not aligned.
Names that bind no scope trap SYNC. Where the spec leaves a point open it rests on the model's own reading: log entries 15, 62. -/
def Obligations.ScopesOpenCloseAndCancel : Prop :=
  ∀ (s : State) (m : MReg) (a : DReg),
    let n := s.th.getM m
    let own := s.th.scopeid
    let waits (i : Instr) := exec i s = .next { s with th := { s.th with waiting := true } }
    (n.bound ≠ .unbound → exec (.scope m) s = .next (takeTrap 16 3 0 s)) ∧
    (n.bound = .unbound → (∀ id, 1 ≤ id → id ≤ 65535 → s.scope? id ≠ none) → exec (.scope m) s = .next (takeTrap 16 2 0 s)) ∧
    (n.bound = .unbound → (∃ id, 1 ≤ id ∧ id ≤ 65535 ∧ s.scope? id = none) → ∃ id r, 1 ≤ id ∧ id ≤ 65535 ∧ s.scope? id = none ∧
      r.parent = own ∧ r.kind = 2 ∧ r.owner = s.th.taskid ∧ r.state = (if 3 ≤ scopeState s own then 3 else 1) ∧
      let t := putScope id (some r) s
      exec (.scope m) s = .next ({ t with th := t.th.setM m { bound := .scope id } }.advance 4)) ∧
    (n.bound = .unbound → ∀ i ∈ [Instr.scopeClose m, .cancel m, .cancelW m], exec i s = .next (takeTrap 16 0 0 s)) ∧
    (∀ x, n.bound = .set x → ∀ i ∈ [Instr.scopeClose m, .cancel m, .cancelW m], exec i s = .next (takeTrap 16 1 0 s)) ∧
    (∀ id, n.bound = .scope id →
      let acquired := acquire 5 s
      let gone := { acquired with th := acquired.th.setM m {} }.advance 4
      (s.scope? id = none → exec (.scopeClose m) s = .next gone) ∧
      (∀ r, s.scope? id = some r →
        (r.state ∈ [1, 2, 4] → isScopeIdle s id = true →
          (r.abn = 0 → exec (.scopeClose m) s = .next (putScope id none gone)) ∧
          (r.abn ≠ 0 → exec (.scopeClose m) s = .next (putScope id none (deliverPacket s.th.num
            ⟨s.th.num, s.th.fmode.getLsbD 2, lanesFrom fun k => if k = 0 then .ofNat 32 id else if k = 2 then .ofNat 32 r.first
              else if k = 4 then .ofNat 32 r.abn else 0⟩ gone)))) ∧
        (r.state = 1 → isScopeIdle s id = false → s.th.inHandler = false → let t := putScope id (some { r with state := 2 }) s
          exec (.scopeClose m) s = .next { t with th := { t.th with waiting := true } }) ∧
        (r.state = 2 ∨ r.state = 3 → isScopeIdle s id = false → s.th.inHandler = false → waits (.scopeClose m))) ∧
      (∀ u, releaseAt 5 s = .ok u →
        (scopeState u id ≠ 1 → scopeState u id ≠ 2 → scopeState u id < 3 ∨ isUnder u u.th.scopeid id = false →
          exec (.cancel m) s = .next (u.advance 4)) ∧
        (scopeState u id = 1 ∨ scopeState u id = 2 → isUnder u u.th.scopeid id = false →
          exec (.cancel m) s = .next (markCancelling id 1 (u.advance 4)))) ∧
      (scopeState s id = 4 ∨ scopeState s id = 0 → exec (.cancelW m) s = .next ((acquire 5 s).advance 4)) ∧
      (scopeState s id ∈ [1, 2, 3] → s.th.inHandler = false → waits (.cancelW m))) ∧
    (let id := (s.getD a).toNat
      let related := isUnder s own id = true ∨ isUnder s id own = true
      let refused := ∀ r, s.scope? id = some r → r.kind = 0 ∨ ¬ related
      (65536 ≤ id → ∀ i ∈ [Instr.cancelById a, .cancelWById a], exec i s = .next (takeTrap 1 9 0 s)) ∧
      (id < 65536 → refused → exec (.cancelById a) s = .next ((s.setD a 4).advance 4)) ∧
      (id < 65536 → ∀ r u, s.scope? id = some r → r.kind ≠ 0 → related → releaseAt 5 s = .ok u →
        scopeState u id = 1 ∨ scopeState u id = 2 → isUnder u u.th.scopeid id = false →
        exec (.cancelById a) s = .next (markCancelling id 1 ((u.setD a 0).advance 4))) ∧
      (id < 65536 → s.scope? id ≠ none → refused → exec (.cancelWById a) s = .next ((s.setD a 4).advance 4)) ∧
      (id < 65536 → s.scope? id = none ∨ (¬ refused ∧ scopeState s id = 4) →
        exec (.cancelWById a) s = .next (((acquire 5 s).setD a 0).advance 4)) ∧
      (id < 65536 → ¬ refused → scopeState s id ∈ [1, 2, 3] → s.th.inHandler = false → waits (.cancelWById a))) ∧
    ((s.getD a).toNat % 4 ≠ 0 → exec (.onc a) s = .next (takeTrap 1 9 0 s)) ∧
    ((s.getD a).toNat % 4 = 0 → exec (.onc a) s = .next ({ s with th := { s.th with onc := s.getD a } }.advance 4))

/-- In a gang, `xtt` loads a well-formed timetable from aligned scratch and traps EXCHANGE TABLE at the first entry that breaks a
rule; outside one it and `step` trap EXCHANGE NOT_GANG. `xsend` names the source of a slot of the table at an aligned range
inside the partition. `xreq` and `xadd` of a well-formed request to a rank of the gang post one packet, the values of a scatter-
add taken at issue, and count those beyond four times XBOUND. `step` arrives after its release and waits; once its exchange has
ended it acquires and goes on, or takes its completion trap. `xcnt` reads the counts. Where the spec leaves a point open it
rests on the model's own reading: log entries 58, 59, 89. -/
def Obligations.ExchangesArePreparedAndCounted : Prop :=
  ∀ (i : Instr) (s : State),
    let x := s.th.exch
    (∀ a len, (i = .xtt a ∧ len = 4) ∨ (i = .xttX a ∧ len = 12) →
      (gangOf s = none → exec i s = .next (takeTrap 19 4 0 s)) ∧
      (∀ k c, gangOf s = some (k, c) →
        ((s.getD a).toNat % 16 ≠ 0 → exec i s = .next (takeTrap 4 0 (s.getD a) s)) ∧
        (∀ n, (s.getD a).toNat % 16 = 0 → TableBreaksAt s c.rcount (s.getD a).toNat n →
          exec i s = .next (takeTrap 19 0 (.ofNat 64 ((s.getD a).toNat + 16 * n)) s)) ∧
        ∀ es : List TtEntry, (s.getD a).toNat % 16 = 0 → Timetable s c.rcount (s.getD a).toNat es →
          exec i s = .next ({ s with th := { s.th with exch := { x with table := es } } }.advance len))) ∧
    (∀ slot o len, sourceOf s i = some (slot, o, len) →
      ((∀ e ∈ x.table, e.slot ≠ slot) → exec i s = .next (takeTrap 19 1 0 s)) ∧
      (∀ e, x.table.find? (fun e => e.slot = slot) = some e →
        (o % 16 ≠ 0 → exec i s = .next (takeTrap 4 0 (.ofNat 64 o) s)) ∧
        (o % 16 = 0 → s.th.spsize.toNat < o + 128 * e.flits → exec i s = .next (takeTrap 5 0 (.ofNat 64 o) s)) ∧
        (o % 16 = 0 → o + 128 * e.flits ≤ s.th.spsize.toNat →
          exec i s = .next ({ s with th := { s.th with exch := { x with sources := insert slot o x.sources } } }.advance len)))) ∧
    (∀ r, requestOf s i = some r →
      (¬ r.Good → exec i s = .next (takeTrap 1 9 0 s)) ∧
      (∀ k c, r.Good → gangOf s = some (k, c) →
        (c.rcount ≤ r.owner → exec i s = .next (takeTrap 19 2 0 s)) ∧
        (r.owner < c.rcount → r.off % 4 = 0 → r.loc % 4 = 0 → r.loc + 4 * r.words ≤ s.th.spsize.toNat →
          (r.add = true → scratchPoisoned s (scratchKey s.th r.loc) (4 * r.words) = false) →
          let p : Coord := ⟨r.add, r.owner, r.off, r.ty, r.words, r.loc, (if r.add then (List.range r.words).map fun j =>
            .ofNat 32 (scratchNat s (scratchKey s.th r.loc + 4 * j) 4) else []), s.th.fmode.toNat % 4, s.th.fmode.getLsbD 2,
            x.posted.length⟩
          exec i s = .next ({ s with th := { s.th with exch :=
            if x.posted.length < 4 * c.xbound then { x with posted := x.posted ++ [p] } else { x with beyond := x.beyond + 1 } } }.advance
              r.len)))) ∧
    (∀ len, (i = .step ∧ len = 4) ∨ (i = .stepX ∧ len = 12) →
      (gangOf s = none → exec i s = .next (takeTrap 19 4 0 s)) ∧
      ∀ k c, gangOf s = some (k, c) →
        (x.done = true → ∃ l, 1 ≤ l ∧ l ≤ 5 ∧
          let t := acquire l { s with th := { s.th with exch := { x with done := false, topcode := false, remote := none } } }
          (x.remote = none → x.topcode = false → exec i s = .next (t.advance len)) ∧
          (∀ o, x.remote = some o → exec i s = .next (takeTrap 19 3 (.ofNat 64 o) t)) ∧
          (x.remote = none → x.topcode = true → exec i s = .next (takeTrap 21 1 0 t))) ∧
        (x.done = false → x.arrived = false → s.th.inHandler = false → x.beyond ≠ 0 →
          exec i s = .next (takeTrap 20 0 (.ofNat 64 x.beyond) s)) ∧
        (x.done = false → x.arrived = false → s.th.inHandler = false → x.beyond = 0 → ∀ u, releaseAt (gangLevel k) s = .ok u →
          ∃ t, exec i s = .next t ∧ t.th.waiting = true ∧ t.th.exch.arrived = true ∧ t.th.pc = u.th.pc)) ∧
    (∀ a len, (i = .xcnt a ∧ len = 4) ∨ (i = .xcntX a ∧ len = 12) → exec i s = .next ((s.setD a (.ofNat 64 (x.flits % 65536 +
      2 ^ 16 * (x.repl % 65536) + 2 ^ 32 * (x.adds % 65536) + 2 ^ 48 * (x.rej % 65536)))).advance len))

/-- `srd` of an unlisted number traps ILL with subcode 7, of a supervisor register in user mode PRIV with subcode 1, and else writes
the register's value to dA; `swr` traps ILL 7 for an unlisted number, ILL 8 for a read-only register, PRIV 1 for one that user
mode may not write, ILL VALUE for a value that does not fit, and else writes it: SV and FT keep their values, low bits that read
as zero are ignored. Where the spec leaves a point open it rests on the model's own reading: log entry 3. -/
def Obligations.SystemRegistersAreReadAndWritten : Prop :=
  ∀ (s : State) (a : DReg) (n : BitVec 10),
    let k := n.toNat
    let isSuper := s.th.status.getLsbD 0 = true
    let readOnly := k ∈ [0x20, 0x21, 0x22, 0x23, 0x28, 0x29]
    (readOf s k = none → exec (.srd a n) s = .next (takeTrap 1 7 0 s) ∧ exec (.swr n a) s = .next (takeTrap 1 7 0 s)) ∧
    (∀ v, readOf s k = some v →
      (¬ isSuper → k ∈ [1, 2, 3, 4] → exec (.srd a n) s = .next (takeTrap 2 1 0 s)) ∧
      (isSuper ∨ k ∉ [1, 2, 3, 4] → exec (.srd a n) s = .next ((s.setD a v).advance 4)) ∧
      (readOnly → exec (.swr n a) s = .next (takeTrap 1 8 0 s)) ∧
      (¬ readOnly → ¬ isSuper → k ≠ 8 → k ≠ 0x13 → exec (.swr n a) s = .next (takeTrap 2 1 0 s)) ∧
      (¬ readOnly → isSuper ∨ k = 8 ∨ k = 0x13 →
        exec (.swr n a) s = .next (match writtenOf s.th k (s.getD a) with
          | none => takeTrap 1 9 0 s
          | some t => { s with th := t }.advance 4)))

/-- Where TIP is clear, trap entry writes EPC, CAUSE, EADDR and STATUS as R33 says, goes to TVEC + 64 times the class, and leaves
every data register, the level, the loops, the bindings, memory and the engines as they are; where TIP is set, the task ends
with DOUBLE_TRAP and the registers stay. `svc`, `trap` and `brk` take their class with the low eight bits of their immediate; a
word that decodes to no instruction ILL with its subcode; a major 0x3F word ILL FACTORY, but stops the model in factory test
mode; a failed fetch IFETCH with the block's address, or the unaligned target; a pending interrupt is taken while IE is set,
unless an instruction only waits for the reply to what it has sent. Where the spec leaves a point open it rests on the model's
own reading: log entries 14, 17, 61. -/
def Obligations.TrapsSaveAndVector : Prop :=
  ∀ (s : State),
    (∀ (cls sub : Nat) (addr : Word), s.th.status.getLsbD 4 = false → s.th.lvl ≤ 4 →
      let t := takeTrap cls sub addr s
      t.th.epc = s.th.pc &&& 0xFFFFFFFFFFFFFFFC ∧ t.th.cause = .ofNat 64 (256 * cls + sub) ∧ t.th.eaddr = addr ∧ t.th.pc = s.th.tvec + .ofNat 64 (64 * cls) ∧
        (∀ j, j < 64 → t.th.status.getLsbD j = match j with
          | 0 => true | 1 => s.th.status.getLsbD 0 | 3 => s.th.status.getLsbD 2 | 4 => true
          | 8 => s.th.lvl.testBit 0 | 9 => s.th.lvl.testBit 1 | 10 => s.th.lvl.testBit 2 | 11 => s.th.status.getLsbD 11 | _ => false) ∧
        t.th.d = s.th.d ∧ t.th.v = s.th.v ∧ t.th.p = s.th.p ∧ t.th.q = s.th.q ∧ t.th.z = s.th.z ∧ t.th.lvl = s.th.lvl ∧
        t.th.loops = s.th.loops ∧ t.th.binds = s.th.binds ∧ t.th.tensors = s.th.tensors ∧ t.th.fmode = s.th.fmode ∧
        t.th.tvec = s.th.tvec ∧ t.th.resv = none ∧ t.mem = s.mem ∧ t.eng = s.eng ∧ t.tasks = s.tasks) ∧
    (∀ (cls sub : Nat) (addr : Word) (k : Task), s.th.status.getLsbD 4 = true → lookup s.th.taskid s.tasks = some k → k.stage = .running →
      let t := takeTrap cls sub addr s
      (lookup s.th.taskid t.tasks).map Task.stage = some (.ending 12) ∧ t.th.run = .draining ∧ t.th.d = s.th.d ∧ t.th.pc = s.th.pc ∧
        t.th.epc = s.th.epc ∧ t.th.cause = s.th.cause ∧ t.th.status = s.th.status ∧ t.mem = s.mem) ∧
    (∀ i : BitVec 10, exec (.svc i) s = .next (takeTrap 15 (i.toNat % 256) 0 s) ∧
      exec (.trap i) s = .next (takeTrap 14 (i.toNat % 256) 0 s) ∧ exec (.brk i) s = .next (takeTrap 13 (i.toNat % 256) 0 s)) ∧
    (∀ why n, (why, n) ∈ [(Reject.opcode, 0), (.mbz, 1), (.length, 2), (.literal, 3), (.zero, 6), (.value, 9)] →
      exec (.illegalWord why) s = .next (takeTrap 1 n 0 s)) ∧
    (∀ w, exec (.factoryTest w) s = if (s.dieOf s.th.num).ftm then .fault .factoryOperation else .next (takeTrap 1 5 0 s)) ∧
    (∀ addr, exec (.ifetchFault .align addr) s = .next (takeTrap 3 3 addr s) ∧
      ∀ why n, (why, n) ∈ [(FetchFail.absent, 0), (.noexec, 1), (.straddle, 2)] →
        exec (.ifetchFault why addr) s = .next (takeTrap 3 n (.ofNat 64 (addr.toNat / 65536 * 65536)) s)) ∧
    (s.th.intrs = [] ∨ s.th.status.getLsbD 2 = false ∨ (s.th.waiting = true ∧ isCommitted s = true) → exec .intrEntry s = .next s) ∧
    (∀ v rest, s.th.intrs = v :: rest → s.th.status.getLsbD 2 = true → s.th.waiting = false ∨ isCommitted s = false →
      let u := undoWait s
      exec .intrEntry s = .next (takeTrap 28 (v % 256) 0 { u with th := { u.th with intrs := rest } }))

/-- In user mode `tret`, `idle`, `rsm`, `fltr`, `ctxsave`, `ctxload` and `preempt` trap PRIV INSTR. In supervisor mode: `tret` at
the saved level goes to EPC with SV and IE restored and TIP clear, at another clears TIP and traps LOOP UNBALANCED; `idle` ends
once an interrupt is pending and else suspends; `rsm` posts a resume packet after its release; `fltr` finds the newest live
record of its tile and context; `ctxsave` of a context at rest writes its save area and catches its flits, and waits before;
`ctxload` takes an area in form that belongs to the context, one with flits in its ring on the tile that saved it, waits while
its core lacks generators, and traps ILL VALUE on another area; `preempt` of its own slot asks for its own pre-emption, of an
empty slot goes on, of another asks once and waits until that context has been saved. `wfe` takes the event bit or waits; `sev`
sets the event bit of a thread; `snap` requests the snapshot, or joins the one requested. Where the spec leaves a point open it
rests on the model's own reading: log entries 37, 39, 67, 83, 84. -/
def Obligations.SupervisorAndEventInstructionsAct : Prop :=
  ∀ (s : State) (a : DReg) (e : EReg),
    let isSuper := s.th.status.getLsbD 0 = true
    let va := (s.getD a).toNat
    let waits (i : Instr) := exec i s = .next { s with th := { s.th with waiting := true } }
    (¬ isSuper → ∀ i ∈ [Instr.tret, .idle, .rsm a, .fltr a e, .ctxsave a, .ctxload a, .preempt a], exec i s = .next (takeTrap 2 0 0 s)) ∧
    (isSuper → s.th.lvl = s.th.status.toNat / 256 % 8 → ∃ st : Word, (∀ j, j < 64 → st.getLsbD j = match j with
        | 0 => s.th.status.getLsbD 1 | 2 => s.th.status.getLsbD 3 | 4 => false | _ => s.th.status.getLsbD j) ∧
      exec .tret s = .next ({ s with th := { s.th with
        status := st, inHandler := s.th.inHandler || (s.th.observed && !s.th.status.getLsbD 1) } }.jump s.th.epc)) ∧
    (isSuper → s.th.lvl ≠ s.th.status.toNat / 256 % 8 → exec .tret s =
      .next (takeTrap 7 2 0 { s with th := { s.th with status := s.th.status &&& ~~~ 16 } })) ∧
    (s.th.event = true → exec .wfe s = .next ({ s with th := { s.th with event := false } }.advance 4)) ∧
    (s.th.event = false → s.th.inHandler = false → waits .wfe) ∧
    (16384 ≤ va → exec (.sev a) s = .next (takeTrap 1 9 0 s)) ∧
    (va < 16384 → (s.dieOf va).fenced = false ∨ s.thread? va ≠ none →
      exec (.sev a) s = .next ((s.advance 4).onThread va fun t => { t with event := true })) ∧
    (va < 16384 → (s.dieOf va).fenced = true → s.thread? va = none →
      ∃ ds, exec (.sev a) s = .next { s.advance 4 with dies := ds }) ∧
    (∀ requested : State → State, (∀ u, requested u = { u with snap := { u.snap with latchAt := some (s.time + 2048) } }) →
      (s.snap.latchAt = none → exec .snap s = .next (requested (s.advance 4))) ∧
      (∀ n, s.snap.latchAt = some n →
        exec .snap s = .next (if s.time < n then s.advance 4 else requested (latchSnapshot (s.advance 4))))) ∧
    (isSuper →
      (s.th.intrs ≠ [] → exec .idle s = .next ({ s with th := { s.th with micro := 0 } }.advance 4)) ∧
      (s.th.intrs = [] → s.th.inHandler = false → exec .idle s = .next { s with th := { s.th with micro := 5, waiting := true } }) ∧
      (va % 64 ≠ 0 → exec (.rsm a) s = .next (takeTrap 4 2 (s.getD a) s)) ∧
      (∀ u, va % 64 = 0 → releaseAt 5 s = .ok u → exec (.rsm a) s = .next ({ u with
        eng := { u.eng with resumes := u.eng.resumes ++ [(u.th.num, va)] }
        th := { u.th with cntGlobal := u.th.cntGlobal + 1 } }.advance 4)) ∧
      (let live := liveRecords (s.dieOf s.th.num)
        let ours (p : Nat) := readNat s.mem.dram (p + 3) 1 = e.toNat ∧ readNat s.mem.dram (p + 4) 2 = s.th.num / 16
        ((∀ p ∈ live, ¬ ours p) → exec (.fltr a e) s = .next ((s.setD a 0).advance 4)) ∧
        ∀ k (h : k < live.length), ours live[k] → (∀ j (h : j < k) (h' : j < live.length), ¬ ours live[j]) →
          exec (.fltr a e) s = .next ((s.setD a (.ofNat 64 live[k])).advance 4)) ∧
      (va % 65536 ≠ 0 → ∀ i ∈ [Instr.ctxsave a, .ctxload a], exec i s = .next (takeTrap 4 2 (s.getD a) s)) ∧
      (va % 65536 = 0 → s.th.cntRemote = 0 → s.th.cntGlobal = 0 → s.th.cntDevice = 0 → streamsDrained s = true →
        let r := { s with th := { s.th with resv := none } }
        ∀ u, storeWords va (areaWords r r.th (s.th.pc + 4)) r = .ok u →
          exec (.ctxsave a) s = .next ((catchFlits u.th u).advance 4)) ∧
      (va % 65536 = 0 → ¬ (s.th.cntRemote = 0 ∧ s.th.cntGlobal = 0 ∧ s.th.cntDevice = 0 ∧ streamsDrained s = true) → s.th.inHandler = false →
        waits (.ctxsave a)) ∧
      (∀ ws u, va % 65536 = 0 → loadedWords va 7104 s = .ok (ws, u) →
        let w (k : Nat) : Word := ws.getD k 0
        let good := areaOk w = true ∧ w 9 = u.th.spbase ∧ w 10 = u.th.spsize ∧ w 13 = .ofNat 64 u.th.taskid ∧
          ((w 0).toNat / 2 ^ 32 % 256 = 0 ∨ (w 15).toNat % 2 ^ 16 / 4 = u.th.num / 16)
        let bound := (List.range 8).filter fun k => (w (133 + 2 * k)).toNat % 2 ^ 32 ≠ 0
        (¬ good → exec (.ctxload a) s = .next (takeTrap 1 9 0 s)) ∧
        (good → bound.length ≤ (generatorsFor u u.th).length →
          exec (.ctxload a) s = .next (loadContext w u)) ∧
        (good → (generatorsFor u u.th).length < bound.length → s.th.inHandler = false → waits (.ctxload a))) ∧
      (16384 ≤ va → exec (.preempt a) s = .next (takeTrap 1 9 0 s)) ∧
      (va < 16384 → va = s.th.num → exec (.preempt a) s = .next (askPreempt va (s.advance 4))) ∧
      (va < 16384 → va ≠ s.th.num → s.thread? va = none →
        exec (.preempt a) s = .next ({ s with th := { s.th with micro := 0 } }.advance 4)) ∧
      (∀ t, va < 16384 → va ≠ s.th.num → s.thread? va = some t → s.th.micro = 0 → s.th.inHandler = false →
        exec (.preempt a) s = .next (let u := askPreempt va s; { u with th := { u.th with micro := 1, waiting := true } })) ∧
      (∀ t, va < 16384 → va ≠ s.th.num → s.thread? va = some t → s.th.micro = 1 →
        let isAsked := va ∈ s.preempts ∨ ∃ k, s.taskOf t = some k ∧ k.doomed = true
        (isAsked → s.th.inHandler = false → waits (.preempt a)) ∧
        (¬ isAsked → exec (.preempt a) s = .next ({ s with th := { s.th with micro := 0 } }.advance 4))))

/-- DISPATCH makes a requested task of the chosen card for the unit, of a re-dealt chunk first, else of new records from the card's
next on, a gang's of all of them; it counts the dispatch and changes no context and no memory. It does nothing while RUN is 0,
where no card fits, and where a pre-empted task of that card comes back first. PLACEMENT_REQUEST confirms a unit that fits; it
returns the chunk of another to the head of those dealt again; it ends a task whose scope is cancelling. LAUNCH gives each slot
a context in user mode at the card's entry with its partition size in d2 and its chunk in d3 and d4, where partitions and pages
can be had. TASK_START passes an absent lease list and an absent footprint list, and lets a task of no set and no phrase whose
launch is complete run. PREEMPTION asks for a context that only a higher class can displace, forgets a request for an empty
slot, and else moves every context of a unit whose counts are zero and whose streams are drained out of its slot, its PC and
registers kept. RESUMPTION brings the contexts of a unit back into the slots found for it, its PC and registers as kept, with
the flags raised meanwhile, unless other work goes first. PARTITION_EVICT puts the bytes of a quiet partition at an image page,
whose address PIMAGE of the context's save area takes, with the poison of its words, changes no other byte of DRAM and forgets
the partition's bytes; one in use, already evicted or not wanted stays. Where the spec leaves a point open it rests on the
model's own reading: log entries 4, 6, 26, 41, 57, 68, 69, 82, 90. -/
def Obligations.WorkIsDealtPlacedAndMoved : Prop :=
  ∀ (s : State),
    (∀ unit, s.welt.run = false ∨ chooseCard s unit = none → exec (.evDispatch unit) s = .next s) ∧
    (∀ unit c, s.welt.run = true → chooseCard s unit = some c → lookup c.id s.cards = some c →
      (hasReturn s c.id unit = true → exec (.evDispatch unit) s = .next s) ∧
      (hasReturn s c.id unit = false → c.redeals ≠ [] ∨ c.watchDeals = [] → ∃ t k c', exec (.evDispatch unit) s = .next t ∧
        t.th = s.th ∧ t.others = s.others ∧ t.parked = s.parked ∧ t.mem = s.mem ∧ t.nextId = s.nextId + 1 ∧
        lookup s.nextId t.tasks = some k ∧ k.stage = .requested ∧ k.card = c.id ∧ k.asid = c.asid ∧ k.scope = c.scope ∧ k.slots = unit ∧
        lookup c.id t.cards = some c' ∧ c'.count = c.count + 1 ∧ c'.watchDeals = c.watchDeals ∧
        match c.redeals with
        | x :: rest => k.chunk = x ∧ c'.redeals = rest ∧ c'.next = c.next
        | [] => c'.redeals = [] ∧ k.chunk.1 = (if c.gang then 0 else c.next) ∧
            if c.gang then k.chunk.2 = c.rcount ∧ c'.next = c.rcount
            else c'.next = c.next + k.chunk.2 ∧ k.chunk.2 ≤ c.rcount - c.next ∧ min c.minchunk (c.rcount - c.next) ≤ k.chunk.2)) ∧
    (∀ i k c, lookup i s.tasks = some k → k.id = i → k.stage = .requested → lookup k.card s.cards = some c →
      (3 ≤ scopeState s k.scope → ∃ t c', exec (.evPlacementRequest i) s = .next t ∧ lookup i t.tasks = none ∧
        lookup k.card t.cards = some c' ∧ c'.count = c.count - 1 ∧ c'.abn = c.abn + 1) ∧
      (scopeState s k.scope < 3 → fitsUnit s c k.slots = true →
        exec (.evPlacementRequest i) s = .next { s with tasks := insert i { k with stage := .launching } s.tasks }) ∧
      (scopeState s k.scope < 3 → fitsUnit s c k.slots = false →
        exec (.evPlacementRequest i) s = .next { s with
          tasks := remove i s.tasks, cards := insert k.card { c with redeals := k.chunk :: c.redeals, count := c.count - 1 } s.cards })) ∧
    (∀ i k c u t, lookup i s.tasks = some k → k.stage = .launching → lookup k.card s.cards = some c → (∀ x ∈ s.threads, x.taskid ≠ i) →
      scopeState s k.scope < 3 → k.slots.length ≤ freePages s →
      grantContexts k c (k.slots.zip (List.range k.slots.length)) s = some u → k.slots.foldlM (fun s n => fuseFor c n s) u = some t →
      exec (.evLaunch i) s = .next t ∧ (∃ k', lookup i t.tasks = some k' ∧ k'.slots = k.slots ∧ k'.card = k.card) ∧
        ∀ n ∈ k.slots, ∃ x ∈ t.others, x.live = true ∧ x.num = n ∧ x.taskid = k.id ∧ x.asid = c.asid ∧ x.scopeid = k.scope ∧
          x.pc = .ofNat 64 c.entry ∧ isSupervisor x.status = false ∧ x.segCount = c.scratch ∧ x.d[2] = .ofNat 64 (8192 * c.scratch) ∧
          (c.gang = false → k.chunk.2 ≠ 0 → x.d[3] = .ofNat 64 (c.rbase + k.chunk.1 * c.rsize) ∧ x.d[4] = .ofNat 64 k.chunk.2)) ∧
    (∀ i k c, lookup i s.tasks = some k → k.id = i → k.stage = .launching → lookup k.card s.cards = some c →
      (∀ n ∈ k.slots, ∃ x, s.thread? n = some x ∧ x.taskid = i) → scopeState s k.scope < 3 →
      (lookup 4 k.record = none → c.lease = 0 →
        exec (.evTaskStart i) s = .next { s with tasks := insert i { k with record := insert 4 1 k.record } s.tasks }) ∧
      (lookup 4 k.record ≠ none → lookup 5 k.record = none → c.footprint = 0 →
        exec (.evTaskStart i) s = .next { s with tasks := insert i { k with record := insert 5 1 k.record } s.tasks }) ∧
      (lookup 4 k.record ≠ none → lookup 5 k.record ≠ none → (∀ o ∈ s.eng.ops, o.task ≠ i) → c.mset = 0 → c.phrase = false →
        (s.threads.map Thread.num).Nodup → ∃ t, exec (.evTaskStart i) s = .next t ∧ lookup i t.tasks = some { k with stage := .running } ∧
          ∀ n ∈ k.slots, ∃ x y, s.thread? n = some x ∧ t.thread? n = some y ∧ y.pc = x.pc ∧ y.d = x.d ∧ y.acquired = true)) ∧
    (∀ n, n ∉ s.preempts →
      exec (.evPreemption n) s = .next (if isDisplaced s n then { s with preempts := s.preempts ++ [n] } else s)) ∧
    (∀ n, n ∈ s.preempts → s.thread? n = none →
      exec (.evPreemption n) s = .next { s with preempts := s.preempts.filter fun m => m ≠ n }) ∧
    (∀ n x k, n ∈ s.preempts → s.thread? n = some x → lookup x.taskid s.tasks = some k → k.id = x.taskid → k.stage = .running →
      k.doomed = false → lookup k.id s.gangs = none → (s.threads.map Thread.num).Nodup →
      (∀ y ∈ s.threads, y.taskid = k.id → y.cntRemote = 0 ∧ y.cntGlobal = 0 ∧ y.cntDevice = 0 ∧ y.replies = [] ∧ y.acted = none ∧
        streamsDrained (s.focus y.num) = true ∧ (∀ w, y.phrase ≠ .head w) ∧ ∀ h, y.phrase ≠ .dependent h) →
      ∃ t, exec (.evPreemption n) s = .next t ∧ n ∉ t.preempts ∧ (∀ y ∈ t.threads, y.taskid ≠ k.id) ∧
        lookup k.id t.tasks = some { k with parked := true, record := insert 6 k.id k.record } ∧
        ∀ y ∈ s.threads, if y.taskid = k.id then ∃ p ∈ t.parked, p.num = y.num ∧ p.taskid = k.id ∧ p.pc = y.pc ∧ p.d = y.d ∧ p.v = y.v ∧
            p.status = y.status ∧ p.waiting = false ∧ p.resv = none
          else y ∈ t.threads) ∧
    (∀ i k, lookup i s.tasks = some k → returnSlots s k = none → exec (.evResumption i) s = .next s) ∧
    (∀ i k xs, lookup i s.tasks = some k → returnSlots s k = some xs →
      (isOutranked s k (xs.map Prod.snd) = true → exec (.evResumption i) s = .next s) ∧
      (isOutranked s k (xs.map Prod.snd) = false → k.id = i → k.doomed = false → unitTasks s k = [k] →
        (∀ x ∈ xs, x.1.evicted = false ∧ x.1.taskid = i ∧ x.1.live = true ∧ x.1.marked = false) → (xs.map Prod.snd).Nodup →
        ∃ t k', exec (.evResumption i) s = .next t ∧ lookup i t.tasks = some k' ∧ k'.parked = false ∧ k'.flags = 0 ∧
          ∀ x ∈ xs, x.1 ∉ t.parked ∧ ∃ u, t.thread? x.2 = some u ∧ u.taskid = i ∧ u.pc = x.1.pc ∧ u.d = x.1.d ∧ u.v = x.1.v ∧
            u.status = x.1.status ∧ u.fmode = x.1.fmode ||| k.flags)) ∧
    (∀ i x, s.parked[i]? = some x →
      (x.evicted = true ∨ x.segCount = 0 ∨ isPartitionQuiet s x = false ∨ isCrowded s (coreOf x.num) = false →
        exec (.evPartitionEvict i) s = .next s) ∧
      (x.evicted = false → x.segCount ≠ 0 → isPartitionQuiet s x = true → isCrowded s (coreOf x.num) = true →
        ∃ t page, exec (.evPartitionEvict i) s = .next t ∧ page ≠ 0 ∧
          t.parked = s.parked.set i { x with pimage := 65536 * page, evicted := true } ∧
          (∀ a, coreOf x.num * 327680 + 8192 * x.segBase ≤ a → a < coreOf x.num * 327680 + 8192 * (x.segBase + x.segCount) →
            ∀ b, (a, b) ∉ t.mem.scratch) ∧
          (x.csa + 160 ≤ 2 ^ 52 → 65536 * page + 8256 * x.segCount ≤ 2 ^ 52 → ∀ j < 2048 * x.segCount,
            2 ^ 50 + (coreOf x.num * 327680 + 8192 * x.segBase) / 4 + j ∈ s.mem.poison → 16384 * page + j ∈ t.mem.poison) ∧
          (MemoryIsCanonical s → ∀ a, readByte t.mem.dram a =
            if x.csa + 152 ≤ a ∧ a < x.csa + 160 then BitVec.ofNat 8 (65536 * page / 256 ^ (a - (x.csa + 152)))
            else if 65536 * page ≤ a ∧ a < 65536 * page + 8256 * x.segCount then ((partitionImage s x)[a - 65536 * page]?).getD 0
            else readByte s.mem.dram a)))

/-- A message packet that no earlier one of its sender and receiver precedes leaves its sender's count and joins its receiver's
queue, or is counted as discarded where no context holds the slot; another waits. A remote store that nothing of its sender
precedes writes its bytes and no other, sets the full bit only under .s, and leaves the count; one behind a store of its sender
to the same slot waits. A gang's flit leaves once none has an earlier mesh cycle. A flit of the receiver's TOPINF that fits in
its partition, next from its sender, is written there with full bits and counted; one behind another waits. EXCHANGE_END gives
each member the counts of its exchange. A posted store whose home is its cluster is registered there with its value and leaves
the count, and so is a narrow one of this device, whose line gets the NARROW bit; a wide one for this device goes to the bank as
a publish, which carries its cluster's registration sequence, and stays counted; one behind another of its core to the same
slice or device waits; one of a word of the Welt register space, which has 8-byte registers (log entry 99), leaves with no
effect. A line that no slice may hold leaves its bank; for another the recalls are sent. A publish whose dependencies are met
writes its words and no other, and the store that it carries ends; one whose dependencies are not met waits in its bank's
buffer, or is refused where 64 wait. SUMMARY_EXCHANGE takes the applied numbers over and raises the dependency vectors to them;
a publish refused before it, and no other, is sent again. Where the spec leaves a point open it rests on the model's own
reading: log entries 21, 38, 53, 58, 60, 72, 80, 81, 91, 96. -/
def Obligations.MessagesAndStoresArrive : Prop :=
  ∀ (s : State),
    (∀ i p, s.packets[i]? = some p →
      ((∃ q ∈ s.packets.take i, q.sender = p.sender ∧ q.target = p.target) → exec (.evPacketArrival i) s = .next s) ∧
      ((∀ q ∈ s.packets.take i, q.sender = p.sender → q.target ≠ p.target) → ∃ t, exec (.evPacketArrival i) s = .next t ∧
        t.packets = s.packets.eraseIdx i ∧ t.mem = s.mem ∧
        (∀ x, s.thread? p.sender = some x → x.taskid = p.task →
          ∃ y, t.thread? p.sender = some y ∧ y.cntRemote = x.cntRemote - 1 ∧ y.d = x.d ∧ y.pc = x.pc) ∧
        (∀ x, s.thread? p.target = some x → x.queue.length < 16 → x.beyond = [] →
          ∃ y, t.thread? p.target = some y ∧ y.queue = x.queue ++ [p.msg] ∧ y.event = true ∧ y.d = x.d ∧ y.pc = x.pc) ∧
        (s.thread? p.target = none → ∀ d, s.dies[dieOfCore (coreOf p.target)]? = some d →
          t.dies[dieOfCore (coreOf p.target)]? = some { d with discard := d.discard + 1 }))) ∧
    (∀ i r, s.stores[i]? = some r →
      ((∃ q ∈ s.stores.take i, q.sender = r.sender ∧ q.task = r.task ∧ q.slot = r.slot) → exec (.evRemoteScratchWrite i) s = .next s) ∧
      ((∀ q ∈ s.stores.take i, q.sender = r.sender → q.task ≠ r.task) →
        (r.full = true → ∀ p ∈ s.mem.posted, p.thread = r.sender → p.taskid ≠ r.task) → ∃ t, exec (.evRemoteScratchWrite i) s = .next t ∧
        t.stores = s.stores.eraseIdx i ∧ (∀ k, k < r.bytes.length → lookup (r.key + k) t.mem.scratch = r.bytes[k]?) ∧
        (∀ a, a < r.key ∨ r.key + r.bytes.length ≤ a → lookup a t.mem.scratch = lookup a s.mem.scratch) ∧
        (r.full = true → isFull t r.key = true) ∧ (r.full = false → t.mem.full = s.mem.full) ∧
        ∀ x, s.thread? r.sender = some x → x.taskid = r.task →
          ∃ y, t.thread? r.sender = some y ∧ y.cntRemote = x.cntRemote - 1 ∧ y.d = x.d ∧ y.pc = x.pc)) ∧
    (∀ id g j cycle f, s.gangs.find? (fun g => g.2.toSend.any fun x => x.2.sender = f.sender && x.2.slot = f.slot) = some (id, g) →
      lookup id s.gangs = some g → isOver s id = false → g.toSend[j]? = some (cycle, f) →
      (∀ x ∈ g.toSend.take j, ¬ (x.2.sender = f.sender ∧ x.2.slot = f.slot)) →
      ((∃ x ∈ g.toSend, x.1 < cycle) → exec (.evTimetableFlitSend f.sender f.slot) s = .next s) ∧
      ((∀ x ∈ g.toSend, cycle ≤ x.1) → ∃ t more g', exec (.evTimetableFlitSend f.sender f.slot) s = .next t ∧
        t.flights = s.flights ++ f :: more ∧ lookup id t.gangs = some g' ∧ g'.toSend = g.toSend.eraseIdx j ∧ t.th = s.th ∧ t.mem = s.mem)) ∧
    (∀ i f k c x, s.flights[i]? = some f → isOver s f.task = false → lookup f.task s.tasks = some k → k.id = f.task →
      lookup k.card s.cards = some c → s.thread? f.receiver = some x → x.taskid = f.task → f.coord = none → f.isReply = false →
      ((∃ y ∈ s.flights.take i, y.task = f.task ∧ y.sender = f.sender ∧ y.receiver = f.receiver) →
        exec (.evExchangePacketArrival i) s = .next s) ∧
      ((∀ y ∈ s.flights.take i, y.task = f.task → y.sender = f.sender → y.receiver ≠ f.receiver) →
        f.last ≤ x.spsize.toNat → f.topinf = topinfOf x.fmode → ∃ t, exec (.evExchangePacketArrival i) s = .next t ∧
        t.flights = s.flights.eraseIdx i ∧ t.th = s.th ∧ t.others = s.others ∧
        (∀ j, j < f.bytes.length → lookup (scratchKey x f.doff + j) t.mem.scratch = f.bytes[j]? ∧ isFull t (scratchKey x f.doff + j) = true) ∧
        (∀ a, a < scratchKey x f.doff ∨ scratchKey x f.doff + f.bytes.length ≤ a → lookup a t.mem.scratch = lookup a s.mem.scratch) ∧
        tally f.task (tallyKey x.num 0) t = tally f.task (tallyKey x.num 0) s + 1)) ∧
    (∀ id k g, lookup id s.tasks = some k → lookup id s.gangs = some g → isOver s id = false → g.started = true → g.toSend = [] →
      g.coords = [] → (∀ f ∈ s.flights, f.task ≠ id) → ∃ t, exec (.evExchangeEnd id) s = .next t ∧ t.mem = s.mem ∧
        lookup id t.gangs = some { serving := g.requests } ∧ ∀ n ∈ k.slots, ∀ x, s.thread? n = some x → x.taskid = id →
        ∃ y, t.thread? n = some y ∧ y.exch.done = true ∧ y.exch.arrived = false ∧ y.exch.posted = [] ∧ y.exch.sources = [] ∧
          y.exch.flits = (lookup (tallyKey n 0) g.journal).getD 0 ∧ y.exch.repl = (lookup (tallyKey n 1) g.journal).getD 0 ∧
          y.exch.adds = (lookup (tallyKey n 2) g.journal).getD 0 ∧ y.exch.rej = (lookup (tallyKey n 3) g.journal).getD 0 ∧
          y.d = x.d ∧ y.pc = x.pc) ∧
    (∀ i p v cp, s.mem.posted[i]? = some p → p.kind = .store [v] cp → wordsOf p.va p.size = [p.va / 4] → p.sent = none →
      let ends (t : State) := t.mem.posted = s.mem.posted.eraseIdx i ∧ ∀ x, s.thread? p.thread = some x → x.taskid = p.taskid →
        ∃ y, t.thread? p.thread = some y ∧ y.cntGlobal = x.cntGlobal - 1 ∧ y.d = x.d ∧ y.pc = x.pc
      ((∃ q ∈ s.mem.posted.take i, q.core = p.core ∧ (sliceIndex q.va = sliceIndex p.va ∨
        ∃ d, farAt s p.asid p.va = some d ∧ farAt s q.asid q.va = some d)) → exec (.evGlobalStoreRegister i) s = .next s) ∧
      (isBehind s p.core p.asid p.va (s.mem.posted.take i) = false → (arrivePosted i p s).isSome = true →
        (classAt s p.asid p.va < 2 → checkHome p.agent true p.va p.size s = .ok () → ∃ t, exec (.evGlobalStoreRegister i) s = .next t ∧
          ends t ∧ if cp = .noAlloc then (homeFind t (clusterOfCore p.core) p.asid (p.va / 4)).map (fun h => (h.val, h.owner)) = some (some v.1, none)
          else (l1Find t (l1Core t p.core p.va) p.asid (p.va / 4)).map (fun w => (w.val, w.dirty, w.registered)) = some (v.1, true, true)) ∧
        (∀ pa perm u, 2 ≤ classAt s p.asid p.va → p.scope < 5 → placeNarrow p.agent p.va p.size s = .ok (pa, perm, u) →
          isRemote pa = false → isWelt pa = false → cp ≠ .noAlloc → p.core < 4096 → ∃ t, exec (.evGlobalStoreRegister i) s = .next t ∧ ends t ∧
          (llcLine t (pa / 128)).narrow.getLsbD (clusterOfCore p.core) = true ∧
          (l1Find t (l1Core t p.core p.va) p.asid (p.va / 4)).map (fun w => (w.val, w.registered, w.narrow)) = some (v.1, true, true)) ∧
        (∀ pa perm u, 2 ≤ classAt s p.asid p.va → 5 ≤ p.scope → placeFor p.agent false true p.va p.size s = .ok (pa, perm, u) →
          (isWelt pa = true → ∃ t, exec (.evGlobalStoreRegister i) s = .next t ∧ ends t ∧ t.welt = s.welt) ∧
          (isRemote pa = false → isWelt pa = false → ∃ t q more, exec (.evGlobalStoreRegister i) s = .next t ∧ t.mem.pubs = more ++ [q] ∧
            q.words = [(pa / 4, v)] ∧ q.cluster = clusterOfCore p.core ∧ q.buffered = false ∧ q.refused = false ∧
            q.registration = (lookup q.cluster (llcLine t (pa / 128)).seqs).getD 0 ∧
            t.mem.posted = s.mem.posted.set i { p with sent := some (q.die, q.seq) })))) ∧
    (∀ line l, lookup line s.mem.llc = some l → (∀ r ∈ s.mem.recalls, r.line ≠ line) →
      (l.present = 0 → (∀ h ∈ s.mem.slices, ∀ p ∈ h.pw.toList, p / 32 ≠ line) → ∃ t, exec (.evLlcEvict line) s = .next t ∧
        t.mem.llc = remove line s.mem.llc ∧ t.mem.dram = s.mem.dram ∧ t.mem.l1 = s.mem.l1 ∧ t.mem.slices = s.mem.slices) ∧
      (l.present ≠ 0 → exec (.evLlcEvict line) s = .next { s with mem := { s.mem with recalls := s.mem.recalls ++
        (((List.range 32).filter fun c => l.present.getLsbD c).map fun c => ⟨line, c, (lookup c l.seqs).getD 0⟩) } })) ∧
    (∀ i p, s.mem.pubs[i]? = some p →
      ((∀ q ∈ s.mem.pubs.take i, ∀ a ∈ q.words, ∀ b ∈ p.words, a.1 / 32 ≠ b.1 / 32) → p.refused = false → depsMet s p.die p.deps = true →
        (∀ w ∈ p.words, lookup (w.1 / 32) s.mem.llc ≠ none) → (p.words.map Prod.fst).Nodup →
        (storeOf p s = none → ∃ t, exec (.evPublishApply i) s = .next t ∧ t.mem.pubs = s.mem.pubs.eraseIdx i ∧
          (MemoryIsCanonical s → (∀ w ∈ p.words, bankWord t w.1 = w.2.1) ∧
            ∀ a, (∀ w ∈ p.words, a / 4 ≠ w.1) → readByte t.mem.dram a = readByte s.mem.dram a)) ∧
        (∀ k q, storeOf p s = some (k, q) → (applyPublish i p s).isSome = true → ∃ t, exec (.evPublishApply i) s = .next t ∧
          t.mem.posted = s.mem.posted.eraseIdx k ∧ ∀ x, s.thread? q.thread = some x → x.taskid = q.taskid →
            ∃ y, t.thread? q.thread = some y ∧ y.cntGlobal = x.cntGlobal - 1 ∧ y.d = x.d ∧ y.pc = x.pc)) ∧
      (depsMet s p.die p.deps = false → p.buffered = false → p.refused = false →
        exec (.evPublishApply i) s = .next { s with mem := { s.mem with
          pubs := s.mem.pubs.set i (if 64 ≤ (s.mem.pubs.filter fun q => q.buffered && q.bank = p.bank).length then { p with refused := true } else { p with buffered := true }) } }) ∧
      exec (.evPublishResend i) s = .next (if p.refused ∧ p.due then
        { s with mem := { s.mem with pubs := s.mem.pubs.set i { p with refused := false, due := false } } } else s)) ∧
    (∃ t, exec .evSummaryExchange s = .next t ∧ t.mem.summary = s.mem.applied ∧ t.mem.dram = s.mem.dram ∧
      t.mem.pubs = (s.mem.pubs.map fun p => if p.refused then { p with due := true } else p) ∧
      ∀ d e, d < 8 → e < 8 → ∃ v w x : Nat, ((s.mem.depV[d]?).bind fun r => r[e]?) = some v ∧ s.mem.applied[e]? = some w ∧
        ((t.mem.depV[d]?).bind fun r => r[e]?) = some x ∧ x = if seqGe w v then w else v)

/-- The oldest operation of a context 0 to 7 leaves its timeline once nothing of it is left; an abnormal status is recorded. A walk
claims the next slot of its ring where enough stand ready, else waits. An operation whose next access faults halts with a record
that names it, its cause and address, and the supervisor thread is interrupted; where the ring is full it waits. A resume packet
clears the halt under DISP 0 and 1, discards the operation under DISP 2, and leaves its sender's count. A shoot-down drops every
translation of its page; a page that is moving holds requests, one at rest, to whose place the slices' words find room, holds
none. The command that is next from its sender leaves the count when accepted, and the operation of a lost task's is cut; a
refused one sets the remote-error bit; one behind another waits. A reservation ends after 64 instructions and not before. A mark
reaches the thread it is for. The 4096th instruction is a kill point, where a doomed thread takes its handler or ends, and
starts the count again; 2048 instructions in a cancel handler end the thread, status and all. A killed task's operations are
cut, and it ends with its status once nothing of it is left. A cancelling scope whose subtree has finished, with nothing of its
ended tasks on its way, becomes cancelled, one of a card is freed; a closing scope that is idle is freed. Where the spec leaves
a point open it rests on the model's own reading: log entries 39, 51, 52, 66, 71, 95. -/
def Obligations.EnginesFaultsAndCancellationGoOn : Prop :=
  ∀ (s : State),
    (∀ tile ctx o rest, inFlight s tile ctx = o :: rest → ctx < 8 → o.isSpent = true → o.halt = none → o.sent = 0 → o.doneWord = 0 →
      (∀ k target addr bs sent, o.kind ≠ .drain k target addr bs sent) → (o.status = none ∨ ∃ st, o.status = some st ∧ st ≠ 0 ∧ st ≠ 4 ∧ st ≠ 7) →
      ∃ t, exec (.evEngineOpComplete tile ctx) s = .next t ∧ inFlight t tile ctx = rest.filter (fun x => x.num ≠ o.num) ∧
        t.mem.dram = s.mem.dram ∧ t.mem.scratch = s.mem.scratch ∧ t.th.d = s.th.d ∧ t.th.pc = s.th.pc ∧
        ((engCtx t tile ctx).abn, (engCtx t tile ctx).abnStatus) = match o.status with
          | none => ((engCtx s tile ctx).abn, (engCtx s tile ctx).abnStatus)
          | some st => (o.num, st)) ∧
    (∀ tile ctx num o h wb need step steps claimed e, opAt s tile ctx num = some o → o.kind = .walk h wb need (step :: steps) claimed →
      lookup (64 * tile + h) s.eng.handles = some e →
      ((if wb then e.full else e.free) < max need 1 → exec (.evWalkSlotClaim tile ctx num) s = .next s) ∧
      (∀ x, o.halt = none → o.status = none → max need 1 ≤ (if wb then e.full else e.free) → contextOf s e.holder e.task = some x →
        (step ≠ [] ∧ ∀ c ∈ claimed, c.2 ≠ []) → let slot := if wb then e.cons else e.prod
        e.slots[slot]? = some (if wb then .full else .free) → ∃ t, exec (.evWalkSlotClaim tile ctx num) s = .next t ∧ t.mem = s.mem ∧ t.th = s.th ∧
          lookup (64 * tile + h) t.eng.handles = some { e with
            slots := e.slots.set slot (if wb then .draining else .filling)
            cons := if wb then (slot + 1) % e.slots.length else e.cons, prod := if wb then e.prod else (slot + 1) % e.slots.length } ∧
          opAt t tile ctx num = some { o with kind := .walk h wb 1 steps (claimed ++
            [(slot, granuleJobs (step.map (placeInSlot (scratchKey x (e.base + 16 * e.ssize * slot)))))]) })) ∧
    (∀ tile ctx num o j rest cause va d, opAt s tile ctx num = some o → o.halt = none → o.status = none → o.flits = 0 → o.todo = j :: rest →
      overwritten o 0 = none → moveJob o j s = .error (.fault cause va) → s.dies[dieOfTile tile]? = some d → let n := d.frslots.toNat
      (n = 0 ∨ (d.frtail.toNat + 1) % n = d.frhead.toNat % n → exec (.evEngineFault tile ctx num) s = .next s) ∧
      (n ≠ 0 → (d.frtail.toNat + 1) % n ≠ d.frhead.toNat % n → let r := d.frbase.toNat + 64 * d.frtail.toNat
        ∃ t, exec (.evEngineFault tile ctx num) s = .next t ∧
          (∃ o', opAt t tile ctx num = some o' ∧ o'.halt = some ⟨r, d.recSeq + 1, dieOfTile tile⟩ ∧ o'.status = none ∧ o'.made = o.made ∧
            ((∀ x ∈ s.fab.replies, x.2.1 ≠ 9) → o' = { o with halt := o'.halt })) ∧
          t.dies[dieOfTile tile]? = some { d with
            recSeq := d.recSeq + 1, fault := .ofNat 64 r, frtail := .ofNat 64 ((d.frtail.toNat + 1) % n) } ∧
          (MemoryIsCanonical s → readNat t.mem.dram (r + 6) 1 = cause % 256 ∧ readNat t.mem.dram (r + 7) 1 = 1 ∧
            readNat t.mem.dram (r + 16) 8 = o.num % 2 ^ 64 ∧ readNat t.mem.dram (r + 24) 8 = va / 16 * 16 % 2 ^ 64 ∧
            ∀ a, a < r ∨ r + 64 ≤ a → readByte t.mem.dram a = readByte s.mem.dram a) ∧
          ∀ x, s.thread? (d.super.toNat % 2 ^ 14) = some x →
            t.thread? (d.super.toNat % 2 ^ 14) = some { x with intrs := x.intrs ++ [d.super.toNat / 2 ^ 16 % 256] })) ∧
    (∀ i num va x pa b z rd wr ex mv o h, s.eng.resumes[i]? = some (num, va) → s.thread? num = some x →
      walk s x.asid va = .page pa b z rd wr ex mv → o ∈ s.eng.ops → o.halt = some h →
      (∀ q ∈ s.eng.ops, q.tile = o.tile → q.ctx % 16 = o.ctx % 16 → q.num = o.num → q = o) → let f (k n : Nat) := readNat s.mem.dram (pa + k) n
      f 3 1 = o.ctx % 16 → f 4 2 = o.tile → f 7 1 = 1 → f 16 8 = o.num → f 48 8 = h.seq → ∃ t, exec (.evResumePacket i) s = .next t ∧
        t.eng.resumes = s.eng.resumes.eraseIdx i ∧
        (∃ y, t.thread? num = some y ∧ y.cntGlobal = x.cntGlobal - 1 ∧ y.d = x.d ∧ y.pc = x.pc) ∧
        (f 8 1 < 2 → opAt t o.tile o.ctx o.num = some { o with halt := none } ∧ (MemoryIsCanonical s → readNat t.mem.dram (pa + 7) 1 = 2)) ∧
        (2 ≤ f 8 1 → (MemoryIsCanonical s → readNat t.mem.dram (pa + 7) 1 = 3) ∧
          ∃ p, opAt t o.tile o.ctx o.num = some p ∧ p.halt = none ∧ p.status = some 8 ∧ p.todo = [])) ∧
    (∀ asid va, ∃ t, exec (.evShootdown asid va) s = .next t ∧ (∀ e ∈ t.mem.tlb, e.asid = asid → e.vbase ≤ va → e.vbase + e.size ≤ va) ∧
      t.th.d = s.th.d ∧ t.th.pc = s.th.pc ∧ ∀ pa b z rd wr ex, 0 < z →
        (walk s asid va = .page pa b z rd wr ex true → isOnTheMove t asid va = true) ∧
        (walk s asid va = .page pa b z rd wr ex false →
          (∀ m ∈ s.mem.moving, m.asid = asid → m.base ≤ va → va < m.base + m.size → (rebase m b (shootDown asid va s)).isSome = true) →
          isOnTheMove t asid va = false)) ∧
    (∀ i c, s.eng.commands[i]? = some c → let move : Instr := if c.engine = 2 then .evMatrixCommandArrival i else .evCommandArrival i
      let accept := if c.engine = 2 then acceptMatrix c s else acceptCommand c s
      c.engine ≤ 2 →
      ((∃ q ∈ s.eng.commands.take i, q.sender = c.sender ∧ capTile q.cap = capTile c.cap) → exec move s = .next s) ∧
      ((∀ q ∈ s.eng.commands.take i, q.sender = c.sender → capTile q.cap ≠ capTile c.cap) → isLostDie s (16 * capTile c.cap) = false →
        (∀ u, accept = .ok u → ∃ t, exec move s = .next t ∧ t.eng.commands = u.eng.commands.erase c ∧
          (c.lost = false → t.eng.ops = u.eng.ops ∧ t.mem = u.mem) ∧
          (c.lost = true → ∀ o ∈ u.eng.ops, opAt s o.tile o.ctx o.num = none → o.status ≠ some 7 →
            ∃ p, opAt t o.tile o.ctx o.num = some p ∧ p.status = some 1 ∧ p.todo = []) ∧
          ∀ x, u.thread? c.sender = some x → x.taskid = c.senderTask →
            ∃ y, t.thread? c.sender = some y ∧ y.cntRemote = x.cntRemote - 1 ∧ y.rerr = x.rerr ∧ y.d = x.d ∧ y.pc = x.pc) ∧
        (∀ cls sub addr, accept = .error (.trap cls sub addr) → ∃ t, exec move s = .next t ∧ t.eng.commands = s.eng.commands.erase c ∧
          t.eng.ops = s.eng.ops ∧ t.mem = s.mem ∧ ∀ x, s.thread? c.sender = some x → x.taskid = c.senderTask →
            ∃ y, t.thread? c.sender = some y ∧ y.cntRemote = x.cntRemote - 1 ∧ y.rerr = true ∧ y.refused = x.refused + 1 ∧ y.d = x.d ∧
              y.pc = x.pc))) ∧
    (exec .reservationExpiry s = .next (if (s.th.resv.any fun r => decide (64 ≤ r.since)) = true then
      { s with th := { s.th with resv := none } } else s)) ∧
    (∀ num, num ∈ s.marks → ∃ t, exec (.evCancelMarkArrival num) s = .next t ∧ t.marks = s.marks.erase num ∧ t.mem = s.mem ∧
      ∀ x, s.thread? num = some x → t.thread? num = some { x with marked := true }) ∧
    (s.th.killCount < 4096 → exec .killCountBoundary s = .next s) ∧
    (4096 ≤ s.th.killCount →
      (isDoomed s = false → exec .killCountBoundary s = .next { s with th := { s.th with killCount := 0 } }) ∧
      (isDoomed s = true → ∃ t, exec .killCountBoundary s = .next t ∧ t.th.observed = true ∧ t.th.killCount = 0 ∧ t.th.d = s.th.d ∧
        (s.th.onc ≠ 0 → s.th.inHandler = false → s.th.status.getLsbD 4 = false →
          t.th.epc = s.th.pc &&& ~~~ 3 ∧ t.th.cause = 0x1D00 ∧ t.th.pc = s.th.tvec + 0x740) ∧
        (s.th.onc = 0 → t.th.run = .draining))) ∧
    (s.th.inHandler = true → 2048 ≤ s.th.handlerCount → ∃ t, exec .cancelHandlerLimit s = .next t ∧ t.th.run = .draining ∧ t.th.d = s.th.d ∧
      ∀ k, lookup s.th.taskid s.tasks = some k → k.stage = .running → k.live = [s.th.num] → ∃ k',
        lookup s.th.taskid t.tasks = some k' ∧ k'.stage = .ending ((lookup 3 k.record).getD (cancelStatus s k.scope))) ∧
    (s.th.inHandler = false ∨ s.th.handlerCount < 2048 → exec .cancelHandlerLimit s = .next s) ∧
    (∀ id k st, lookup id s.tasks = some k → k.stage = .ending st → lookup id s.gangs = none →
      (∀ x ∈ contextsOf s id, x.cntRemote = 0 ∧ x.cntGlobal = 0 ∧ x.cntDevice = 0) →
      ((∃ o ∈ s.eng.ops, o.task = id ∧ o.status ≠ some 1 ∧ o.status ≠ some 7) → ∃ t, exec (.evEndKilled id) s = .next t ∧
        (∀ o ∈ t.eng.ops, o.task = id → o.status = some 1 ∨ o.status = some 7) ∧
        ∀ o ∈ s.eng.ops, o.task = id → o.status ≠ some 1 → o.status ≠ some 7 →
          ∃ p ∈ t.eng.ops, p.tile = o.tile ∧ p.ctx = o.ctx ∧ p.num = o.num ∧ p.status = some 1 ∧ p.todo = []) ∧
      (∀ c, (∀ o ∈ s.eng.ops, o.task ≠ id) → contextsOf s id = [] → k.id = id → st ≠ 0 → lookup k.card s.cards = some c →
        ∃ t c', exec (.evEndKilled id) s = .next t ∧ t = finishTask id st s ∧ lookup k.card t.cards = some c' ∧ c'.count = c.count - 1 ∧
          c'.abn = c.abn + 1)) ∧
    (∀ id r, s.scope? id = some r → r.state = 3 → (∀ x ∈ s.tasks, x.2.scope ≠ id ∧ x.2.scope ∉ subtree s id) →
      (∀ o ∈ s.eng.ops, o.scope ≠ id ∧ o.scope ∉ subtree s id) → (∀ c ∈ s.eng.commands, c.scope ≠ id ∧ c.scope ∉ subtree s id) →
      (∀ x ∈ s.trailing, x.2 = id ∨ x.2 ∈ subtree s id → isStillSent s x.1 = false) →
      (∀ x ∈ subtree s id, x ≠ id → scopeState s x = 4) → (∀ c ∈ s.cards, c.2.scope = id → c.2.isPending = false) →
      ∃ t, exec (.evScopeCancelled id) s = .next t ∧
        (r.kind = 0 ∨ (r.kind = 2 ∧ lookup r.owner s.tasks ≠ none) → scopeState t id = 4) ∧
        (r.kind = 1 → (∀ x ∈ s.cards, lookup x.1 s.cards = some x.2) → t.scopes = remove id (insert id { r with state := 4 } s.scopes) ∧ ∀ c ∈ t.cards, c.2.scope = id → c.2.complete = false)) ∧
    (∀ id r, s.scope? id = some r → r.state = 2 → (r.kind ≠ 2 ∨ lookup r.owner s.tasks = none) →
      (isScopeIdle s id = false → exec (.evScopeFreed id) s = .next s) ∧
      (isScopeIdle s id = true → ∃ t, exec (.evScopeFreed id) s = .next t ∧ t.scopes = remove id s.scopes ∧
        ∀ c ∈ t.cards, c.2.scope = id → c.2.complete = false))

/-- Each event answers a next state in every state. Four causes fence a die that is up: it is then fenced and not live, no context
is left on it and the count of fences is one higher. A reset brings a fenced die up or asks for replacement. A snapshot is
latched 2,048 ns after its first trigger, once; a trigger behind its latch time begins the next. The start stops with the code
of the step that fails: without a seed from the helper data, from which the two identity keys are derived, or without FLOOR's
HMAC. The Laster finds the keys locked; the last step makes the device READY with FLOOR raised. DISTCTL drives RUN, READY and
DEVSTATE. A register that holds its value reads back the bits it holds. DISCARD, node slots, retirement, the power cap and a
failed NVMe controller act as written. Where the spec leaves a point open it rests on the model's own reading: log entries 7,
23, 27, 28, 29, 43, 100. -/
def Obligations.DiesAndWeltRegistersAct : Prop :=
  ∀ (s : State),
    (∀ die d, s.dies[die]? = some d →
      (∀ e ∈ ([(.evDieFence die, true), (.evWatchdogExpiry die, d.watchdog), (.evThermalTrip die, d.trip)] : List (Instr × Bool)),
        exec e.1 s = .next (if e.2 then fenceDie die s else s)) ∧
      (∀ v : Word, exec (.weltDiectlFence die v) s = .next (if v.getLsbD 0 then fenceDie die s else s)) ∧
      (d.fenced = true ∨ d.live = false → fenceDie die s = s) ∧
      (d.fenced = false → d.live = true → ∃ d', (fenceDie die s).dies[die]? = some d' ∧ d'.fenced = true ∧ d'.live = false ∧
        (fenceDie die s).mgmt.fences = s.mgmt.fences + 1 ∧
        ∀ x ∈ (fenceDie die s).threads, x.num < 16384 → dieOfCore (coreOf x.num) ≠ die) ∧
      exec (.evThermalThrottle die) s = .next { s with dies := s.dies.setIfInBounds die { d with throttled := d.hot } } ∧
      (∀ (v : Word) (up : Bool), ∃ t, exec (.weltDiectlReset die v up) s = .next t ∧ (v.getLsbD 1 = false ∨ d.fenced = false → t = s) ∧
        (v.getLsbD 1 = true → d.fenced = true → ∃ d', t.dies[die]? = some d' ∧ d'.live = up ∧ d'.fenced = !up ∧ d'.ftm = false ∧
          t.mgmt.replace = (s.mgmt.replace || !up))) ∧
      (∀ v : Word, exec (.weltDiscard die v) s =
        .next { s with dies := s.dies.setIfInBounds die { d with discard := (BitVec.ofNat 64 d.discard &&& ~~~ v).toNat } }) ∧
      (∀ (k : Nat) (v : Word), ∃ t, exec (.weltNodeBind die k v) s = .next t ∧ (64 ≤ k → t = s) ∧
        (k < 64 → ∃ d', t.dies[die]? = some d' ∧
          ((bits v.toNat 29 28 = 0 ∨ (∃ c ∈ s.cards, c.2.scope = bits v.toNat 15 0 ∧ c.2.complete = false)) →
            lookup k d'.nodes = some (v &&& 0x00000FFFFFFFFFFF)) ∧
          (bits v.toNat 29 28 = 2 → (∀ c ∈ s.cards, c.2.scope = bits v.toNat 15 0 → c.2.complete = true) →
            lookup k d'.nodes = some (v &&& 0x00000FFFCFFFFFFF) ∧ t.mgmt.interrupts = s.mgmt.interrupts ++ [bits v.toNat 37 30])))) ∧
    (∀ e ∈ [Instr.evSnaptrigEdge, .weltSnapcmd 1], (∀ x, s.snap.latchAt = some x →
        (s.time < x → exec e s = .next s) ∧ (x ≤ s.time → ∃ t, exec e s = .next t ∧ t.snap.latchAt = some (s.time + 2048) ∧
          t.snap.time = x ∧ t.snap.seq = (s.snap.seq + 1) % 2 ^ 32 ∧ t.snap.retired = s.snap.liveRetired ∧ t.snap.bytes = s.snap.liveBytes)) ∧
      (s.snap.latchAt = none → exec e s = .next { s with snap := { s.snap with latchAt := some (s.time + 2048) } })) ∧
    exec (.weltSnapcmd 0) s = .next s ∧
    (∃ t, exec .evSnapshotLatch s = .next t ∧ (s.snap.latchAt = none → t = s) ∧
      ∀ x, s.snap.latchAt = some x → (s.time < x → t = s) ∧
        (x ≤ s.time → t.snap.latchAt = none ∧ t.snap.time = x ∧ t.snap.seq = (s.snap.seq + 1) % 2 ^ 32 ∧
          t.snap.retired = s.snap.liveRetired ∧ t.snap.bytes = s.snap.liveBytes ∧ t.th = s.th ∧ t.mem = s.mem)) ∧
    (∃ t, exec .evPowerGood s = .next t ∧ (s.mgmt.devstate = 15 ∨ 8 ≤ s.mgmt.stage → t = s) ∧
      (s.mgmt.devstate ≠ 15 → ∀ k, s.mgmt.stage = k → k < 8 →
        t.mgmt.stage = k + 1 ∨ (t.mgmt.stage = k ∧ t.mgmt.devstate = 15 ∧ t.mgmt.code = k ∧ 1 ≤ k ∧ k ≤ 6)) ∧
      (s.mgmt.devstate ≠ 15 → s.mgmt.stage = 1 → match Config.rebuildSeed Config.startPattern s.mgmt.helper with
        | none => t.mgmt.devstate = 15
        | some k => t.mgmt.stage = 2 ∧ t.mgmt.seed = some k ∧ t.mgmt.keys = some (Config.hkdf k 0, Config.hkdf k 1)) ∧
      (s.mgmt.devstate ≠ 15 → s.mgmt.stage = 2 → (∀ k, s.mgmt.seed = some k →
        s.mgmt.floorMac ≠ Config.hmacSha384 (Config.hkdf k 2) (bytesOf 4 s.mgmt.floor)) → t.mgmt.devstate = 15) ∧
      (s.mgmt.devstate ≠ 15 → s.mgmt.stage = 5 → (t.mgmt.stage = 6 ∧ t.mgmt.keysLocked = true ∧ t.mgmt.devstate = 2) ∨
        (t.mgmt.stage = 5 ∧ t.mgmt.devstate = 15)) ∧
      (s.mgmt.devstate ≠ 15 → s.mgmt.stage = 4 → s.mgmt.trainOk = false → t.mgmt.devstate = 15) ∧
      (s.mgmt.devstate ≠ 15 → s.mgmt.stage = 6 → (∀ d : Nat, s.mgmt.diesOk[d]? ≠ some true) → t.mgmt.devstate = 15) ∧
      (s.mgmt.devstate ≠ 15 → s.mgmt.stage = 7 → t.mgmt.devstate = 3 ∧ t.mgmt.floor = max s.mgmt.floor s.mgmt.recSvn ∧
        t.welt.run = true ∧ t.welt.ready = true)) ∧
    (∀ v : Word, ∃ t, exec (.weltDistctl v) s = .next t ∧ t.welt.run = v.getLsbD 0 ∧ t.welt.ready = v.getLsbD 1 ∧ t.th = s.th ∧
      t.mgmt.devstate = if v.getLsbD 1 = true ∧ s.mgmt.devstate = 2 then 3
        else if v.getLsbD 1 = false ∧ s.mgmt.devstate = 3 then 2 else s.mgmt.devstate) ∧
    (∀ (off : Nat) (v : Word), ∃ t, exec (.weltRegisterWrite off v) s = .next t ∧ (off % 8 ≠ 0 → t = s) ∧
      ∀ m, weltMask off = some m → weltRegister t off = v &&& m) ∧
    (∀ (tile : Nat) (v : Word), ∃ t, exec (.weltTilectl tile v) s = .next t ∧ (1024 ≤ tile → t = s) ∧
      (tile < 1024 → ((lookup tile t.eng.tiles).getD {}).retired = v.getLsbD 0) ∧
      (tile < 1024 → v.getLsbD 0 = true → ((lookup tile s.eng.tiles).getD {}).retired = false →
        t.mgmt.replace = true ∧ ∀ k ∈ t.eng.keys, k.tile ≠ tile)) ∧
    (∀ watts, ∃ t, exec (.mgmtPowerCap watts) s = .next t ∧ (watts < 900 ∨ 1800 < watts → t = s) ∧
      (900 ≤ watts → watts ≤ 1800 → t = { s with mgmt := t.mgmt } ∧ t.mgmt.powerCap = watts ∧ (watts = 1800 → t.mgmt.clock = 700))) ∧
    (∀ ctrl, 4 ≤ ctrl → exec (.evNvmeFailure ctrl) s = .next s) ∧
    (∀ ctrl, ctrl < 4 → ∃ t, exec (.evNvmeFailure ctrl) s = .next t ∧ ((t.mgmt.nvme[ctrl]?).map fun n => n.ok) = some false)

/-- Each event answers a next state in every state. CTAIL, PHEAD, QENABLE, QERROR and HOSTVER set what they name; a tail at or above
the ring stops its queue once the device is READY; a card is read only from an enabled queue that is not empty, and the head
moves on. BAR0 writes touch no context and no memory; BAR2 accesses inside the window read and write, but for protected bytes,
which read as zeros and are not written. A message of an attestation out of turn is answered with nothing, else with its answer,
and the transcript grows. The TAP instructions load their registers; FTEST needs the debug key and a fenced die. A debug command
without a session has no effect; with one it does its work, a READMEM or WRITEMEM once its page and its banks let it. Where the
spec leaves a point open it rests on the model's own reading: log entries 25, 47, 73, 100. -/
def Obligations.HostAndManagementAct : Prop :=
  ∀ (s : State),
    exec .evHostLinkUp s = .next (if s.mgmt.stage = 0 then s else { s with host := { s.host with up := true } }) ∧
    (∀ (q : Nat) (h : HostQueue) (v : Word), s.host.queues[q]? = some h →
      (∃ t h', exec (.hostCtail q v) s = .next t ∧ t.host.queues[q]? = some h' ∧ h'.ctail = v.toNat % 2 ^ 32 ∧
        (s.mgmt.devstate = 3 ∧ h.csize ≤ v.toNat % 2 ^ 32 → h'.enabled = false ∧ h'.error = true) ∧
        (s.mgmt.devstate ≠ 3 ∨ v.toNat % 2 ^ 32 < h.csize → h'.enabled = h.enabled ∧ h'.error = h.error)) ∧
      (∃ t h', exec (.hostPhead q v) s = .next t ∧ t.host.queues[q]? = some h' ∧ h'.phead = v.toNat % 2 ^ 32 ∧ t.mem = s.mem ∧
        (h.held = [] → h' = { h with phead := v.toNat % 2 ^ 32 })) ∧
      (∃ t h', exec (.hostQenable v) s = .next t ∧ t.host.queues[q]? = some h' ∧ (s.host.chosen = 0 → t = s) ∧
        (s.host.chosen ≠ 0 → s.mgmt.devstate ≠ 3 → h'.enabled = v.getLsbD q)) ∧
      (∃ t h', exec (.hostQerror v) s = .next t ∧ t.host.queues[q]? = some h' ∧ h'.error = (h.error && !v.getLsbD q) ∧
        h'.enabled = h.enabled) ∧
      (∃ t h', exec (.hostVerNeg v) s = .next t ∧ t.host.queues[q]? = some h' ∧ t.host.hmax = bits v.toNat 31 24 ∧
        t.host.hmin = bits v.toNat 23 16 ∧ (v.getLsbD 40 = false → t.host.chosen = s.host.chosen ∧ h' = h) ∧
        (v.getLsbD 40 = true → (t.host.chosen = 0 → h'.enabled = false) ∧
          (∀ k, t.host.chosen = k → k ≠ 0 → h' = h ∧ 1 ≤ k ∧ k ≤ 2 ∧ t.host.hmin ≤ k ∧ k ≤ t.host.hmax ∧
            ∀ j, 1 ≤ j → j ≤ 2 → t.host.hmin ≤ j → j ≤ t.host.hmax → j ≤ k))) ∧
      (∃ t, exec (.evHostCardRead q) s = .next t ∧
        (s.mgmt.devstate ≠ 3 ∨ h.enabled = false ∨ h.chead = h.ctail ∨ h.csize = 0 → t = s) ∧
        (s.mgmt.devstate = 3 → h.enabled = true → h.chead ≠ h.ctail → h.csize ≠ 0 →
          ∃ h', t.host.queues[q]? = some h' ∧ h'.chead = (h.chead + 1) % h.csize)) ∧
      ∃ t h', exec (.hostBar0Write (0x1020 + 64 * q) v) s = .next t ∧ t.host.queues[q]? = some h' ∧ h'.vec = v.toNat % 64) ∧
    (∀ (off : Nat) (v : Word), ∃ t, exec (.hostBar0Write off v) s = .next t ∧ t.th = s.th ∧ t.others = s.others ∧ t.mem = s.mem) ∧
    (∀ off len, ∃ t, exec (.hostBar2Read off len) s = .next t ∧ (windowAddr s off len = none → t = s) ∧
      ∀ pa bs u, windowAddr s off len = some pa → readPhys pa len s = some (bs, u) →
        t.host.reads = u.host.reads ++ [bs] ∧ t.mem = u.mem ∧ bs.length = len ∧
          ∀ k < len, bs[k]? = some (if protectsPhys u 1 (pa + k) 1 then 0 else readByte u.mem.dram (pa + k))) ∧
    (∀ off (bs : List Byte), ∃ t, exec (.hostBar2Write off bs) s = .next t ∧ (windowAddr s off bs.length = none → t = s) ∧
      ∀ pa u, windowAddr s off bs.length = some pa → writePhys pa bs s = some u →
        (isDenied s true pa bs.length = true → t.mem = s.mem) ∧
        (isDenied s true pa bs.length = false → MemoryIsCanonical s →
          ∀ k, k < bs.length → readByte t.mem.dram (pa + k) = (bs[k]?).getD 0)) ∧
    (∀ i code extra need reach answer, messageOf s.mgmt i = some (code, extra, need, reach, answer) → ∃ t, exec i s = .next t ∧
      t.th = s.th ∧ t.mem = s.mem ∧ (s.mgmt.stage < 6 → t = s) ∧
      (6 ≤ s.mgmt.stage → s.mgmt.spdm < need → t.mgmt = { s.mgmt with response := [] }) ∧
      (6 ≤ s.mgmt.stage → need ≤ s.mgmt.spdm →
        t.mgmt.transcript = (if code = 0x84 then [] else s.mgmt.transcript) ++ bytesOf 1 code ++ extra ∧
        t.mgmt.response = answer t.mgmt.transcript ∧ t.mgmt.spdm = if code = 0x84 then reach else max s.mgmt.spdm reach)) ∧
    (∃ t, exec .tapBypass s = .next t ∧ t.mgmt.tap = 0 ∧ t.mem = s.mem) ∧
    (∃ t, exec .tapSamplePreload s = .next t ∧ t.mgmt.tap = 1 ∧ t.mem = s.mem) ∧
    (∃ t, exec .tapExtest s = .next t ∧ t.mgmt.tap = 2 ∧ t.mgmt.tapData = s.mgmt.tapData ∧ t.mem = s.mem) ∧
    (∃ t, exec .tapIdcode s = .next t ∧ t.mgmt.tap = 3 ∧ t.mgmt.tapData = 0x18049D5B ∧ t.mem = s.mem) ∧
    (∀ die d, s.dies[die]? = some d → ∃ t d', exec (.tapFtest die) s = .next t ∧ t.dies[die]? = some d' ∧
      (s.mgmt.debugKey = true ∧ d.fenced = true → d' = { d with ftm := true } ∧ t.mgmt.tap = 4) ∧
      (s.mgmt.debugKey = false ∨ d.fenced = false → t = s)) ∧
    exec .dbgOpen s = .next (if s.mgmt.debugKey ∧ s.mgmt.spdm = 4 ∧ ¬ s.mgmt.session then
      { s with mgmt := { s.mgmt with session := true, idle := s.time } } else s) ∧
    (∀ i, IsDebugCommand i → s.mgmt.session = false → exec i s = .next s) ∧
    (s.mgmt.session = true → ∃ t, exec .dbgClose s = .next t ∧ t.mgmt.session = false) ∧
    (s.mgmt.session = true → ∀ thread off len, ∃ t, exec (.dbgReadctx thread off len) s = .next t ∧ t.th = s.th ∧ t.mem = s.mem ∧
      ∀ pc a, lookup thread s.mgmt.halts = some (pc, a) → off + len ≤ 8 * areaSize →
        t.mgmt.response = readBytes s.mem.dram (a + off) len) ∧
    (s.mgmt.session = true → ∀ thread off (bs : List Byte), ∃ t, exec (.dbgWritectx thread off bs) s = .next t ∧ t.th = s.th ∧
      ∀ pc a, lookup thread s.mgmt.halts = some (pc, a) → off + bs.length ≤ 8 * areaSize → MemoryIsCanonical s →
        ∀ k, readByte t.mem.dram k = if a + off ≤ k ∧ k < a + off + bs.length then (bs[k - (a + off)]?).getD 0
          else readByte s.mem.dram k) ∧
    (s.mgmt.session = true → ∀ thread, exec (.dbgResume thread) s = .next (resumeHalted thread false (inCommand s)) ∧
      exec (.dbgStep thread) s = .next (resumeHalted thread true (inCommand s))) ∧
    (s.mgmt.session = true → ∀ asid va len (data : Option (List Byte)), (∀ bs, data = some bs → bs.length = len) →
      let v := inAccess { asid := asid, va := va, len := len, data := data } s
      ∃ t, exec (match data with | none => .dbgReadmem asid va len | some bs => .dbgWritemem asid va bs) s = .next t ∧
      (1 ≤ len → (∀ k < len, placeAt s asid (va + k) = none) → t.mgmt.response = [] ∧ t.mem = s.mem) ∧
      ∀ pa b z r w x, 1 ≤ len → va % 128 + len ≤ 128 → s.mgmt.accesses = [] → isOnTheMove s asid va = false →
        walk s asid va = .page pa b z r w x false → isRemote pa = false → isWelt pa = false →
        (∀ bs u, data = none → readPhys pa len v = some (bs, u) → t.mgmt.response = bs ∧ t.mgmt.accesses = [] ∧ t.mem = u.mem) ∧
        (∀ bs u, data = some bs → writePhys pa bs v = some u → t = { u with mgmt := { u.mgmt with accesses := [] } }) ∧
        ((data = none → readPhys pa len v = none) → (∀ bs, data = some bs → writePhys pa bs v = none) → t = v)) ∧
    (∃ t, exec .evDebugSessionTimeout s = .next t ∧ (s.mgmt.session = false ∨ s.time < s.mgmt.idle + 60 * 10 ^ 9 → t = s) ∧
      (s.mgmt.session = true → s.mgmt.idle + 60 * 10 ^ 9 ≤ s.time → t.mgmt.session = false))

/-- Each event answers a next state in every state. A packet that is not for this device, or on a connection that is down or of
another version, is dropped and counted. One that was received before is not applied again; one that is next, where none is
held, is applied if it can be, and the received number moves on. ACK lets go what it acknowledges; NAK sends again from the
first missing packet; HELLO and HELLOR set a connection up under the highest common version, or leave it down. The timers send
what is owed, ask for a gap, and send again up to 8 times, after which the peer is down. With no port left every peer is down.
Where the spec leaves a point open it rests on the model's own reading: log entries 42, 45, 46, 93. -/
def Obligations.FabricEventsAct : Prop :=
  ∀ (s : State),
    (∀ i op p, sequencedOf i = some (op, p) → ∃ t, exec i s = .next t ∧ ((∀ c, ¬ Expected s p c) → t = droppedAt s) ∧
      ∀ c, Expected s p c → c.early = [] →
        (p.seq.toNat = (c.recvSeq + 1) % 2 ^ 32 →
          let v := onConn p.src (fun c => { c with early := c.early ++ [(op, p)], owed := true }) (taken s p)
          (applyPacket op p v = none → t = v) ∧
          ∀ u, applyPacket op p v = some u → t = onConn p.src (fun c => { c with
            recvSeq := p.seq.toNat, owed := true, early := c.early.filter fun x => x.2.seq.toNat ≠ p.seq.toNat }) u) ∧
        (seqGe c.recvSeq p.seq.toNat = true → t = onConn p.src (fun c => { c with owed := true }) (taken s p))) ∧
    (∀ p, (∀ c, ¬ Expected s p c) → ∀ i ∈ [Instr.pktAck p, .pktNak p], exec i s = .next (droppedAt s)) ∧
    (∀ p c, Expected s p c → ∃ t, exec (.pktAck p) s = .next t ∧ ∃ c', lookup p.src t.fab.conns = some c' ∧
      c' = { c with unacked := c.unacked.filter fun u => !seqGe p.ack.toNat u.packet.seq.toNat }) ∧
    (∀ p c, Expected s p c → ∃ t sent, exec (.pktNak p) s = .next t ∧ t.fab.outbox = s.fab.outbox ++ sent ∧
      sent.map (fun x => (x.1, x.2.seq)) = ((c.unacked.filter fun u => !seqGe p.ack.toNat u.packet.seq.toNat).filter fun u =>
        seqGe u.packet.seq.toNat p.aux.toNat).map fun u => (u.op, u.packet.seq)) ∧
    (∀ p, ∀ i ∈ [Instr.pktHello p, .pktHellor p], (p.dst ≠ s.fab.device ∨ p.src = s.fab.device ∨ 64 ≤ p.src) →
      exec i s = .next (droppedAt s)) ∧
    (∀ p, p.dst = s.fab.device → p.src ≠ s.fab.device → p.src < 64 →
      (∃ t v, exec (.pktHello p) s = .next t ∧ v = commonVersion 1 2 (natOfBytes (p.payload.take 1)) (natOfBytes ((p.payload.drop 1).take 1)) ∧
        (∃ x, t.fab.outbox.getLast? = some (0x41, x) ∧ x.dst = p.src ∧ x.aux = .ofNat 32 v) ∧
        ∃ c, lookup p.src t.fab.conns = some c ∧ (v = 0 → c.up = false) ∧ (v ≠ 0 → c = { ver := v })) ∧
      (∃ t, exec (.pktHellor p) s = .next t ∧ ∃ c, lookup p.src t.fab.conns = some c ∧
        ((p.aux = 0 ∨ 2 < p.aux.toNat) → c.up = false) ∧ (p.aux ≠ 0 → p.aux.toNat ≤ 2 → c = { ver := p.aux.toNat }))) ∧
    (∀ peer, lookup peer s.fab.conns = none → ∀ seq, ∀ i ∈ [Instr.evAckTimer peer, .evNakTimer peer, .evRetransmitTimer peer seq],
      exec i s = .next s) ∧
    (∀ peer c, lookup peer s.fab.conns = some c →
      (c.early = [] → exec (.evAckTimer peer) s = .next (if c.up ∧ c.owed then
        onConn peer (fun c => { c with owed := false }) (sendPlain peer 1 c.ver 0 [] s) else s)) ∧
      (c.up = true → c.early ≠ [] → (∀ e ∈ c.early, e.2.seq.toNat ≠ (c.recvSeq + 1) % 2 ^ 32) →
        exec (.evNakTimer peer) s = .next (sendPlain peer 2 c.ver (.ofNat 32 ((c.recvSeq + 1) % 2 ^ 32)) [] s)) ∧
      (c.up = false ∨ c.early = [] → exec (.evNakTimer peer) s = .next s) ∧
      ∀ seq u, c.unacked.find? (fun u => u.packet.seq.toNat = seq) = some u →
        (8 ≤ u.tries → exec (.evRetransmitTimer peer seq) s = .next (peerDown peer s)) ∧
        (u.tries < 8 → ∃ t, exec (.evRetransmitTimer peer seq) s = .next t ∧ t.fab.outbox.length = s.fab.outbox.length + 1 ∧
          ∃ c', lookup peer t.fab.conns = some c' ∧ { u with tries := u.tries + 1 } ∈ c'.unacked)) ∧
    (∀ port, port < 6 → (∃ t, exec (.evPortLinkDown port) s = .next t ∧ t.fab.ports[port]? = some false ∧
        ((∀ k, k < 6 → k ≠ port → s.fab.ports[k]? = some false) → ∀ peer c, lookup peer t.fab.conns = some c → c.up = false)) ∧
      (∃ t, exec (.evPortLinkTraining port false) s = .next t ∧ t.mgmt.replace = true ∧ t.fab = s.fab) ∧
      ∃ t, exec (.evPortLinkTraining port true) s = .next t ∧ t.fab.ports[port]? = some true ∧ t.fab.conns = s.fab.conns)

/-- After reset no slot holds a context and no core has a thread that may issue; in every state a core none of whose four slots
holds a context has no thread to issue, and a move that names it changes nothing, so that it starts issuing only once a task has
been dispatched to one of its slots. Memory is in its canonical form at reset; what an unlisted byte reads as is the model's
choice (log entry 10). -/
def Obligations.ResetAllocatesNoContext : Prop :=
  State.reset.threads = [] ∧ State.reset.parked = [] ∧ (∀ n, State.reset.thread? n = none) ∧
  (∀ core, issuers State.reset core = []) ∧ MemoryIsCanonical State.reset ∧
  (∀ (s : State) (core : Nat), (∀ n, coreOf n = core → s.thread? n = none) →
    issuers s core = [] ∧ turn (.issue core) s = .next s)

/-- Where a slot is the next of a core to issue, its context leads no phrase and has not given its turn up, and nothing comes before
the instruction at its PC (no vector of the Laster, no interrupt, no halt): if the words at the PC decode to i, and what i does
is progress, the step is exec of i on the context as its fetch leaves it, the instruction's boundary, and time passing; where i
goes on to t without a wait or the end of its task and no cancellation is to be observed, the boundary is the retirement of i.
Words that do not decode run as an illegal word, and a failed fetch as a failed fetch. Where the spec leaves a point open it
rests on the model's own reading: log entries 13, 16, 17, 20, 88. -/
def Obligations.AStepRunsTheDecodedInstruction : Prop :=
  ∀ (s f u : State) (num : Nat) (i : Instr) (ws : List Lane), IssuesNext s num f → AtItsInstruction f →
    ((fetch f = .ok (ws, u) ∧ decodeWords ws = .instr i) ∨
      (∃ why, fetch f = .ok (ws, u) ∧ decodeWords ws = .reject why ∧ i = .illegalWord why) ∨
      (∃ why addr, fetch f = .error (.fail why addr) ∧ i = .ifetchFault why addr ∧ ws = [] ∧ u = f)) →
    isProgress f (run i ws u) = true →
    step s = andThen (andThen (exec i u.begin) (conclude i ws u)) (fun t => .next (tick t)) ∧
    (∀ t, exec i u.begin = .next t → t.th.waiting = false → t.th.run ≠ .draining → isDoomed u = false →
      step s = andThen (retire i u t) fun v => .next (tick v))

/-- From every state whose physical memory lists its bytes by strictly rising address, none of them equal to what an unlisted byte
reads as, every step that answers a next state, whatever moves (an instruction, a vector of the Laster, an event of the device,
an engine, a cache), gives a state whose memory is in that form. That an unlisted byte reads as zero is the model's own choice
(log entry 10). -/
def Obligations.EveryStepKeepsMemoryCanonical : Prop :=
  ∀ (s t : State), MemoryIsCanonical s → step s = .next t → MemoryIsCanonical t
end

