-- ==== Sys2Proof/Laws/Arith.lean ====
section
/-! SUPPORT. What the integer results of Machine/Arith.lean are, bit by bit or as integers (R84 to R87). -/

namespace Sys2Proof.Machine

theorem sshiftRight_eq_ofInt_div {w : Nat} (x : BitVec w) (n : Nat) : x.sshiftRight n = BitVec.ofInt w (x.toInt / 2 ^ n) := by
  have h : x.toInt / 2 ^ n = x.toInt >>> n := by rw [Int.shiftRight_eq_div_pow, Int.natCast_pow]; rfl
  rw [h, ← BitVec.toInt_sshiftRight, BitVec.ofInt_toInt]

theorem rotL_eq_rotateLeft {w : Nat} (x : BitVec w) (n : Nat) (h : n < w) : rotL x n = x.rotateLeft n := by
  rw [BitVec.rotateLeft_eq_rotateLeftAux_of_lt h]; rfl

theorem rotR_eq_rotateRight {w : Nat} (x : BitVec w) (n : Nat) (h : n < w) : rotR x n = x.rotateRight n := by
  rw [BitVec.rotateRight_eq_rotateRightAux_of_lt h]; rfl

theorem leadingZeros_le {w : Nat} (x : BitVec w) : leadingZeros x ≤ w := by
  unfold leadingZeros; split <;> omega

theorem getLsbD_leadingZeros {w : Nat} (x : BitVec w) (i : Nat) (h : w - leadingZeros x ≤ i) : x.getLsbD i = false := by
  by_cases hi : i < w
  · unfold leadingZeros at h
    split at h
    · rename_i h0
      rw [BitVec.getLsbD, h0, Nat.zero_testBit]
    · rename_i h0
      have hl : Nat.log2 x.toNat < w := (Nat.log2_lt h0).2 x.isLt
      exact Nat.testBit_lt_two_pow (Nat.lt_of_lt_of_le ((Nat.log2_lt h0).1 (Nat.lt_succ_self _))
        (Nat.pow_le_pow_right (by omega) (by omega)))
  · exact BitVec.getLsbD_of_ge x i (by omega)

theorem getLsbD_top_of_leadingZeros {w : Nat} (x : BitVec w) (h : leadingZeros x < w) :
    x.getLsbD (w - 1 - leadingZeros x) = true := by
  unfold leadingZeros at *
  split at h
  · omega
  · rename_i h0
    rw [if_neg h0]
    have hl : Nat.log2 x.toNat < w := (Nat.log2_lt h0).2 x.isLt
    rw [show w - 1 - (w - 1 - Nat.log2 x.toNat) = Nat.log2 x.toNat by omega]
    exact Nat.testBit_log2 h0

theorem trailingZeros_le {w : Nat} (x : BitVec w) : trailingZeros x ≤ w := by
  unfold trailingZeros
  cases h : (List.range w).find? fun i => x.getLsbD i with
  | none => simp
  | some i => simpa using Nat.le_of_lt (List.mem_range.1 (List.mem_of_find?_eq_some h))

theorem getLsbD_of_lt_trailingZeros {w : Nat} (x : BitVec w) (i : Nat) (h : i < trailingZeros x) : x.getLsbD i = false := by
  unfold trailingZeros at h
  cases hf : (List.range w).find? fun i => x.getLsbD i with
  | none =>
    rw [hf] at h
    have := List.find?_eq_none.1 hf i (List.mem_range.2 (by simpa using h))
    simpa using this
  | some k =>
    rw [hf] at h
    have := (List.find?_range_eq_some.1 hf).2.2 i (by simpa using h)
    simpa using this

theorem getLsbD_trailingZeros {w : Nat} (x : BitVec w) (h : trailingZeros x < w) : x.getLsbD (trailingZeros x) = true := by
  unfold trailingZeros at *
  cases hf : (List.range w).find? fun i => x.getLsbD i with
  | none => rw [hf] at h; simp at h
  | some k => simpa using List.find?_some hf

theorem popCount_eq_length {w : Nat} (x : BitVec w) : popCount x = ((List.range w).filter fun i => x.getLsbD i).length := by
  have aux : ∀ (l : List Nat) (n : Nat),
      l.foldl (fun n i => if x.getLsbD i then n + 1 else n) n = n + (l.filter fun i => x.getLsbD i).length := by
    intro l
    induction l with
    | nil => intro n; rfl
    | cons i l ih => intro n; rw [List.foldl_cons, ih]; cases h : x.getLsbD i <;> simp [h] <;> omega
  unfold popCount; rw [aux, Nat.zero_add]

theorem getLsbD_bitReverse (x : Word) (i : Nat) (h : i < 64) : (bitReverse x).getLsbD i = x.getLsbD (63 - i) := by
  have aux : ∀ n j : Nat, ((List.range n).foldl (fun n i => 2 * n + (if x.getLsbD i then 1 else 0)) 0).testBit j
      = (decide (j < n) && x.getLsbD (n - 1 - j)) := by
    intro n
    induction n with
    | zero => intro j; simp
    | succ n ih =>
      intro j
      rw [List.range_succ, List.foldl_append]
      simp only [List.foldl_cons, List.foldl_nil]
      cases j with
      | zero => cases h : x.getLsbD n <;> simp [Nat.testBit_zero, h]
      | succ j =>
        rw [Nat.testBit_succ]
        have : ∀ m : Nat, (2 * m + (if x.getLsbD n then 1 else 0)) / 2 = m := by
          intro m; cases x.getLsbD n <;> simp <;> omega
        rw [this, ih, show n + 1 - 1 - (j + 1) = n - 1 - j by omega]
        simp
  unfold bitReverse
  rw [BitVec.getLsbD_ofNat, aux]
  simp [h]

/-- `fieldCtlOk` says what R87 says of a control value. -/
theorem fieldCtlOk_iff (c : Word) : fieldCtlOk c = true ↔
    (∀ i, c.getLsbD i = true → i < 6 ∨ (8 ≤ i ∧ i < 15)) ∧ (c.extractLsb' 8 7).toNat ≤ 64 := by
  have bit (k m i : Nat) (h : c.toNat / 2 ^ k % 2 ^ m = 0) (hi : c.toNat.testBit (i + k) = true) : m ≤ i := by
    have := congrArg (Nat.testBit · i) h
    simp only [Nat.testBit_mod_two_pow, Nat.testBit_div_two_pow, hi, Nat.zero_testBit, Bool.and_true, decide_eq_false_iff_not] at this
    omega
  unfold fieldCtlOk
  simp only [Bool.and_eq_true, decide_eq_true_eq, BitVec.extractLsb'_toNat, Nat.shiftRight_eq_div_pow]
  constructor
  · rintro ⟨⟨h1, h2⟩, h3⟩
    refine ⟨fun i hi => ?_, h3⟩
    have h2 := bit 6 2 (i - 6) h2
    by_cases h15 : 15 ≤ i
    · have hz : c.toNat < 2 ^ 15 := (Nat.div_eq_zero_iff_lt (by decide)).1 h1
      have := Nat.testBit_lt_two_pow (Nat.lt_of_lt_of_le hz (Nat.pow_le_pow_right (by decide) h15))
      rw [BitVec.getLsbD] at hi; rw [hi] at this; exact absurd this (by decide)
    · by_cases h6 : 6 ≤ i
      · rw [Nat.sub_add_cancel h6] at h2
        have := h2 hi; omega
      · omega
  · rintro ⟨h, h3⟩
    refine ⟨⟨?_, ?_⟩, h3⟩
    · apply Nat.eq_of_testBit_eq
      intro i
      rw [show 32768 = 2 ^ 15 by decide, Nat.testBit_div_two_pow, Nat.zero_testBit]
      cases hc : c.toNat.testBit (i + 15)
      · rfl
      · have := h (i + 15) hc; omega
    · apply Nat.eq_of_testBit_eq
      intro i
      rw [show c.toNat / 64 % 4 = c.toNat / 2 ^ 6 % 2 ^ 2 by rfl, Nat.testBit_mod_two_pow, Nat.testBit_div_two_pow, Nat.zero_testBit]
      cases hc : c.toNat.testBit (i + 6)
      · simp
      · have := h (i + 6) hc; simp; omega

end Sys2Proof.Machine
end

