-- ==== Sys2Proof/Laws/Memory.lean ====
section
/-! SUPPORT. Finite maps and physical memory: reads after writes, and that every memory operation keeps the canonical form (R244). -/

namespace Sys2Proof.Machine

/-! ### Finite maps -/

variable {α : Type}

@[simp] theorem lookup_nil (k : Nat) : lookup k ([] : List (Nat × α)) = none := rfl

@[simp] theorem lookup_insert_self (k : Nat) (v : α) (m : List (Nat × α)) : lookup k (insert k v m) = some v := by
  induction m with
  | nil => simp [insert, lookup]
  | cons x rest ih =>
    obtain ⟨j, w⟩ := x
    simp only [insert]
    split
    · simp [lookup]
    · split
      · simp [lookup]
      · rw [lookup, if_neg (by omega), ih]

theorem lookup_insert_of_ne {j k : Nat} (h : j ≠ k) (v : α) (m : List (Nat × α)) :
    lookup j (insert k v m) = lookup j m := by
  induction m with
  | nil => simp [insert, lookup, Ne.symm h]
  | cons x rest ih =>
    obtain ⟨i, w⟩ := x
    simp only [insert]
    split
    · simp [lookup, Ne.symm h]
    · split
      · rename_i _ hk
        subst hk
        simp [lookup, Ne.symm h]
      · simp [lookup, ih]

theorem lookup_insert (j k : Nat) (v : α) (m : List (Nat × α)) :
    lookup j (insert k v m) = if j = k then some v else lookup j m := by
  split
  · next h => subst h; simp
  · next h => exact lookup_insert_of_ne h v m

theorem lookup_remove_of_ne {j k : Nat} (h : j ≠ k) (m : List (Nat × α)) : lookup j (remove k m) = lookup j m := by
  induction m with
  | nil => rfl
  | cons x rest ih =>
    obtain ⟨i, w⟩ := x
    simp only [remove]
    split
    · next hi => subst hi; simp [lookup, Ne.symm h]
    · simp [lookup, ih]

/-- Every key of the map is above a bound. -/
def Above (b : Nat) (m : List (Nat × α)) : Prop := ∀ x ∈ m, b < x.1

theorem risingKeys_cons (x : Nat × α) (m : List (Nat × α)) :
    risingKeys (x :: m) = true ↔ Above x.1 m ∧ risingKeys m = true := by
  induction m generalizing x with
  | nil => simp [risingKeys, Above]
  | cons y rest ih =>
    rw [risingKeys, Bool.and_eq_true, decide_eq_true_eq]
    constructor
    · rintro ⟨h, hr⟩
      refine ⟨fun z hz => ?_, hr⟩
      rcases List.mem_cons.1 hz with rfl | hz
      · exact h
      · exact Nat.lt_trans h (((ih y).1 hr).1 z hz)
    · rintro ⟨h, hr⟩
      exact ⟨h y (by simp), hr⟩

theorem above_insert {b k : Nat} {v : α} {m : List (Nat × α)} (hk : b < k) (h : Above b m) : Above b (insert k v m) := by
  induction m with
  | nil => intro x hx; simp [insert] at hx; subst hx; exact hk
  | cons y rest ih =>
    obtain ⟨j, w⟩ := y
    have hj : b < j := h (j, w) (by simp)
    have hr : Above b rest := fun x hx => h x (by simp [hx])
    simp only [insert]
    intro x hx
    split at hx
    · rcases List.mem_cons.1 hx with rfl | hx
      · exact hk
      · exact h x hx
    · split at hx
      · rcases List.mem_cons.1 hx with rfl | hx
        · exact hk
        · exact hr x hx
      · rcases List.mem_cons.1 hx with rfl | hx
        · exact hj
        · exact ih hr x hx

theorem mem_remove {k : Nat} {m : List (Nat × α)} {x : Nat × α} (h : x ∈ remove k m) : x ∈ m := by
  induction m with
  | nil => simp [remove] at h
  | cons y rest ih =>
    obtain ⟨j, w⟩ := y
    simp only [remove] at h
    split at h
    · exact List.mem_cons_of_mem _ h
    · rcases List.mem_cons.1 h with rfl | h
      · simp
      · exact List.mem_cons_of_mem _ (ih h)

theorem risingKeys_insert {k : Nat} {v : α} {m : List (Nat × α)} (h : risingKeys m = true) : risingKeys (insert k v m) = true := by
  induction m with
  | nil => rfl
  | cons y rest ih =>
    obtain ⟨j, w⟩ := y
    obtain ⟨ha, hr⟩ := (risingKeys_cons _ _).1 h
    simp only [insert]
    split
    · next hk =>
      refine (risingKeys_cons _ _).2 ⟨fun x hx => ?_, h⟩
      rcases List.mem_cons.1 hx with rfl | hx
      · exact hk
      · exact Nat.lt_trans hk (ha x hx)
    · split
      · next hk => subst hk; exact (risingKeys_cons _ _).2 ⟨ha, hr⟩
      · exact (risingKeys_cons _ _).2 ⟨above_insert (by simp only; omega) ha, ih hr⟩

theorem risingKeys_remove {k : Nat} {m : List (Nat × α)} (h : risingKeys m = true) : risingKeys (remove k m) = true := by
  induction m with
  | nil => rfl
  | cons y rest ih =>
    obtain ⟨j, w⟩ := y
    obtain ⟨ha, hr⟩ := (risingKeys_cons _ _).1 h
    simp only [remove]
    split
    · exact hr
    · exact (risingKeys_cons _ _).2 ⟨fun x hx => ha x (mem_remove hx), ih hr⟩

theorem lookup_of_above {b k : Nat} {m : List (Nat × α)} (h : Above b m) (hk : k ≤ b) : lookup k m = none := by
  induction m with
  | nil => rfl
  | cons y rest ih =>
    obtain ⟨j, w⟩ := y
    have hj : b < j := h (j, w) (by simp)
    rw [lookup, if_neg (by omega)]
    exact ih fun x hx => h x (by simp [hx])

theorem lookup_remove_self {k : Nat} {m : List (Nat × α)} (h : risingKeys m = true) : lookup k (remove k m) = none := by
  induction m with
  | nil => rfl
  | cons y rest ih =>
    obtain ⟨j, w⟩ := y
    obtain ⟨ha, hr⟩ := (risingKeys_cons _ _).1 h
    simp only [remove]
    split
    · next hj => subst hj; exact lookup_of_above ha (Nat.le_refl _)
    · next hj => rw [lookup, if_neg hj]; exact ih hr

theorem mem_insert {k : Nat} {v : α} {m : List (Nat × α)} {x : Nat × α} (h : x ∈ insert k v m) : x = (k, v) ∨ x ∈ m := by
  induction m with
  | nil => simpa [insert] using h
  | cons y rest ih =>
    obtain ⟨j, w⟩ := y
    simp only [insert] at h
    split at h
    · simpa using h
    · split at h
      · rcases List.mem_cons.1 h with rfl | h
        · exact .inl rfl
        · exact .inr (by simp [h])
      · rcases List.mem_cons.1 h with rfl | h
        · exact .inr (by simp)
        · exact (ih h).imp id fun h => by simp [h]

/-! ### The canonical form of physical memory -/

theorem Memory.wf_iff {m : List Host.Cell} : Memory.wf m = true ↔ risingKeys m = true ∧ ∀ c ∈ m, c.2 ≠ Memory.unlisted := by
  simp [Memory.wf]

theorem Memory.wf_nil : Memory.wf [] = true := rfl

theorem writeByte_wf {m : List Host.Cell} {a : Nat} {b : Byte} (h : Memory.wf m = true) : Memory.wf (writeByte m a b) = true := by
  obtain ⟨hr, hl⟩ := Memory.wf_iff.1 h
  unfold writeByte
  split
  · exact Memory.wf_iff.2 ⟨risingKeys_remove hr, fun c hc => hl c (mem_remove hc)⟩
  · next hb =>
    refine Memory.wf_iff.2 ⟨risingKeys_insert hr, fun c hc => ?_⟩
    rcases mem_insert hc with rfl | hc
    · exact hb
    · exact hl c hc

theorem writeBytes_wf {m : List Host.Cell} {a : Nat} {bs : List Byte} (h : Memory.wf m = true) :
    Memory.wf (writeBytes m a bs) = true := by
  induction bs generalizing m a with
  | nil => exact h
  | cons b bs ih => exact ih (writeByte_wf h)

theorem readByte_writeByte {m : List Host.Cell} {a b : Nat} {x : Byte} (h : Memory.wf m = true) :
    readByte (writeByte m a x) b = if b = a then x else readByte m b := by
  have hr := (Memory.wf_iff.1 h).1
  unfold writeByte readByte
  split
  · next hx =>
    split
    · next hb => subst hb; rw [lookup_remove_self hr]; exact hx.symm
    · next hb => rw [lookup_remove_of_ne hb]
  · rw [lookup_insert]
    split <;> rfl

theorem readByte_writeBytes {m : List Host.Cell} {a b : Nat} {bs : List Byte} (h : Memory.wf m = true) :
    readByte (writeBytes m a bs) b =
      if a ≤ b ∧ b < a + bs.length then (bs[b - a]?).getD 0 else readByte m b := by
  induction bs generalizing m a with
  | nil => simp [writeBytes] <;> omega
  | cons x bs ih =>
    rw [writeBytes, ih (writeByte_wf h), readByte_writeByte h]
    by_cases hb : b = a
    · subst hb
      rw [if_neg (by omega), if_pos rfl, if_pos (by simp), Nat.sub_self]
      rfl
    · by_cases hi : a ≤ b ∧ b < a + (x :: bs).length
      · have h2 : a + 1 ≤ b ∧ b < a + 1 + bs.length := by simp at hi; omega
        rw [if_pos h2, if_pos hi, show b - a = b - (a + 1) + 1 by omega]
        rfl
      · have h2 : ¬ (a + 1 ≤ b ∧ b < a + 1 + bs.length) := by simp at hi ⊢; omega
        rw [if_neg h2, if_neg hi, if_neg hb]

theorem readBytes_length (m : List Host.Cell) (a n : Nat) : (readBytes m a n).length = n := by
  induction n generalizing a with
  | zero => rfl
  | succ n ih => simp [readBytes, ih]

theorem readBytes_getElem? (m : List Host.Cell) (a n k : Nat) :
    (readBytes m a n)[k]? = if k < n then some (readByte m (a + k)) else none := by
  induction n generalizing a k with
  | zero => rfl
  | succ n ih =>
    cases k with
    | zero => simp [readBytes]
    | succ k =>
      rw [readBytes, List.getElem?_cons_succ, ih]
      simp [Nat.add_assoc, Nat.add_comm 1 k]

/-- What was written is read back. -/
theorem readBytes_writeBytes {m : List Host.Cell} {a : Nat} {bs : List Byte} (h : Memory.wf m = true) :
    readBytes (writeBytes m a bs) a bs.length = bs := by
  apply List.ext_getElem?
  intro k
  rw [readBytes_getElem?]
  split
  · next hk =>
    rw [readByte_writeBytes h, if_pos (by omega), Nat.add_sub_cancel_left, List.getElem?_eq_getElem hk]
    rfl
  · next hk => rw [List.getElem?_eq_none (by omega)]

/-- A write leaves every byte outside it as it was. -/
theorem readByte_writeBytes_outside {m : List Host.Cell} {a b : Nat} {bs : List Byte} (h : Memory.wf m = true)
    (ho : b < a ∨ a + bs.length ≤ b) : readByte (writeBytes m a bs) b = readByte m b := by
  rw [readByte_writeBytes h, if_neg (by omega)]

/-- Memory at reset lists nothing, which is the canonical form. -/
theorem reset_memory_wf : Memory.wf State.reset.mem.dram = true := rfl

/-! ### Byte strings -/

@[simp] theorem bytesOf_length (n x : Nat) : (bytesOf n x).length = n := by
  induction n generalizing x with
  | zero => rfl
  | succ n ih => simp [bytesOf, ih]

theorem natOfBytes_bytesOf (n x : Nat) : natOfBytes (bytesOf n x) = x % 256 ^ n := by
  induction n generalizing x with
  | zero => simp [bytesOf, natOfBytes, Nat.mod_one]
  | succ n ih =>
    have h : x % 256 ^ (n + 1) = x % 256 + 256 * (x / 256 % 256 ^ n) := by
      rw [Nat.pow_add_one', Nat.mod_mul]
    rw [bytesOf, natOfBytes, ih, BitVec.toNat_ofNat, h]

theorem natOfBytes_lt (bs : List Byte) : natOfBytes bs < 256 ^ bs.length := by
  induction bs with
  | nil => simp [natOfBytes]
  | cons b bs ih =>
    have := b.isLt
    rw [natOfBytes, List.length_cons, Nat.pow_succ]
    omega

end Sys2Proof.Machine
end

