-- ==== Sys2Proof/Laws/State.lean ====
section
/-! SUPPORT. What each named update of State and of a context leaves as it is: one lemma for each field and update, so that no proof
unfolds a record update. -/

namespace Sys2Proof.Machine

/-! ### State.setD -/

@[simp] theorem State.setD_others (s : State) (n : DReg) (v : Word) : (s.setD n v).others = s.others := rfl
@[simp] theorem State.setD_parked (s : State) (n : DReg) (v : Word) : (s.setD n v).parked = s.parked := rfl
@[simp] theorem State.setD_schedule (s : State) (n : DReg) (v : Word) : (s.setD n v).schedule = s.schedule := rfl
@[simp] theorem State.setD_fresh (s : State) (n : DReg) (v : Word) : (s.setD n v).fresh = s.fresh := rfl
@[simp] theorem State.setD_time (s : State) (n : DReg) (v : Word) : (s.setD n v).time = s.time := rfl
@[simp] theorem State.setD_lastCore (s : State) (n : DReg) (v : Word) : (s.setD n v).lastCore = s.lastCore := rfl
@[simp] theorem State.setD_lastIssued (s : State) (n : DReg) (v : Word) : (s.setD n v).lastIssued = s.lastIssued := rfl
@[simp] theorem State.setD_tasks (s : State) (n : DReg) (v : Word) : (s.setD n v).tasks = s.tasks := rfl
@[simp] theorem State.setD_cards (s : State) (n : DReg) (v : Word) : (s.setD n v).cards = s.cards := rfl
@[simp] theorem State.setD_nextId (s : State) (n : DReg) (v : Word) : (s.setD n v).nextId = s.nextId := rfl
@[simp] theorem State.setD_lastServed (s : State) (n : DReg) (v : Word) : (s.setD n v).lastServed = s.lastServed := rfl
@[simp] theorem State.setD_scopes (s : State) (n : DReg) (v : Word) : (s.setD n v).scopes = s.scopes := rfl
@[simp] theorem State.setD_sets (s : State) (n : DReg) (v : Word) : (s.setD n v).sets = s.sets := rfl
@[simp] theorem State.setD_gangs (s : State) (n : DReg) (v : Word) : (s.setD n v).gangs = s.gangs := rfl
@[simp] theorem State.setD_packets (s : State) (n : DReg) (v : Word) : (s.setD n v).packets = s.packets := rfl
@[simp] theorem State.setD_stores (s : State) (n : DReg) (v : Word) : (s.setD n v).stores = s.stores := rfl
@[simp] theorem State.setD_flights (s : State) (n : DReg) (v : Word) : (s.setD n v).flights = s.flights := rfl
@[simp] theorem State.setD_marks (s : State) (n : DReg) (v : Word) : (s.setD n v).marks = s.marks := rfl
@[simp] theorem State.setD_preempts (s : State) (n : DReg) (v : Word) : (s.setD n v).preempts = s.preempts := rfl
@[simp] theorem State.setD_mem (s : State) (n : DReg) (v : Word) : (s.setD n v).mem = s.mem := rfl
@[simp] theorem State.setD_eng (s : State) (n : DReg) (v : Word) : (s.setD n v).eng = s.eng := rfl
@[simp] theorem State.setD_dies (s : State) (n : DReg) (v : Word) : (s.setD n v).dies = s.dies := rfl
@[simp] theorem State.setD_welt (s : State) (n : DReg) (v : Word) : (s.setD n v).welt = s.welt := rfl
@[simp] theorem State.setD_host (s : State) (n : DReg) (v : Word) : (s.setD n v).host = s.host := rfl
@[simp] theorem State.setD_fab (s : State) (n : DReg) (v : Word) : (s.setD n v).fab = s.fab := rfl
@[simp] theorem State.setD_mgmt (s : State) (n : DReg) (v : Word) : (s.setD n v).mgmt = s.mgmt := rfl
@[simp] theorem State.setD_snap (s : State) (n : DReg) (v : Word) : (s.setD n v).snap = s.snap := rfl
@[simp] theorem State.setD_vectors (s : State) (n : DReg) (v : Word) : (s.setD n v).vectors = s.vectors := rfl
@[simp] theorem State.setD_trailing (s : State) (n : DReg) (v : Word) : (s.setD n v).trailing = s.trailing := rfl
/-! ### State.setP -/

@[simp] theorem State.setP_others (s : State) (n : PReg) (v : Lane) : (s.setP n v).others = s.others := rfl
@[simp] theorem State.setP_parked (s : State) (n : PReg) (v : Lane) : (s.setP n v).parked = s.parked := rfl
@[simp] theorem State.setP_schedule (s : State) (n : PReg) (v : Lane) : (s.setP n v).schedule = s.schedule := rfl
@[simp] theorem State.setP_fresh (s : State) (n : PReg) (v : Lane) : (s.setP n v).fresh = s.fresh := rfl
@[simp] theorem State.setP_time (s : State) (n : PReg) (v : Lane) : (s.setP n v).time = s.time := rfl
@[simp] theorem State.setP_lastCore (s : State) (n : PReg) (v : Lane) : (s.setP n v).lastCore = s.lastCore := rfl
@[simp] theorem State.setP_lastIssued (s : State) (n : PReg) (v : Lane) : (s.setP n v).lastIssued = s.lastIssued := rfl
@[simp] theorem State.setP_tasks (s : State) (n : PReg) (v : Lane) : (s.setP n v).tasks = s.tasks := rfl
@[simp] theorem State.setP_cards (s : State) (n : PReg) (v : Lane) : (s.setP n v).cards = s.cards := rfl
@[simp] theorem State.setP_nextId (s : State) (n : PReg) (v : Lane) : (s.setP n v).nextId = s.nextId := rfl
@[simp] theorem State.setP_lastServed (s : State) (n : PReg) (v : Lane) : (s.setP n v).lastServed = s.lastServed := rfl
@[simp] theorem State.setP_scopes (s : State) (n : PReg) (v : Lane) : (s.setP n v).scopes = s.scopes := rfl
@[simp] theorem State.setP_sets (s : State) (n : PReg) (v : Lane) : (s.setP n v).sets = s.sets := rfl
@[simp] theorem State.setP_gangs (s : State) (n : PReg) (v : Lane) : (s.setP n v).gangs = s.gangs := rfl
@[simp] theorem State.setP_packets (s : State) (n : PReg) (v : Lane) : (s.setP n v).packets = s.packets := rfl
@[simp] theorem State.setP_stores (s : State) (n : PReg) (v : Lane) : (s.setP n v).stores = s.stores := rfl
@[simp] theorem State.setP_flights (s : State) (n : PReg) (v : Lane) : (s.setP n v).flights = s.flights := rfl
@[simp] theorem State.setP_marks (s : State) (n : PReg) (v : Lane) : (s.setP n v).marks = s.marks := rfl
@[simp] theorem State.setP_preempts (s : State) (n : PReg) (v : Lane) : (s.setP n v).preempts = s.preempts := rfl
@[simp] theorem State.setP_mem (s : State) (n : PReg) (v : Lane) : (s.setP n v).mem = s.mem := rfl
@[simp] theorem State.setP_eng (s : State) (n : PReg) (v : Lane) : (s.setP n v).eng = s.eng := rfl
@[simp] theorem State.setP_dies (s : State) (n : PReg) (v : Lane) : (s.setP n v).dies = s.dies := rfl
@[simp] theorem State.setP_welt (s : State) (n : PReg) (v : Lane) : (s.setP n v).welt = s.welt := rfl
@[simp] theorem State.setP_host (s : State) (n : PReg) (v : Lane) : (s.setP n v).host = s.host := rfl
@[simp] theorem State.setP_fab (s : State) (n : PReg) (v : Lane) : (s.setP n v).fab = s.fab := rfl
@[simp] theorem State.setP_mgmt (s : State) (n : PReg) (v : Lane) : (s.setP n v).mgmt = s.mgmt := rfl
@[simp] theorem State.setP_snap (s : State) (n : PReg) (v : Lane) : (s.setP n v).snap = s.snap := rfl
@[simp] theorem State.setP_vectors (s : State) (n : PReg) (v : Lane) : (s.setP n v).vectors = s.vectors := rfl
@[simp] theorem State.setP_trailing (s : State) (n : PReg) (v : Lane) : (s.setP n v).trailing = s.trailing := rfl
/-! ### State.setQ -/

@[simp] theorem State.setQ_others (s : State) (n : QReg) (v : Region) : (s.setQ n v).others = s.others := rfl
@[simp] theorem State.setQ_parked (s : State) (n : QReg) (v : Region) : (s.setQ n v).parked = s.parked := rfl
@[simp] theorem State.setQ_schedule (s : State) (n : QReg) (v : Region) : (s.setQ n v).schedule = s.schedule := rfl
@[simp] theorem State.setQ_fresh (s : State) (n : QReg) (v : Region) : (s.setQ n v).fresh = s.fresh := rfl
@[simp] theorem State.setQ_time (s : State) (n : QReg) (v : Region) : (s.setQ n v).time = s.time := rfl
@[simp] theorem State.setQ_lastCore (s : State) (n : QReg) (v : Region) : (s.setQ n v).lastCore = s.lastCore := rfl
@[simp] theorem State.setQ_lastIssued (s : State) (n : QReg) (v : Region) : (s.setQ n v).lastIssued = s.lastIssued := rfl
@[simp] theorem State.setQ_tasks (s : State) (n : QReg) (v : Region) : (s.setQ n v).tasks = s.tasks := rfl
@[simp] theorem State.setQ_cards (s : State) (n : QReg) (v : Region) : (s.setQ n v).cards = s.cards := rfl
@[simp] theorem State.setQ_nextId (s : State) (n : QReg) (v : Region) : (s.setQ n v).nextId = s.nextId := rfl
@[simp] theorem State.setQ_lastServed (s : State) (n : QReg) (v : Region) : (s.setQ n v).lastServed = s.lastServed := rfl
@[simp] theorem State.setQ_scopes (s : State) (n : QReg) (v : Region) : (s.setQ n v).scopes = s.scopes := rfl
@[simp] theorem State.setQ_sets (s : State) (n : QReg) (v : Region) : (s.setQ n v).sets = s.sets := rfl
@[simp] theorem State.setQ_gangs (s : State) (n : QReg) (v : Region) : (s.setQ n v).gangs = s.gangs := rfl
@[simp] theorem State.setQ_packets (s : State) (n : QReg) (v : Region) : (s.setQ n v).packets = s.packets := rfl
@[simp] theorem State.setQ_stores (s : State) (n : QReg) (v : Region) : (s.setQ n v).stores = s.stores := rfl
@[simp] theorem State.setQ_flights (s : State) (n : QReg) (v : Region) : (s.setQ n v).flights = s.flights := rfl
@[simp] theorem State.setQ_marks (s : State) (n : QReg) (v : Region) : (s.setQ n v).marks = s.marks := rfl
@[simp] theorem State.setQ_preempts (s : State) (n : QReg) (v : Region) : (s.setQ n v).preempts = s.preempts := rfl
@[simp] theorem State.setQ_mem (s : State) (n : QReg) (v : Region) : (s.setQ n v).mem = s.mem := rfl
@[simp] theorem State.setQ_eng (s : State) (n : QReg) (v : Region) : (s.setQ n v).eng = s.eng := rfl
@[simp] theorem State.setQ_dies (s : State) (n : QReg) (v : Region) : (s.setQ n v).dies = s.dies := rfl
@[simp] theorem State.setQ_welt (s : State) (n : QReg) (v : Region) : (s.setQ n v).welt = s.welt := rfl
@[simp] theorem State.setQ_host (s : State) (n : QReg) (v : Region) : (s.setQ n v).host = s.host := rfl
@[simp] theorem State.setQ_fab (s : State) (n : QReg) (v : Region) : (s.setQ n v).fab = s.fab := rfl
@[simp] theorem State.setQ_mgmt (s : State) (n : QReg) (v : Region) : (s.setQ n v).mgmt = s.mgmt := rfl
@[simp] theorem State.setQ_snap (s : State) (n : QReg) (v : Region) : (s.setQ n v).snap = s.snap := rfl
@[simp] theorem State.setQ_vectors (s : State) (n : QReg) (v : Region) : (s.setQ n v).vectors = s.vectors := rfl
@[simp] theorem State.setQ_trailing (s : State) (n : QReg) (v : Region) : (s.setQ n v).trailing = s.trailing := rfl
/-! ### State.setM -/

@[simp] theorem State.setM_others (s : State) (n : MReg) (v : NameEnt) : (s.setM n v).others = s.others := rfl
@[simp] theorem State.setM_parked (s : State) (n : MReg) (v : NameEnt) : (s.setM n v).parked = s.parked := rfl
@[simp] theorem State.setM_schedule (s : State) (n : MReg) (v : NameEnt) : (s.setM n v).schedule = s.schedule := rfl
@[simp] theorem State.setM_fresh (s : State) (n : MReg) (v : NameEnt) : (s.setM n v).fresh = s.fresh := rfl
@[simp] theorem State.setM_time (s : State) (n : MReg) (v : NameEnt) : (s.setM n v).time = s.time := rfl
@[simp] theorem State.setM_lastCore (s : State) (n : MReg) (v : NameEnt) : (s.setM n v).lastCore = s.lastCore := rfl
@[simp] theorem State.setM_lastIssued (s : State) (n : MReg) (v : NameEnt) : (s.setM n v).lastIssued = s.lastIssued := rfl
@[simp] theorem State.setM_tasks (s : State) (n : MReg) (v : NameEnt) : (s.setM n v).tasks = s.tasks := rfl
@[simp] theorem State.setM_cards (s : State) (n : MReg) (v : NameEnt) : (s.setM n v).cards = s.cards := rfl
@[simp] theorem State.setM_nextId (s : State) (n : MReg) (v : NameEnt) : (s.setM n v).nextId = s.nextId := rfl
@[simp] theorem State.setM_lastServed (s : State) (n : MReg) (v : NameEnt) : (s.setM n v).lastServed = s.lastServed := rfl
@[simp] theorem State.setM_scopes (s : State) (n : MReg) (v : NameEnt) : (s.setM n v).scopes = s.scopes := rfl
@[simp] theorem State.setM_sets (s : State) (n : MReg) (v : NameEnt) : (s.setM n v).sets = s.sets := rfl
@[simp] theorem State.setM_gangs (s : State) (n : MReg) (v : NameEnt) : (s.setM n v).gangs = s.gangs := rfl
@[simp] theorem State.setM_packets (s : State) (n : MReg) (v : NameEnt) : (s.setM n v).packets = s.packets := rfl
@[simp] theorem State.setM_stores (s : State) (n : MReg) (v : NameEnt) : (s.setM n v).stores = s.stores := rfl
@[simp] theorem State.setM_flights (s : State) (n : MReg) (v : NameEnt) : (s.setM n v).flights = s.flights := rfl
@[simp] theorem State.setM_marks (s : State) (n : MReg) (v : NameEnt) : (s.setM n v).marks = s.marks := rfl
@[simp] theorem State.setM_preempts (s : State) (n : MReg) (v : NameEnt) : (s.setM n v).preempts = s.preempts := rfl
@[simp] theorem State.setM_mem (s : State) (n : MReg) (v : NameEnt) : (s.setM n v).mem = s.mem := rfl
@[simp] theorem State.setM_eng (s : State) (n : MReg) (v : NameEnt) : (s.setM n v).eng = s.eng := rfl
@[simp] theorem State.setM_dies (s : State) (n : MReg) (v : NameEnt) : (s.setM n v).dies = s.dies := rfl
@[simp] theorem State.setM_welt (s : State) (n : MReg) (v : NameEnt) : (s.setM n v).welt = s.welt := rfl
@[simp] theorem State.setM_host (s : State) (n : MReg) (v : NameEnt) : (s.setM n v).host = s.host := rfl
@[simp] theorem State.setM_fab (s : State) (n : MReg) (v : NameEnt) : (s.setM n v).fab = s.fab := rfl
@[simp] theorem State.setM_mgmt (s : State) (n : MReg) (v : NameEnt) : (s.setM n v).mgmt = s.mgmt := rfl
@[simp] theorem State.setM_snap (s : State) (n : MReg) (v : NameEnt) : (s.setM n v).snap = s.snap := rfl
@[simp] theorem State.setM_vectors (s : State) (n : MReg) (v : NameEnt) : (s.setM n v).vectors = s.vectors := rfl
@[simp] theorem State.setM_trailing (s : State) (n : MReg) (v : NameEnt) : (s.setM n v).trailing = s.trailing := rfl
/-! ### State.raise -/

@[simp] theorem State.raise_others (s : State) (f : Flags) : (s.raise f).others = s.others := rfl
@[simp] theorem State.raise_parked (s : State) (f : Flags) : (s.raise f).parked = s.parked := rfl
@[simp] theorem State.raise_schedule (s : State) (f : Flags) : (s.raise f).schedule = s.schedule := rfl
@[simp] theorem State.raise_fresh (s : State) (f : Flags) : (s.raise f).fresh = s.fresh := rfl
@[simp] theorem State.raise_time (s : State) (f : Flags) : (s.raise f).time = s.time := rfl
@[simp] theorem State.raise_lastCore (s : State) (f : Flags) : (s.raise f).lastCore = s.lastCore := rfl
@[simp] theorem State.raise_lastIssued (s : State) (f : Flags) : (s.raise f).lastIssued = s.lastIssued := rfl
@[simp] theorem State.raise_tasks (s : State) (f : Flags) : (s.raise f).tasks = s.tasks := rfl
@[simp] theorem State.raise_cards (s : State) (f : Flags) : (s.raise f).cards = s.cards := rfl
@[simp] theorem State.raise_nextId (s : State) (f : Flags) : (s.raise f).nextId = s.nextId := rfl
@[simp] theorem State.raise_lastServed (s : State) (f : Flags) : (s.raise f).lastServed = s.lastServed := rfl
@[simp] theorem State.raise_scopes (s : State) (f : Flags) : (s.raise f).scopes = s.scopes := rfl
@[simp] theorem State.raise_sets (s : State) (f : Flags) : (s.raise f).sets = s.sets := rfl
@[simp] theorem State.raise_gangs (s : State) (f : Flags) : (s.raise f).gangs = s.gangs := rfl
@[simp] theorem State.raise_packets (s : State) (f : Flags) : (s.raise f).packets = s.packets := rfl
@[simp] theorem State.raise_stores (s : State) (f : Flags) : (s.raise f).stores = s.stores := rfl
@[simp] theorem State.raise_flights (s : State) (f : Flags) : (s.raise f).flights = s.flights := rfl
@[simp] theorem State.raise_marks (s : State) (f : Flags) : (s.raise f).marks = s.marks := rfl
@[simp] theorem State.raise_preempts (s : State) (f : Flags) : (s.raise f).preempts = s.preempts := rfl
@[simp] theorem State.raise_mem (s : State) (f : Flags) : (s.raise f).mem = s.mem := rfl
@[simp] theorem State.raise_eng (s : State) (f : Flags) : (s.raise f).eng = s.eng := rfl
@[simp] theorem State.raise_dies (s : State) (f : Flags) : (s.raise f).dies = s.dies := rfl
@[simp] theorem State.raise_welt (s : State) (f : Flags) : (s.raise f).welt = s.welt := rfl
@[simp] theorem State.raise_host (s : State) (f : Flags) : (s.raise f).host = s.host := rfl
@[simp] theorem State.raise_fab (s : State) (f : Flags) : (s.raise f).fab = s.fab := rfl
@[simp] theorem State.raise_mgmt (s : State) (f : Flags) : (s.raise f).mgmt = s.mgmt := rfl
@[simp] theorem State.raise_snap (s : State) (f : Flags) : (s.raise f).snap = s.snap := rfl
@[simp] theorem State.raise_vectors (s : State) (f : Flags) : (s.raise f).vectors = s.vectors := rfl
@[simp] theorem State.raise_trailing (s : State) (f : Flags) : (s.raise f).trailing = s.trailing := rfl
/-! ### State.setPc -/

@[simp] theorem State.setPc_others (s : State) (pc : Word) : (s.setPc pc).others = s.others := rfl
@[simp] theorem State.setPc_parked (s : State) (pc : Word) : (s.setPc pc).parked = s.parked := rfl
@[simp] theorem State.setPc_schedule (s : State) (pc : Word) : (s.setPc pc).schedule = s.schedule := rfl
@[simp] theorem State.setPc_fresh (s : State) (pc : Word) : (s.setPc pc).fresh = s.fresh := rfl
@[simp] theorem State.setPc_time (s : State) (pc : Word) : (s.setPc pc).time = s.time := rfl
@[simp] theorem State.setPc_lastCore (s : State) (pc : Word) : (s.setPc pc).lastCore = s.lastCore := rfl
@[simp] theorem State.setPc_lastIssued (s : State) (pc : Word) : (s.setPc pc).lastIssued = s.lastIssued := rfl
@[simp] theorem State.setPc_tasks (s : State) (pc : Word) : (s.setPc pc).tasks = s.tasks := rfl
@[simp] theorem State.setPc_cards (s : State) (pc : Word) : (s.setPc pc).cards = s.cards := rfl
@[simp] theorem State.setPc_nextId (s : State) (pc : Word) : (s.setPc pc).nextId = s.nextId := rfl
@[simp] theorem State.setPc_lastServed (s : State) (pc : Word) : (s.setPc pc).lastServed = s.lastServed := rfl
@[simp] theorem State.setPc_scopes (s : State) (pc : Word) : (s.setPc pc).scopes = s.scopes := rfl
@[simp] theorem State.setPc_sets (s : State) (pc : Word) : (s.setPc pc).sets = s.sets := rfl
@[simp] theorem State.setPc_gangs (s : State) (pc : Word) : (s.setPc pc).gangs = s.gangs := rfl
@[simp] theorem State.setPc_packets (s : State) (pc : Word) : (s.setPc pc).packets = s.packets := rfl
@[simp] theorem State.setPc_stores (s : State) (pc : Word) : (s.setPc pc).stores = s.stores := rfl
@[simp] theorem State.setPc_flights (s : State) (pc : Word) : (s.setPc pc).flights = s.flights := rfl
@[simp] theorem State.setPc_marks (s : State) (pc : Word) : (s.setPc pc).marks = s.marks := rfl
@[simp] theorem State.setPc_preempts (s : State) (pc : Word) : (s.setPc pc).preempts = s.preempts := rfl
@[simp] theorem State.setPc_mem (s : State) (pc : Word) : (s.setPc pc).mem = s.mem := rfl
@[simp] theorem State.setPc_eng (s : State) (pc : Word) : (s.setPc pc).eng = s.eng := rfl
@[simp] theorem State.setPc_dies (s : State) (pc : Word) : (s.setPc pc).dies = s.dies := rfl
@[simp] theorem State.setPc_welt (s : State) (pc : Word) : (s.setPc pc).welt = s.welt := rfl
@[simp] theorem State.setPc_host (s : State) (pc : Word) : (s.setPc pc).host = s.host := rfl
@[simp] theorem State.setPc_fab (s : State) (pc : Word) : (s.setPc pc).fab = s.fab := rfl
@[simp] theorem State.setPc_mgmt (s : State) (pc : Word) : (s.setPc pc).mgmt = s.mgmt := rfl
@[simp] theorem State.setPc_snap (s : State) (pc : Word) : (s.setPc pc).snap = s.snap := rfl
@[simp] theorem State.setPc_vectors (s : State) (pc : Word) : (s.setPc pc).vectors = s.vectors := rfl
@[simp] theorem State.setPc_trailing (s : State) (pc : Word) : (s.setPc pc).trailing = s.trailing := rfl
/-! ### State.advance -/

@[simp] theorem State.advance_others (s : State) (n : Nat) : (s.advance n).others = s.others := rfl
@[simp] theorem State.advance_parked (s : State) (n : Nat) : (s.advance n).parked = s.parked := rfl
@[simp] theorem State.advance_schedule (s : State) (n : Nat) : (s.advance n).schedule = s.schedule := rfl
@[simp] theorem State.advance_fresh (s : State) (n : Nat) : (s.advance n).fresh = s.fresh := rfl
@[simp] theorem State.advance_time (s : State) (n : Nat) : (s.advance n).time = s.time := rfl
@[simp] theorem State.advance_lastCore (s : State) (n : Nat) : (s.advance n).lastCore = s.lastCore := rfl
@[simp] theorem State.advance_lastIssued (s : State) (n : Nat) : (s.advance n).lastIssued = s.lastIssued := rfl
@[simp] theorem State.advance_tasks (s : State) (n : Nat) : (s.advance n).tasks = s.tasks := rfl
@[simp] theorem State.advance_cards (s : State) (n : Nat) : (s.advance n).cards = s.cards := rfl
@[simp] theorem State.advance_nextId (s : State) (n : Nat) : (s.advance n).nextId = s.nextId := rfl
@[simp] theorem State.advance_lastServed (s : State) (n : Nat) : (s.advance n).lastServed = s.lastServed := rfl
@[simp] theorem State.advance_scopes (s : State) (n : Nat) : (s.advance n).scopes = s.scopes := rfl
@[simp] theorem State.advance_sets (s : State) (n : Nat) : (s.advance n).sets = s.sets := rfl
@[simp] theorem State.advance_gangs (s : State) (n : Nat) : (s.advance n).gangs = s.gangs := rfl
@[simp] theorem State.advance_packets (s : State) (n : Nat) : (s.advance n).packets = s.packets := rfl
@[simp] theorem State.advance_stores (s : State) (n : Nat) : (s.advance n).stores = s.stores := rfl
@[simp] theorem State.advance_flights (s : State) (n : Nat) : (s.advance n).flights = s.flights := rfl
@[simp] theorem State.advance_marks (s : State) (n : Nat) : (s.advance n).marks = s.marks := rfl
@[simp] theorem State.advance_preempts (s : State) (n : Nat) : (s.advance n).preempts = s.preempts := rfl
@[simp] theorem State.advance_mem (s : State) (n : Nat) : (s.advance n).mem = s.mem := rfl
@[simp] theorem State.advance_eng (s : State) (n : Nat) : (s.advance n).eng = s.eng := rfl
@[simp] theorem State.advance_dies (s : State) (n : Nat) : (s.advance n).dies = s.dies := rfl
@[simp] theorem State.advance_welt (s : State) (n : Nat) : (s.advance n).welt = s.welt := rfl
@[simp] theorem State.advance_host (s : State) (n : Nat) : (s.advance n).host = s.host := rfl
@[simp] theorem State.advance_fab (s : State) (n : Nat) : (s.advance n).fab = s.fab := rfl
@[simp] theorem State.advance_mgmt (s : State) (n : Nat) : (s.advance n).mgmt = s.mgmt := rfl
@[simp] theorem State.advance_snap (s : State) (n : Nat) : (s.advance n).snap = s.snap := rfl
@[simp] theorem State.advance_vectors (s : State) (n : Nat) : (s.advance n).vectors = s.vectors := rfl
@[simp] theorem State.advance_trailing (s : State) (n : Nat) : (s.advance n).trailing = s.trailing := rfl
/-! ### State.jump -/

@[simp] theorem State.jump_others (s : State) (target : Word) : (s.jump target).others = s.others := rfl
@[simp] theorem State.jump_parked (s : State) (target : Word) : (s.jump target).parked = s.parked := rfl
@[simp] theorem State.jump_schedule (s : State) (target : Word) : (s.jump target).schedule = s.schedule := rfl
@[simp] theorem State.jump_fresh (s : State) (target : Word) : (s.jump target).fresh = s.fresh := rfl
@[simp] theorem State.jump_time (s : State) (target : Word) : (s.jump target).time = s.time := rfl
@[simp] theorem State.jump_lastCore (s : State) (target : Word) : (s.jump target).lastCore = s.lastCore := rfl
@[simp] theorem State.jump_lastIssued (s : State) (target : Word) : (s.jump target).lastIssued = s.lastIssued := rfl
@[simp] theorem State.jump_tasks (s : State) (target : Word) : (s.jump target).tasks = s.tasks := rfl
@[simp] theorem State.jump_cards (s : State) (target : Word) : (s.jump target).cards = s.cards := rfl
@[simp] theorem State.jump_nextId (s : State) (target : Word) : (s.jump target).nextId = s.nextId := rfl
@[simp] theorem State.jump_lastServed (s : State) (target : Word) : (s.jump target).lastServed = s.lastServed := rfl
@[simp] theorem State.jump_scopes (s : State) (target : Word) : (s.jump target).scopes = s.scopes := rfl
@[simp] theorem State.jump_sets (s : State) (target : Word) : (s.jump target).sets = s.sets := rfl
@[simp] theorem State.jump_gangs (s : State) (target : Word) : (s.jump target).gangs = s.gangs := rfl
@[simp] theorem State.jump_packets (s : State) (target : Word) : (s.jump target).packets = s.packets := rfl
@[simp] theorem State.jump_stores (s : State) (target : Word) : (s.jump target).stores = s.stores := rfl
@[simp] theorem State.jump_flights (s : State) (target : Word) : (s.jump target).flights = s.flights := rfl
@[simp] theorem State.jump_marks (s : State) (target : Word) : (s.jump target).marks = s.marks := rfl
@[simp] theorem State.jump_preempts (s : State) (target : Word) : (s.jump target).preempts = s.preempts := rfl
@[simp] theorem State.jump_mem (s : State) (target : Word) : (s.jump target).mem = s.mem := rfl
@[simp] theorem State.jump_eng (s : State) (target : Word) : (s.jump target).eng = s.eng := rfl
@[simp] theorem State.jump_dies (s : State) (target : Word) : (s.jump target).dies = s.dies := rfl
@[simp] theorem State.jump_welt (s : State) (target : Word) : (s.jump target).welt = s.welt := rfl
@[simp] theorem State.jump_host (s : State) (target : Word) : (s.jump target).host = s.host := rfl
@[simp] theorem State.jump_fab (s : State) (target : Word) : (s.jump target).fab = s.fab := rfl
@[simp] theorem State.jump_mgmt (s : State) (target : Word) : (s.jump target).mgmt = s.mgmt := rfl
@[simp] theorem State.jump_snap (s : State) (target : Word) : (s.jump target).snap = s.snap := rfl
@[simp] theorem State.jump_vectors (s : State) (target : Word) : (s.jump target).vectors = s.vectors := rfl
@[simp] theorem State.jump_trailing (s : State) (target : Word) : (s.jump target).trailing = s.trailing := rfl
/-! ### State.waitHere -/

@[simp] theorem State.waitHere_others (s : State) : (s.waitHere).others = s.others := rfl
@[simp] theorem State.waitHere_parked (s : State) : (s.waitHere).parked = s.parked := rfl
@[simp] theorem State.waitHere_schedule (s : State) : (s.waitHere).schedule = s.schedule := rfl
@[simp] theorem State.waitHere_fresh (s : State) : (s.waitHere).fresh = s.fresh := rfl
@[simp] theorem State.waitHere_time (s : State) : (s.waitHere).time = s.time := rfl
@[simp] theorem State.waitHere_lastCore (s : State) : (s.waitHere).lastCore = s.lastCore := rfl
@[simp] theorem State.waitHere_lastIssued (s : State) : (s.waitHere).lastIssued = s.lastIssued := rfl
@[simp] theorem State.waitHere_tasks (s : State) : (s.waitHere).tasks = s.tasks := rfl
@[simp] theorem State.waitHere_cards (s : State) : (s.waitHere).cards = s.cards := rfl
@[simp] theorem State.waitHere_nextId (s : State) : (s.waitHere).nextId = s.nextId := rfl
@[simp] theorem State.waitHere_lastServed (s : State) : (s.waitHere).lastServed = s.lastServed := rfl
@[simp] theorem State.waitHere_scopes (s : State) : (s.waitHere).scopes = s.scopes := rfl
@[simp] theorem State.waitHere_sets (s : State) : (s.waitHere).sets = s.sets := rfl
@[simp] theorem State.waitHere_gangs (s : State) : (s.waitHere).gangs = s.gangs := rfl
@[simp] theorem State.waitHere_packets (s : State) : (s.waitHere).packets = s.packets := rfl
@[simp] theorem State.waitHere_stores (s : State) : (s.waitHere).stores = s.stores := rfl
@[simp] theorem State.waitHere_flights (s : State) : (s.waitHere).flights = s.flights := rfl
@[simp] theorem State.waitHere_marks (s : State) : (s.waitHere).marks = s.marks := rfl
@[simp] theorem State.waitHere_preempts (s : State) : (s.waitHere).preempts = s.preempts := rfl
@[simp] theorem State.waitHere_mem (s : State) : (s.waitHere).mem = s.mem := rfl
@[simp] theorem State.waitHere_eng (s : State) : (s.waitHere).eng = s.eng := rfl
@[simp] theorem State.waitHere_dies (s : State) : (s.waitHere).dies = s.dies := rfl
@[simp] theorem State.waitHere_welt (s : State) : (s.waitHere).welt = s.welt := rfl
@[simp] theorem State.waitHere_host (s : State) : (s.waitHere).host = s.host := rfl
@[simp] theorem State.waitHere_fab (s : State) : (s.waitHere).fab = s.fab := rfl
@[simp] theorem State.waitHere_mgmt (s : State) : (s.waitHere).mgmt = s.mgmt := rfl
@[simp] theorem State.waitHere_snap (s : State) : (s.waitHere).snap = s.snap := rfl
@[simp] theorem State.waitHere_vectors (s : State) : (s.waitHere).vectors = s.vectors := rfl
@[simp] theorem State.waitHere_trailing (s : State) : (s.waitHere).trailing = s.trailing := rfl
/-! ### State.begin -/

@[simp] theorem State.begin_others (s : State) : (s.begin).others = s.others := rfl
@[simp] theorem State.begin_parked (s : State) : (s.begin).parked = s.parked := rfl
@[simp] theorem State.begin_schedule (s : State) : (s.begin).schedule = s.schedule := rfl
@[simp] theorem State.begin_fresh (s : State) : (s.begin).fresh = s.fresh := rfl
@[simp] theorem State.begin_time (s : State) : (s.begin).time = s.time := rfl
@[simp] theorem State.begin_lastCore (s : State) : (s.begin).lastCore = s.lastCore := rfl
@[simp] theorem State.begin_lastIssued (s : State) : (s.begin).lastIssued = s.lastIssued := rfl
@[simp] theorem State.begin_tasks (s : State) : (s.begin).tasks = s.tasks := rfl
@[simp] theorem State.begin_cards (s : State) : (s.begin).cards = s.cards := rfl
@[simp] theorem State.begin_nextId (s : State) : (s.begin).nextId = s.nextId := rfl
@[simp] theorem State.begin_lastServed (s : State) : (s.begin).lastServed = s.lastServed := rfl
@[simp] theorem State.begin_scopes (s : State) : (s.begin).scopes = s.scopes := rfl
@[simp] theorem State.begin_sets (s : State) : (s.begin).sets = s.sets := rfl
@[simp] theorem State.begin_gangs (s : State) : (s.begin).gangs = s.gangs := rfl
@[simp] theorem State.begin_packets (s : State) : (s.begin).packets = s.packets := rfl
@[simp] theorem State.begin_stores (s : State) : (s.begin).stores = s.stores := rfl
@[simp] theorem State.begin_flights (s : State) : (s.begin).flights = s.flights := rfl
@[simp] theorem State.begin_marks (s : State) : (s.begin).marks = s.marks := rfl
@[simp] theorem State.begin_preempts (s : State) : (s.begin).preempts = s.preempts := rfl
@[simp] theorem State.begin_mem (s : State) : (s.begin).mem = s.mem := rfl
@[simp] theorem State.begin_eng (s : State) : (s.begin).eng = s.eng := rfl
@[simp] theorem State.begin_dies (s : State) : (s.begin).dies = s.dies := rfl
@[simp] theorem State.begin_welt (s : State) : (s.begin).welt = s.welt := rfl
@[simp] theorem State.begin_host (s : State) : (s.begin).host = s.host := rfl
@[simp] theorem State.begin_fab (s : State) : (s.begin).fab = s.fab := rfl
@[simp] theorem State.begin_mgmt (s : State) : (s.begin).mgmt = s.mgmt := rfl
@[simp] theorem State.begin_snap (s : State) : (s.begin).snap = s.snap := rfl
@[simp] theorem State.begin_vectors (s : State) : (s.begin).vectors = s.vectors := rfl
@[simp] theorem State.begin_trailing (s : State) : (s.begin).trailing = s.trailing := rfl
/-! ### State.setTensors -/

@[simp] theorem State.setTensors_others (s : State) (ts : List (Nat × Tensor)) : (s.setTensors ts).others = s.others := rfl
@[simp] theorem State.setTensors_parked (s : State) (ts : List (Nat × Tensor)) : (s.setTensors ts).parked = s.parked := rfl
@[simp] theorem State.setTensors_schedule (s : State) (ts : List (Nat × Tensor)) : (s.setTensors ts).schedule = s.schedule := rfl
@[simp] theorem State.setTensors_fresh (s : State) (ts : List (Nat × Tensor)) : (s.setTensors ts).fresh = s.fresh := rfl
@[simp] theorem State.setTensors_time (s : State) (ts : List (Nat × Tensor)) : (s.setTensors ts).time = s.time := rfl
@[simp] theorem State.setTensors_lastCore (s : State) (ts : List (Nat × Tensor)) : (s.setTensors ts).lastCore = s.lastCore := rfl
@[simp] theorem State.setTensors_lastIssued (s : State) (ts : List (Nat × Tensor)) : (s.setTensors ts).lastIssued = s.lastIssued := rfl
@[simp] theorem State.setTensors_tasks (s : State) (ts : List (Nat × Tensor)) : (s.setTensors ts).tasks = s.tasks := rfl
@[simp] theorem State.setTensors_cards (s : State) (ts : List (Nat × Tensor)) : (s.setTensors ts).cards = s.cards := rfl
@[simp] theorem State.setTensors_nextId (s : State) (ts : List (Nat × Tensor)) : (s.setTensors ts).nextId = s.nextId := rfl
@[simp] theorem State.setTensors_lastServed (s : State) (ts : List (Nat × Tensor)) : (s.setTensors ts).lastServed = s.lastServed := rfl
@[simp] theorem State.setTensors_scopes (s : State) (ts : List (Nat × Tensor)) : (s.setTensors ts).scopes = s.scopes := rfl
@[simp] theorem State.setTensors_sets (s : State) (ts : List (Nat × Tensor)) : (s.setTensors ts).sets = s.sets := rfl
@[simp] theorem State.setTensors_gangs (s : State) (ts : List (Nat × Tensor)) : (s.setTensors ts).gangs = s.gangs := rfl
@[simp] theorem State.setTensors_packets (s : State) (ts : List (Nat × Tensor)) : (s.setTensors ts).packets = s.packets := rfl
@[simp] theorem State.setTensors_stores (s : State) (ts : List (Nat × Tensor)) : (s.setTensors ts).stores = s.stores := rfl
@[simp] theorem State.setTensors_flights (s : State) (ts : List (Nat × Tensor)) : (s.setTensors ts).flights = s.flights := rfl
@[simp] theorem State.setTensors_marks (s : State) (ts : List (Nat × Tensor)) : (s.setTensors ts).marks = s.marks := rfl
@[simp] theorem State.setTensors_preempts (s : State) (ts : List (Nat × Tensor)) : (s.setTensors ts).preempts = s.preempts := rfl
@[simp] theorem State.setTensors_mem (s : State) (ts : List (Nat × Tensor)) : (s.setTensors ts).mem = s.mem := rfl
@[simp] theorem State.setTensors_eng (s : State) (ts : List (Nat × Tensor)) : (s.setTensors ts).eng = s.eng := rfl
@[simp] theorem State.setTensors_dies (s : State) (ts : List (Nat × Tensor)) : (s.setTensors ts).dies = s.dies := rfl
@[simp] theorem State.setTensors_welt (s : State) (ts : List (Nat × Tensor)) : (s.setTensors ts).welt = s.welt := rfl
@[simp] theorem State.setTensors_host (s : State) (ts : List (Nat × Tensor)) : (s.setTensors ts).host = s.host := rfl
@[simp] theorem State.setTensors_fab (s : State) (ts : List (Nat × Tensor)) : (s.setTensors ts).fab = s.fab := rfl
@[simp] theorem State.setTensors_mgmt (s : State) (ts : List (Nat × Tensor)) : (s.setTensors ts).mgmt = s.mgmt := rfl
@[simp] theorem State.setTensors_snap (s : State) (ts : List (Nat × Tensor)) : (s.setTensors ts).snap = s.snap := rfl
@[simp] theorem State.setTensors_vectors (s : State) (ts : List (Nat × Tensor)) : (s.setTensors ts).vectors = s.vectors := rfl
@[simp] theorem State.setTensors_trailing (s : State) (ts : List (Nat × Tensor)) : (s.setTensors ts).trailing = s.trailing := rfl
/-! ### State.setExch -/

@[simp] theorem State.setExch_others (s : State) (x : Exchange) : (s.setExch x).others = s.others := rfl
@[simp] theorem State.setExch_parked (s : State) (x : Exchange) : (s.setExch x).parked = s.parked := rfl
@[simp] theorem State.setExch_schedule (s : State) (x : Exchange) : (s.setExch x).schedule = s.schedule := rfl
@[simp] theorem State.setExch_fresh (s : State) (x : Exchange) : (s.setExch x).fresh = s.fresh := rfl
@[simp] theorem State.setExch_time (s : State) (x : Exchange) : (s.setExch x).time = s.time := rfl
@[simp] theorem State.setExch_lastCore (s : State) (x : Exchange) : (s.setExch x).lastCore = s.lastCore := rfl
@[simp] theorem State.setExch_lastIssued (s : State) (x : Exchange) : (s.setExch x).lastIssued = s.lastIssued := rfl
@[simp] theorem State.setExch_tasks (s : State) (x : Exchange) : (s.setExch x).tasks = s.tasks := rfl
@[simp] theorem State.setExch_cards (s : State) (x : Exchange) : (s.setExch x).cards = s.cards := rfl
@[simp] theorem State.setExch_nextId (s : State) (x : Exchange) : (s.setExch x).nextId = s.nextId := rfl
@[simp] theorem State.setExch_lastServed (s : State) (x : Exchange) : (s.setExch x).lastServed = s.lastServed := rfl
@[simp] theorem State.setExch_scopes (s : State) (x : Exchange) : (s.setExch x).scopes = s.scopes := rfl
@[simp] theorem State.setExch_sets (s : State) (x : Exchange) : (s.setExch x).sets = s.sets := rfl
@[simp] theorem State.setExch_gangs (s : State) (x : Exchange) : (s.setExch x).gangs = s.gangs := rfl
@[simp] theorem State.setExch_packets (s : State) (x : Exchange) : (s.setExch x).packets = s.packets := rfl
@[simp] theorem State.setExch_stores (s : State) (x : Exchange) : (s.setExch x).stores = s.stores := rfl
@[simp] theorem State.setExch_flights (s : State) (x : Exchange) : (s.setExch x).flights = s.flights := rfl
@[simp] theorem State.setExch_marks (s : State) (x : Exchange) : (s.setExch x).marks = s.marks := rfl
@[simp] theorem State.setExch_preempts (s : State) (x : Exchange) : (s.setExch x).preempts = s.preempts := rfl
@[simp] theorem State.setExch_mem (s : State) (x : Exchange) : (s.setExch x).mem = s.mem := rfl
@[simp] theorem State.setExch_eng (s : State) (x : Exchange) : (s.setExch x).eng = s.eng := rfl
@[simp] theorem State.setExch_dies (s : State) (x : Exchange) : (s.setExch x).dies = s.dies := rfl
@[simp] theorem State.setExch_welt (s : State) (x : Exchange) : (s.setExch x).welt = s.welt := rfl
@[simp] theorem State.setExch_host (s : State) (x : Exchange) : (s.setExch x).host = s.host := rfl
@[simp] theorem State.setExch_fab (s : State) (x : Exchange) : (s.setExch x).fab = s.fab := rfl
@[simp] theorem State.setExch_mgmt (s : State) (x : Exchange) : (s.setExch x).mgmt = s.mgmt := rfl
@[simp] theorem State.setExch_snap (s : State) (x : Exchange) : (s.setExch x).snap = s.snap := rfl
@[simp] theorem State.setExch_vectors (s : State) (x : Exchange) : (s.setExch x).vectors = s.vectors := rfl
@[simp] theorem State.setExch_trailing (s : State) (x : Exchange) : (s.setExch x).trailing = s.trailing := rfl

/-! ### State.onMem -/

@[simp] theorem State.onMem_th (s : State) (f : Mem → Mem) : (s.onMem f).th = s.th := rfl
@[simp] theorem State.onMem_others (s : State) (f : Mem → Mem) : (s.onMem f).others = s.others := rfl
@[simp] theorem State.onMem_parked (s : State) (f : Mem → Mem) : (s.onMem f).parked = s.parked := rfl
@[simp] theorem State.onMem_schedule (s : State) (f : Mem → Mem) : (s.onMem f).schedule = s.schedule := rfl
@[simp] theorem State.onMem_fresh (s : State) (f : Mem → Mem) : (s.onMem f).fresh = s.fresh := rfl
@[simp] theorem State.onMem_time (s : State) (f : Mem → Mem) : (s.onMem f).time = s.time := rfl
@[simp] theorem State.onMem_lastCore (s : State) (f : Mem → Mem) : (s.onMem f).lastCore = s.lastCore := rfl
@[simp] theorem State.onMem_lastIssued (s : State) (f : Mem → Mem) : (s.onMem f).lastIssued = s.lastIssued := rfl
@[simp] theorem State.onMem_tasks (s : State) (f : Mem → Mem) : (s.onMem f).tasks = s.tasks := rfl
@[simp] theorem State.onMem_cards (s : State) (f : Mem → Mem) : (s.onMem f).cards = s.cards := rfl
@[simp] theorem State.onMem_nextId (s : State) (f : Mem → Mem) : (s.onMem f).nextId = s.nextId := rfl
@[simp] theorem State.onMem_lastServed (s : State) (f : Mem → Mem) : (s.onMem f).lastServed = s.lastServed := rfl
@[simp] theorem State.onMem_scopes (s : State) (f : Mem → Mem) : (s.onMem f).scopes = s.scopes := rfl
@[simp] theorem State.onMem_sets (s : State) (f : Mem → Mem) : (s.onMem f).sets = s.sets := rfl
@[simp] theorem State.onMem_gangs (s : State) (f : Mem → Mem) : (s.onMem f).gangs = s.gangs := rfl
@[simp] theorem State.onMem_packets (s : State) (f : Mem → Mem) : (s.onMem f).packets = s.packets := rfl
@[simp] theorem State.onMem_stores (s : State) (f : Mem → Mem) : (s.onMem f).stores = s.stores := rfl
@[simp] theorem State.onMem_flights (s : State) (f : Mem → Mem) : (s.onMem f).flights = s.flights := rfl
@[simp] theorem State.onMem_marks (s : State) (f : Mem → Mem) : (s.onMem f).marks = s.marks := rfl
@[simp] theorem State.onMem_preempts (s : State) (f : Mem → Mem) : (s.onMem f).preempts = s.preempts := rfl
@[simp] theorem State.onMem_mem (s : State) (f : Mem → Mem) : (s.onMem f).mem = f s.mem := rfl
@[simp] theorem State.onMem_eng (s : State) (f : Mem → Mem) : (s.onMem f).eng = s.eng := rfl
@[simp] theorem State.onMem_dies (s : State) (f : Mem → Mem) : (s.onMem f).dies = s.dies := rfl
@[simp] theorem State.onMem_welt (s : State) (f : Mem → Mem) : (s.onMem f).welt = s.welt := rfl
@[simp] theorem State.onMem_host (s : State) (f : Mem → Mem) : (s.onMem f).host = s.host := rfl
@[simp] theorem State.onMem_fab (s : State) (f : Mem → Mem) : (s.onMem f).fab = s.fab := rfl
@[simp] theorem State.onMem_mgmt (s : State) (f : Mem → Mem) : (s.onMem f).mgmt = s.mgmt := rfl
@[simp] theorem State.onMem_snap (s : State) (f : Mem → Mem) : (s.onMem f).snap = s.snap := rfl
@[simp] theorem State.onMem_vectors (s : State) (f : Mem → Mem) : (s.onMem f).vectors = s.vectors := rfl
@[simp] theorem State.onMem_trailing (s : State) (f : Mem → Mem) : (s.onMem f).trailing = s.trailing := rfl
/-! ### State.onEng -/

@[simp] theorem State.onEng_th (s : State) (f : Eng → Eng) : (s.onEng f).th = s.th := rfl
@[simp] theorem State.onEng_others (s : State) (f : Eng → Eng) : (s.onEng f).others = s.others := rfl
@[simp] theorem State.onEng_parked (s : State) (f : Eng → Eng) : (s.onEng f).parked = s.parked := rfl
@[simp] theorem State.onEng_schedule (s : State) (f : Eng → Eng) : (s.onEng f).schedule = s.schedule := rfl
@[simp] theorem State.onEng_fresh (s : State) (f : Eng → Eng) : (s.onEng f).fresh = s.fresh := rfl
@[simp] theorem State.onEng_time (s : State) (f : Eng → Eng) : (s.onEng f).time = s.time := rfl
@[simp] theorem State.onEng_lastCore (s : State) (f : Eng → Eng) : (s.onEng f).lastCore = s.lastCore := rfl
@[simp] theorem State.onEng_lastIssued (s : State) (f : Eng → Eng) : (s.onEng f).lastIssued = s.lastIssued := rfl
@[simp] theorem State.onEng_tasks (s : State) (f : Eng → Eng) : (s.onEng f).tasks = s.tasks := rfl
@[simp] theorem State.onEng_cards (s : State) (f : Eng → Eng) : (s.onEng f).cards = s.cards := rfl
@[simp] theorem State.onEng_nextId (s : State) (f : Eng → Eng) : (s.onEng f).nextId = s.nextId := rfl
@[simp] theorem State.onEng_lastServed (s : State) (f : Eng → Eng) : (s.onEng f).lastServed = s.lastServed := rfl
@[simp] theorem State.onEng_scopes (s : State) (f : Eng → Eng) : (s.onEng f).scopes = s.scopes := rfl
@[simp] theorem State.onEng_sets (s : State) (f : Eng → Eng) : (s.onEng f).sets = s.sets := rfl
@[simp] theorem State.onEng_gangs (s : State) (f : Eng → Eng) : (s.onEng f).gangs = s.gangs := rfl
@[simp] theorem State.onEng_packets (s : State) (f : Eng → Eng) : (s.onEng f).packets = s.packets := rfl
@[simp] theorem State.onEng_stores (s : State) (f : Eng → Eng) : (s.onEng f).stores = s.stores := rfl
@[simp] theorem State.onEng_flights (s : State) (f : Eng → Eng) : (s.onEng f).flights = s.flights := rfl
@[simp] theorem State.onEng_marks (s : State) (f : Eng → Eng) : (s.onEng f).marks = s.marks := rfl
@[simp] theorem State.onEng_preempts (s : State) (f : Eng → Eng) : (s.onEng f).preempts = s.preempts := rfl
@[simp] theorem State.onEng_mem (s : State) (f : Eng → Eng) : (s.onEng f).mem = s.mem := rfl
@[simp] theorem State.onEng_eng (s : State) (f : Eng → Eng) : (s.onEng f).eng = f s.eng := rfl
@[simp] theorem State.onEng_dies (s : State) (f : Eng → Eng) : (s.onEng f).dies = s.dies := rfl
@[simp] theorem State.onEng_welt (s : State) (f : Eng → Eng) : (s.onEng f).welt = s.welt := rfl
@[simp] theorem State.onEng_host (s : State) (f : Eng → Eng) : (s.onEng f).host = s.host := rfl
@[simp] theorem State.onEng_fab (s : State) (f : Eng → Eng) : (s.onEng f).fab = s.fab := rfl
@[simp] theorem State.onEng_mgmt (s : State) (f : Eng → Eng) : (s.onEng f).mgmt = s.mgmt := rfl
@[simp] theorem State.onEng_snap (s : State) (f : Eng → Eng) : (s.onEng f).snap = s.snap := rfl
@[simp] theorem State.onEng_vectors (s : State) (f : Eng → Eng) : (s.onEng f).vectors = s.vectors := rfl
@[simp] theorem State.onEng_trailing (s : State) (f : Eng → Eng) : (s.onEng f).trailing = s.trailing := rfl
/-! ### State.onFab -/

@[simp] theorem State.onFab_th (s : State) (f : Fabric → Fabric) : (s.onFab f).th = s.th := rfl
@[simp] theorem State.onFab_others (s : State) (f : Fabric → Fabric) : (s.onFab f).others = s.others := rfl
@[simp] theorem State.onFab_parked (s : State) (f : Fabric → Fabric) : (s.onFab f).parked = s.parked := rfl
@[simp] theorem State.onFab_schedule (s : State) (f : Fabric → Fabric) : (s.onFab f).schedule = s.schedule := rfl
@[simp] theorem State.onFab_fresh (s : State) (f : Fabric → Fabric) : (s.onFab f).fresh = s.fresh := rfl
@[simp] theorem State.onFab_time (s : State) (f : Fabric → Fabric) : (s.onFab f).time = s.time := rfl
@[simp] theorem State.onFab_lastCore (s : State) (f : Fabric → Fabric) : (s.onFab f).lastCore = s.lastCore := rfl
@[simp] theorem State.onFab_lastIssued (s : State) (f : Fabric → Fabric) : (s.onFab f).lastIssued = s.lastIssued := rfl
@[simp] theorem State.onFab_tasks (s : State) (f : Fabric → Fabric) : (s.onFab f).tasks = s.tasks := rfl
@[simp] theorem State.onFab_cards (s : State) (f : Fabric → Fabric) : (s.onFab f).cards = s.cards := rfl
@[simp] theorem State.onFab_nextId (s : State) (f : Fabric → Fabric) : (s.onFab f).nextId = s.nextId := rfl
@[simp] theorem State.onFab_lastServed (s : State) (f : Fabric → Fabric) : (s.onFab f).lastServed = s.lastServed := rfl
@[simp] theorem State.onFab_scopes (s : State) (f : Fabric → Fabric) : (s.onFab f).scopes = s.scopes := rfl
@[simp] theorem State.onFab_sets (s : State) (f : Fabric → Fabric) : (s.onFab f).sets = s.sets := rfl
@[simp] theorem State.onFab_gangs (s : State) (f : Fabric → Fabric) : (s.onFab f).gangs = s.gangs := rfl
@[simp] theorem State.onFab_packets (s : State) (f : Fabric → Fabric) : (s.onFab f).packets = s.packets := rfl
@[simp] theorem State.onFab_stores (s : State) (f : Fabric → Fabric) : (s.onFab f).stores = s.stores := rfl
@[simp] theorem State.onFab_flights (s : State) (f : Fabric → Fabric) : (s.onFab f).flights = s.flights := rfl
@[simp] theorem State.onFab_marks (s : State) (f : Fabric → Fabric) : (s.onFab f).marks = s.marks := rfl
@[simp] theorem State.onFab_preempts (s : State) (f : Fabric → Fabric) : (s.onFab f).preempts = s.preempts := rfl
@[simp] theorem State.onFab_mem (s : State) (f : Fabric → Fabric) : (s.onFab f).mem = s.mem := rfl
@[simp] theorem State.onFab_eng (s : State) (f : Fabric → Fabric) : (s.onFab f).eng = s.eng := rfl
@[simp] theorem State.onFab_dies (s : State) (f : Fabric → Fabric) : (s.onFab f).dies = s.dies := rfl
@[simp] theorem State.onFab_welt (s : State) (f : Fabric → Fabric) : (s.onFab f).welt = s.welt := rfl
@[simp] theorem State.onFab_host (s : State) (f : Fabric → Fabric) : (s.onFab f).host = s.host := rfl
@[simp] theorem State.onFab_fab (s : State) (f : Fabric → Fabric) : (s.onFab f).fab = f s.fab := rfl
@[simp] theorem State.onFab_mgmt (s : State) (f : Fabric → Fabric) : (s.onFab f).mgmt = s.mgmt := rfl
@[simp] theorem State.onFab_snap (s : State) (f : Fabric → Fabric) : (s.onFab f).snap = s.snap := rfl
@[simp] theorem State.onFab_vectors (s : State) (f : Fabric → Fabric) : (s.onFab f).vectors = s.vectors := rfl
@[simp] theorem State.onFab_trailing (s : State) (f : Fabric → Fabric) : (s.onFab f).trailing = s.trailing := rfl
/-! ### State.onMgmt -/

@[simp] theorem State.onMgmt_th (s : State) (f : Mgmt → Mgmt) : (s.onMgmt f).th = s.th := rfl
@[simp] theorem State.onMgmt_others (s : State) (f : Mgmt → Mgmt) : (s.onMgmt f).others = s.others := rfl
@[simp] theorem State.onMgmt_parked (s : State) (f : Mgmt → Mgmt) : (s.onMgmt f).parked = s.parked := rfl
@[simp] theorem State.onMgmt_schedule (s : State) (f : Mgmt → Mgmt) : (s.onMgmt f).schedule = s.schedule := rfl
@[simp] theorem State.onMgmt_fresh (s : State) (f : Mgmt → Mgmt) : (s.onMgmt f).fresh = s.fresh := rfl
@[simp] theorem State.onMgmt_time (s : State) (f : Mgmt → Mgmt) : (s.onMgmt f).time = s.time := rfl
@[simp] theorem State.onMgmt_lastCore (s : State) (f : Mgmt → Mgmt) : (s.onMgmt f).lastCore = s.lastCore := rfl
@[simp] theorem State.onMgmt_lastIssued (s : State) (f : Mgmt → Mgmt) : (s.onMgmt f).lastIssued = s.lastIssued := rfl
@[simp] theorem State.onMgmt_tasks (s : State) (f : Mgmt → Mgmt) : (s.onMgmt f).tasks = s.tasks := rfl
@[simp] theorem State.onMgmt_cards (s : State) (f : Mgmt → Mgmt) : (s.onMgmt f).cards = s.cards := rfl
@[simp] theorem State.onMgmt_nextId (s : State) (f : Mgmt → Mgmt) : (s.onMgmt f).nextId = s.nextId := rfl
@[simp] theorem State.onMgmt_lastServed (s : State) (f : Mgmt → Mgmt) : (s.onMgmt f).lastServed = s.lastServed := rfl
@[simp] theorem State.onMgmt_scopes (s : State) (f : Mgmt → Mgmt) : (s.onMgmt f).scopes = s.scopes := rfl
@[simp] theorem State.onMgmt_sets (s : State) (f : Mgmt → Mgmt) : (s.onMgmt f).sets = s.sets := rfl
@[simp] theorem State.onMgmt_gangs (s : State) (f : Mgmt → Mgmt) : (s.onMgmt f).gangs = s.gangs := rfl
@[simp] theorem State.onMgmt_packets (s : State) (f : Mgmt → Mgmt) : (s.onMgmt f).packets = s.packets := rfl
@[simp] theorem State.onMgmt_stores (s : State) (f : Mgmt → Mgmt) : (s.onMgmt f).stores = s.stores := rfl
@[simp] theorem State.onMgmt_flights (s : State) (f : Mgmt → Mgmt) : (s.onMgmt f).flights = s.flights := rfl
@[simp] theorem State.onMgmt_marks (s : State) (f : Mgmt → Mgmt) : (s.onMgmt f).marks = s.marks := rfl
@[simp] theorem State.onMgmt_preempts (s : State) (f : Mgmt → Mgmt) : (s.onMgmt f).preempts = s.preempts := rfl
@[simp] theorem State.onMgmt_mem (s : State) (f : Mgmt → Mgmt) : (s.onMgmt f).mem = s.mem := rfl
@[simp] theorem State.onMgmt_eng (s : State) (f : Mgmt → Mgmt) : (s.onMgmt f).eng = s.eng := rfl
@[simp] theorem State.onMgmt_dies (s : State) (f : Mgmt → Mgmt) : (s.onMgmt f).dies = s.dies := rfl
@[simp] theorem State.onMgmt_welt (s : State) (f : Mgmt → Mgmt) : (s.onMgmt f).welt = s.welt := rfl
@[simp] theorem State.onMgmt_host (s : State) (f : Mgmt → Mgmt) : (s.onMgmt f).host = s.host := rfl
@[simp] theorem State.onMgmt_fab (s : State) (f : Mgmt → Mgmt) : (s.onMgmt f).fab = s.fab := rfl
@[simp] theorem State.onMgmt_mgmt (s : State) (f : Mgmt → Mgmt) : (s.onMgmt f).mgmt = f s.mgmt := rfl
@[simp] theorem State.onMgmt_snap (s : State) (f : Mgmt → Mgmt) : (s.onMgmt f).snap = s.snap := rfl
@[simp] theorem State.onMgmt_vectors (s : State) (f : Mgmt → Mgmt) : (s.onMgmt f).vectors = s.vectors := rfl
@[simp] theorem State.onMgmt_trailing (s : State) (f : Mgmt → Mgmt) : (s.onMgmt f).trailing = s.trailing := rfl

/-! ### The context in focus -/

@[simp] theorem State.setD_th (s : State) (n : DReg) (v : Word) : (s.setD n v).th = s.th.setD n v := rfl
@[simp] theorem State.setP_th (s : State) (n : PReg) (v : Lane) : (s.setP n v).th = s.th.setP n v := rfl
@[simp] theorem State.setQ_th (s : State) (n : QReg) (v : Region) : (s.setQ n v).th = s.th.setQ n v := rfl
@[simp] theorem State.setM_th (s : State) (n : MReg) (v : NameEnt) : (s.setM n v).th = s.th.setM n v := rfl
@[simp] theorem State.raise_th (s : State) (f : Flags) : (s.raise f).th = s.th.raise f := rfl
@[simp] theorem State.setPc_th (s : State) (pc : Word) : (s.setPc pc).th = { s.th with pc := pc } := rfl
@[simp] theorem State.advance_th (s : State) (n : Nat) : (s.advance n).th = { s.th with pc := s.th.pc + BitVec.ofNat 64 n } := rfl
@[simp] theorem State.waitHere_th (s : State) : s.waitHere.th = { s.th with waiting := true } := rfl
@[simp] theorem State.begin_th (s : State) : s.begin.th = { s.th with waiting := false, trapped := false } := rfl
@[simp] theorem State.getD_th (s : State) (n : DReg) : s.getD n = s.th.getD n := rfl

/-! ### Thread.setV -/

@[simp] theorem Thread.setV_live (t : Thread) (n : VReg) (x : Lanes) : (t.setV n x).live = t.live := rfl
@[simp] theorem Thread.setV_num (t : Thread) (n : VReg) (x : Lanes) : (t.setV n x).num = t.num := rfl
@[simp] theorem Thread.setV_asid (t : Thread) (n : VReg) (x : Lanes) : (t.setV n x).asid = t.asid := rfl
@[simp] theorem Thread.setV_d (t : Thread) (n : VReg) (x : Lanes) : (t.setV n x).d = t.d := rfl
@[simp] theorem Thread.setV_p (t : Thread) (n : VReg) (x : Lanes) : (t.setV n x).p = t.p := rfl
@[simp] theorem Thread.setV_q (t : Thread) (n : VReg) (x : Lanes) : (t.setV n x).q = t.q := rfl
@[simp] theorem Thread.setV_z (t : Thread) (n : VReg) (x : Lanes) : (t.setV n x).z = t.z := rfl
@[simp] theorem Thread.setV_tensors (t : Thread) (n : VReg) (x : Lanes) : (t.setV n x).tensors = t.tensors := rfl
@[simp] theorem Thread.setV_pc (t : Thread) (n : VReg) (x : Lanes) : (t.setV n x).pc = t.pc := rfl
@[simp] theorem Thread.setV_status (t : Thread) (n : VReg) (x : Lanes) : (t.setV n x).status = t.status := rfl
@[simp] theorem Thread.setV_cause (t : Thread) (n : VReg) (x : Lanes) : (t.setV n x).cause = t.cause := rfl
@[simp] theorem Thread.setV_epc (t : Thread) (n : VReg) (x : Lanes) : (t.setV n x).epc = t.epc := rfl
@[simp] theorem Thread.setV_eaddr (t : Thread) (n : VReg) (x : Lanes) : (t.setV n x).eaddr = t.eaddr := rfl
@[simp] theorem Thread.setV_tvec (t : Thread) (n : VReg) (x : Lanes) : (t.setV n x).tvec = t.tvec := rfl
@[simp] theorem Thread.setV_fmode (t : Thread) (n : VReg) (x : Lanes) : (t.setV n x).fmode = t.fmode := rfl
@[simp] theorem Thread.setV_spbase (t : Thread) (n : VReg) (x : Lanes) : (t.setV n x).spbase = t.spbase := rfl
@[simp] theorem Thread.setV_spsize (t : Thread) (n : VReg) (x : Lanes) : (t.setV n x).spsize = t.spsize := rfl
@[simp] theorem Thread.setV_spilltop (t : Thread) (n : VReg) (x : Lanes) : (t.setV n x).spilltop = t.spilltop := rfl
@[simp] theorem Thread.setV_spillovf (t : Thread) (n : VReg) (x : Lanes) : (t.setV n x).spillovf = t.spillovf := rfl
@[simp] theorem Thread.setV_lvl (t : Thread) (n : VReg) (x : Lanes) : (t.setV n x).lvl = t.lvl := rfl
@[simp] theorem Thread.setV_taskid (t : Thread) (n : VReg) (x : Lanes) : (t.setV n x).taskid = t.taskid := rfl
@[simp] theorem Thread.setV_scopeid (t : Thread) (n : VReg) (x : Lanes) : (t.setV n x).scopeid = t.scopeid := rfl
@[simp] theorem Thread.setV_ecount (t : Thread) (n : VReg) (x : Lanes) : (t.setV n x).ecount = t.ecount := rfl
@[simp] theorem Thread.setV_loops (t : Thread) (n : VReg) (x : Lanes) : (t.setV n x).loops = t.loops := rfl
@[simp] theorem Thread.setV_binds (t : Thread) (n : VReg) (x : Lanes) : (t.setV n x).binds = t.binds := rfl
@[simp] theorem Thread.setV_segBase (t : Thread) (n : VReg) (x : Lanes) : (t.setV n x).segBase = t.segBase := rfl
@[simp] theorem Thread.setV_segCount (t : Thread) (n : VReg) (x : Lanes) : (t.setV n x).segCount = t.segCount := rfl
@[simp] theorem Thread.setV_event (t : Thread) (n : VReg) (x : Lanes) : (t.setV n x).event = t.event := rfl
@[simp] theorem Thread.setV_onc (t : Thread) (n : VReg) (x : Lanes) : (t.setV n x).onc = t.onc := rfl
@[simp] theorem Thread.setV_inHandler (t : Thread) (n : VReg) (x : Lanes) : (t.setV n x).inHandler = t.inHandler := rfl
@[simp] theorem Thread.setV_observed (t : Thread) (n : VReg) (x : Lanes) : (t.setV n x).observed = t.observed := rfl
@[simp] theorem Thread.setV_marked (t : Thread) (n : VReg) (x : Lanes) : (t.setV n x).marked = t.marked := rfl
@[simp] theorem Thread.setV_names (t : Thread) (n : VReg) (x : Lanes) : (t.setV n x).names = t.names := rfl
@[simp] theorem Thread.setV_cntRemote (t : Thread) (n : VReg) (x : Lanes) : (t.setV n x).cntRemote = t.cntRemote := rfl
@[simp] theorem Thread.setV_cntGlobal (t : Thread) (n : VReg) (x : Lanes) : (t.setV n x).cntGlobal = t.cntGlobal := rfl
@[simp] theorem Thread.setV_cntDevice (t : Thread) (n : VReg) (x : Lanes) : (t.setV n x).cntDevice = t.cntDevice := rfl
@[simp] theorem Thread.setV_rerr (t : Thread) (n : VReg) (x : Lanes) : (t.setV n x).rerr = t.rerr := rfl
@[simp] theorem Thread.setV_refused (t : Thread) (n : VReg) (x : Lanes) : (t.setV n x).refused = t.refused := rfl
@[simp] theorem Thread.setV_derr (t : Thread) (n : VReg) (x : Lanes) : (t.setV n x).derr = t.derr := rfl
@[simp] theorem Thread.setV_queue (t : Thread) (n : VReg) (x : Lanes) : (t.setV n x).queue = t.queue := rfl
@[simp] theorem Thread.setV_beyond (t : Thread) (n : VReg) (x : Lanes) : (t.setV n x).beyond = t.beyond := rfl
@[simp] theorem Thread.setV_places (t : Thread) (n : VReg) (x : Lanes) : (t.setV n x).places = t.places := rfl
@[simp] theorem Thread.setV_ownPages (t : Thread) (n : VReg) (x : Lanes) : (t.setV n x).ownPages = t.ownPages := rfl
@[simp] theorem Thread.setV_lost (t : Thread) (n : VReg) (x : Lanes) : (t.setV n x).lost = t.lost := rfl
@[simp] theorem Thread.setV_resv (t : Thread) (n : VReg) (x : Lanes) : (t.setV n x).resv = t.resv := rfl
@[simp] theorem Thread.setV_killCount (t : Thread) (n : VReg) (x : Lanes) : (t.setV n x).killCount = t.killCount := rfl
@[simp] theorem Thread.setV_handlerCount (t : Thread) (n : VReg) (x : Lanes) : (t.setV n x).handlerCount = t.handlerCount := rfl
@[simp] theorem Thread.setV_covered (t : Thread) (n : VReg) (x : Lanes) : (t.setV n x).covered = t.covered := rfl
@[simp] theorem Thread.setV_intrs (t : Thread) (n : VReg) (x : Lanes) : (t.setV n x).intrs = t.intrs := rfl
@[simp] theorem Thread.setV_waiting (t : Thread) (n : VReg) (x : Lanes) : (t.setV n x).waiting = t.waiting := rfl
@[simp] theorem Thread.setV_trapped (t : Thread) (n : VReg) (x : Lanes) : (t.setV n x).trapped = t.trapped := rfl
@[simp] theorem Thread.setV_micro (t : Thread) (n : VReg) (x : Lanes) : (t.setV n x).micro = t.micro := rfl
@[simp] theorem Thread.setV_awaits (t : Thread) (n : VReg) (x : Lanes) : (t.setV n x).awaits = t.awaits := rfl
@[simp] theorem Thread.setV_level (t : Thread) (n : VReg) (x : Lanes) : (t.setV n x).level = t.level := rfl
@[simp] theorem Thread.setV_run (t : Thread) (n : VReg) (x : Lanes) : (t.setV n x).run = t.run := rfl
@[simp] theorem Thread.setV_phrase (t : Thread) (n : VReg) (x : Lanes) : (t.setV n x).phrase = t.phrase := rfl
@[simp] theorem Thread.setV_rank (t : Thread) (n : VReg) (x : Lanes) : (t.setV n x).rank = t.rank := rfl
@[simp] theorem Thread.setV_dealt (t : Thread) (n : VReg) (x : Lanes) : (t.setV n x).dealt = t.dealt := rfl
@[simp] theorem Thread.setV_exch (t : Thread) (n : VReg) (x : Lanes) : (t.setV n x).exch = t.exch := rfl
@[simp] theorem Thread.setV_replies (t : Thread) (n : VReg) (x : Lanes) : (t.setV n x).replies = t.replies := rfl
@[simp] theorem Thread.setV_acted (t : Thread) (n : VReg) (x : Lanes) : (t.setV n x).acted = t.acted := rfl
@[simp] theorem Thread.setV_kept (t : Thread) (n : VReg) (x : Lanes) : (t.setV n x).kept = t.kept := rfl
@[simp] theorem Thread.setV_icache (t : Thread) (n : VReg) (x : Lanes) : (t.setV n x).icache = t.icache := rfl
@[simp] theorem Thread.setV_acquired (t : Thread) (n : VReg) (x : Lanes) : (t.setV n x).acquired = t.acquired := rfl
@[simp] theorem Thread.setV_csa (t : Thread) (n : VReg) (x : Lanes) : (t.setV n x).csa = t.csa := rfl
@[simp] theorem Thread.setV_pimage (t : Thread) (n : VReg) (x : Lanes) : (t.setV n x).pimage = t.pimage := rfl
@[simp] theorem Thread.setV_evicted (t : Thread) (n : VReg) (x : Lanes) : (t.setV n x).evicted = t.evicted := rfl
@[simp] theorem Thread.setV_yields (t : Thread) (n : VReg) (x : Lanes) : (t.setV n x).yields = t.yields := rfl

/-! ### Thread.setP -/

@[simp] theorem Thread.setP_live (t : Thread) (n : PReg) (x : Lane) : (t.setP n x).live = t.live := rfl
@[simp] theorem Thread.setP_num (t : Thread) (n : PReg) (x : Lane) : (t.setP n x).num = t.num := rfl
@[simp] theorem Thread.setP_asid (t : Thread) (n : PReg) (x : Lane) : (t.setP n x).asid = t.asid := rfl
@[simp] theorem Thread.setP_d (t : Thread) (n : PReg) (x : Lane) : (t.setP n x).d = t.d := rfl
@[simp] theorem Thread.setP_v (t : Thread) (n : PReg) (x : Lane) : (t.setP n x).v = t.v := rfl
@[simp] theorem Thread.setP_q (t : Thread) (n : PReg) (x : Lane) : (t.setP n x).q = t.q := rfl
@[simp] theorem Thread.setP_z (t : Thread) (n : PReg) (x : Lane) : (t.setP n x).z = t.z := rfl
@[simp] theorem Thread.setP_tensors (t : Thread) (n : PReg) (x : Lane) : (t.setP n x).tensors = t.tensors := rfl
@[simp] theorem Thread.setP_pc (t : Thread) (n : PReg) (x : Lane) : (t.setP n x).pc = t.pc := rfl
@[simp] theorem Thread.setP_status (t : Thread) (n : PReg) (x : Lane) : (t.setP n x).status = t.status := rfl
@[simp] theorem Thread.setP_cause (t : Thread) (n : PReg) (x : Lane) : (t.setP n x).cause = t.cause := rfl
@[simp] theorem Thread.setP_epc (t : Thread) (n : PReg) (x : Lane) : (t.setP n x).epc = t.epc := rfl
@[simp] theorem Thread.setP_eaddr (t : Thread) (n : PReg) (x : Lane) : (t.setP n x).eaddr = t.eaddr := rfl
@[simp] theorem Thread.setP_tvec (t : Thread) (n : PReg) (x : Lane) : (t.setP n x).tvec = t.tvec := rfl
@[simp] theorem Thread.setP_fmode (t : Thread) (n : PReg) (x : Lane) : (t.setP n x).fmode = t.fmode := rfl
@[simp] theorem Thread.setP_spbase (t : Thread) (n : PReg) (x : Lane) : (t.setP n x).spbase = t.spbase := rfl
@[simp] theorem Thread.setP_spsize (t : Thread) (n : PReg) (x : Lane) : (t.setP n x).spsize = t.spsize := rfl
@[simp] theorem Thread.setP_spilltop (t : Thread) (n : PReg) (x : Lane) : (t.setP n x).spilltop = t.spilltop := rfl
@[simp] theorem Thread.setP_spillovf (t : Thread) (n : PReg) (x : Lane) : (t.setP n x).spillovf = t.spillovf := rfl
@[simp] theorem Thread.setP_lvl (t : Thread) (n : PReg) (x : Lane) : (t.setP n x).lvl = t.lvl := rfl
@[simp] theorem Thread.setP_taskid (t : Thread) (n : PReg) (x : Lane) : (t.setP n x).taskid = t.taskid := rfl
@[simp] theorem Thread.setP_scopeid (t : Thread) (n : PReg) (x : Lane) : (t.setP n x).scopeid = t.scopeid := rfl
@[simp] theorem Thread.setP_ecount (t : Thread) (n : PReg) (x : Lane) : (t.setP n x).ecount = t.ecount := rfl
@[simp] theorem Thread.setP_loops (t : Thread) (n : PReg) (x : Lane) : (t.setP n x).loops = t.loops := rfl
@[simp] theorem Thread.setP_binds (t : Thread) (n : PReg) (x : Lane) : (t.setP n x).binds = t.binds := rfl
@[simp] theorem Thread.setP_segBase (t : Thread) (n : PReg) (x : Lane) : (t.setP n x).segBase = t.segBase := rfl
@[simp] theorem Thread.setP_segCount (t : Thread) (n : PReg) (x : Lane) : (t.setP n x).segCount = t.segCount := rfl
@[simp] theorem Thread.setP_event (t : Thread) (n : PReg) (x : Lane) : (t.setP n x).event = t.event := rfl
@[simp] theorem Thread.setP_onc (t : Thread) (n : PReg) (x : Lane) : (t.setP n x).onc = t.onc := rfl
@[simp] theorem Thread.setP_inHandler (t : Thread) (n : PReg) (x : Lane) : (t.setP n x).inHandler = t.inHandler := rfl
@[simp] theorem Thread.setP_observed (t : Thread) (n : PReg) (x : Lane) : (t.setP n x).observed = t.observed := rfl
@[simp] theorem Thread.setP_marked (t : Thread) (n : PReg) (x : Lane) : (t.setP n x).marked = t.marked := rfl
@[simp] theorem Thread.setP_names (t : Thread) (n : PReg) (x : Lane) : (t.setP n x).names = t.names := rfl
@[simp] theorem Thread.setP_cntRemote (t : Thread) (n : PReg) (x : Lane) : (t.setP n x).cntRemote = t.cntRemote := rfl
@[simp] theorem Thread.setP_cntGlobal (t : Thread) (n : PReg) (x : Lane) : (t.setP n x).cntGlobal = t.cntGlobal := rfl
@[simp] theorem Thread.setP_cntDevice (t : Thread) (n : PReg) (x : Lane) : (t.setP n x).cntDevice = t.cntDevice := rfl
@[simp] theorem Thread.setP_rerr (t : Thread) (n : PReg) (x : Lane) : (t.setP n x).rerr = t.rerr := rfl
@[simp] theorem Thread.setP_refused (t : Thread) (n : PReg) (x : Lane) : (t.setP n x).refused = t.refused := rfl
@[simp] theorem Thread.setP_derr (t : Thread) (n : PReg) (x : Lane) : (t.setP n x).derr = t.derr := rfl
@[simp] theorem Thread.setP_queue (t : Thread) (n : PReg) (x : Lane) : (t.setP n x).queue = t.queue := rfl
@[simp] theorem Thread.setP_beyond (t : Thread) (n : PReg) (x : Lane) : (t.setP n x).beyond = t.beyond := rfl
@[simp] theorem Thread.setP_places (t : Thread) (n : PReg) (x : Lane) : (t.setP n x).places = t.places := rfl
@[simp] theorem Thread.setP_ownPages (t : Thread) (n : PReg) (x : Lane) : (t.setP n x).ownPages = t.ownPages := rfl
@[simp] theorem Thread.setP_lost (t : Thread) (n : PReg) (x : Lane) : (t.setP n x).lost = t.lost := rfl
@[simp] theorem Thread.setP_resv (t : Thread) (n : PReg) (x : Lane) : (t.setP n x).resv = t.resv := rfl
@[simp] theorem Thread.setP_killCount (t : Thread) (n : PReg) (x : Lane) : (t.setP n x).killCount = t.killCount := rfl
@[simp] theorem Thread.setP_handlerCount (t : Thread) (n : PReg) (x : Lane) : (t.setP n x).handlerCount = t.handlerCount := rfl
@[simp] theorem Thread.setP_covered (t : Thread) (n : PReg) (x : Lane) : (t.setP n x).covered = t.covered := rfl
@[simp] theorem Thread.setP_intrs (t : Thread) (n : PReg) (x : Lane) : (t.setP n x).intrs = t.intrs := rfl
@[simp] theorem Thread.setP_waiting (t : Thread) (n : PReg) (x : Lane) : (t.setP n x).waiting = t.waiting := rfl
@[simp] theorem Thread.setP_trapped (t : Thread) (n : PReg) (x : Lane) : (t.setP n x).trapped = t.trapped := rfl
@[simp] theorem Thread.setP_micro (t : Thread) (n : PReg) (x : Lane) : (t.setP n x).micro = t.micro := rfl
@[simp] theorem Thread.setP_awaits (t : Thread) (n : PReg) (x : Lane) : (t.setP n x).awaits = t.awaits := rfl
@[simp] theorem Thread.setP_level (t : Thread) (n : PReg) (x : Lane) : (t.setP n x).level = t.level := rfl
@[simp] theorem Thread.setP_run (t : Thread) (n : PReg) (x : Lane) : (t.setP n x).run = t.run := rfl
@[simp] theorem Thread.setP_phrase (t : Thread) (n : PReg) (x : Lane) : (t.setP n x).phrase = t.phrase := rfl
@[simp] theorem Thread.setP_rank (t : Thread) (n : PReg) (x : Lane) : (t.setP n x).rank = t.rank := rfl
@[simp] theorem Thread.setP_dealt (t : Thread) (n : PReg) (x : Lane) : (t.setP n x).dealt = t.dealt := rfl
@[simp] theorem Thread.setP_exch (t : Thread) (n : PReg) (x : Lane) : (t.setP n x).exch = t.exch := rfl
@[simp] theorem Thread.setP_replies (t : Thread) (n : PReg) (x : Lane) : (t.setP n x).replies = t.replies := rfl
@[simp] theorem Thread.setP_acted (t : Thread) (n : PReg) (x : Lane) : (t.setP n x).acted = t.acted := rfl
@[simp] theorem Thread.setP_kept (t : Thread) (n : PReg) (x : Lane) : (t.setP n x).kept = t.kept := rfl
@[simp] theorem Thread.setP_icache (t : Thread) (n : PReg) (x : Lane) : (t.setP n x).icache = t.icache := rfl
@[simp] theorem Thread.setP_acquired (t : Thread) (n : PReg) (x : Lane) : (t.setP n x).acquired = t.acquired := rfl
@[simp] theorem Thread.setP_csa (t : Thread) (n : PReg) (x : Lane) : (t.setP n x).csa = t.csa := rfl
@[simp] theorem Thread.setP_pimage (t : Thread) (n : PReg) (x : Lane) : (t.setP n x).pimage = t.pimage := rfl
@[simp] theorem Thread.setP_evicted (t : Thread) (n : PReg) (x : Lane) : (t.setP n x).evicted = t.evicted := rfl
@[simp] theorem Thread.setP_yields (t : Thread) (n : PReg) (x : Lane) : (t.setP n x).yields = t.yields := rfl

/-! ### Thread.setQ -/

@[simp] theorem Thread.setQ_live (t : Thread) (n : QReg) (x : Region) : (t.setQ n x).live = t.live := rfl
@[simp] theorem Thread.setQ_num (t : Thread) (n : QReg) (x : Region) : (t.setQ n x).num = t.num := rfl
@[simp] theorem Thread.setQ_asid (t : Thread) (n : QReg) (x : Region) : (t.setQ n x).asid = t.asid := rfl
@[simp] theorem Thread.setQ_d (t : Thread) (n : QReg) (x : Region) : (t.setQ n x).d = t.d := rfl
@[simp] theorem Thread.setQ_v (t : Thread) (n : QReg) (x : Region) : (t.setQ n x).v = t.v := rfl
@[simp] theorem Thread.setQ_p (t : Thread) (n : QReg) (x : Region) : (t.setQ n x).p = t.p := rfl
@[simp] theorem Thread.setQ_z (t : Thread) (n : QReg) (x : Region) : (t.setQ n x).z = t.z := rfl
@[simp] theorem Thread.setQ_tensors (t : Thread) (n : QReg) (x : Region) : (t.setQ n x).tensors = t.tensors := rfl
@[simp] theorem Thread.setQ_pc (t : Thread) (n : QReg) (x : Region) : (t.setQ n x).pc = t.pc := rfl
@[simp] theorem Thread.setQ_status (t : Thread) (n : QReg) (x : Region) : (t.setQ n x).status = t.status := rfl
@[simp] theorem Thread.setQ_cause (t : Thread) (n : QReg) (x : Region) : (t.setQ n x).cause = t.cause := rfl
@[simp] theorem Thread.setQ_epc (t : Thread) (n : QReg) (x : Region) : (t.setQ n x).epc = t.epc := rfl
@[simp] theorem Thread.setQ_eaddr (t : Thread) (n : QReg) (x : Region) : (t.setQ n x).eaddr = t.eaddr := rfl
@[simp] theorem Thread.setQ_tvec (t : Thread) (n : QReg) (x : Region) : (t.setQ n x).tvec = t.tvec := rfl
@[simp] theorem Thread.setQ_fmode (t : Thread) (n : QReg) (x : Region) : (t.setQ n x).fmode = t.fmode := rfl
@[simp] theorem Thread.setQ_spbase (t : Thread) (n : QReg) (x : Region) : (t.setQ n x).spbase = t.spbase := rfl
@[simp] theorem Thread.setQ_spsize (t : Thread) (n : QReg) (x : Region) : (t.setQ n x).spsize = t.spsize := rfl
@[simp] theorem Thread.setQ_spilltop (t : Thread) (n : QReg) (x : Region) : (t.setQ n x).spilltop = t.spilltop := rfl
@[simp] theorem Thread.setQ_spillovf (t : Thread) (n : QReg) (x : Region) : (t.setQ n x).spillovf = t.spillovf := rfl
@[simp] theorem Thread.setQ_lvl (t : Thread) (n : QReg) (x : Region) : (t.setQ n x).lvl = t.lvl := rfl
@[simp] theorem Thread.setQ_taskid (t : Thread) (n : QReg) (x : Region) : (t.setQ n x).taskid = t.taskid := rfl
@[simp] theorem Thread.setQ_scopeid (t : Thread) (n : QReg) (x : Region) : (t.setQ n x).scopeid = t.scopeid := rfl
@[simp] theorem Thread.setQ_ecount (t : Thread) (n : QReg) (x : Region) : (t.setQ n x).ecount = t.ecount := rfl
@[simp] theorem Thread.setQ_loops (t : Thread) (n : QReg) (x : Region) : (t.setQ n x).loops = t.loops := rfl
@[simp] theorem Thread.setQ_binds (t : Thread) (n : QReg) (x : Region) : (t.setQ n x).binds = t.binds := rfl
@[simp] theorem Thread.setQ_segBase (t : Thread) (n : QReg) (x : Region) : (t.setQ n x).segBase = t.segBase := rfl
@[simp] theorem Thread.setQ_segCount (t : Thread) (n : QReg) (x : Region) : (t.setQ n x).segCount = t.segCount := rfl
@[simp] theorem Thread.setQ_event (t : Thread) (n : QReg) (x : Region) : (t.setQ n x).event = t.event := rfl
@[simp] theorem Thread.setQ_onc (t : Thread) (n : QReg) (x : Region) : (t.setQ n x).onc = t.onc := rfl
@[simp] theorem Thread.setQ_inHandler (t : Thread) (n : QReg) (x : Region) : (t.setQ n x).inHandler = t.inHandler := rfl
@[simp] theorem Thread.setQ_observed (t : Thread) (n : QReg) (x : Region) : (t.setQ n x).observed = t.observed := rfl
@[simp] theorem Thread.setQ_marked (t : Thread) (n : QReg) (x : Region) : (t.setQ n x).marked = t.marked := rfl
@[simp] theorem Thread.setQ_names (t : Thread) (n : QReg) (x : Region) : (t.setQ n x).names = t.names := rfl
@[simp] theorem Thread.setQ_cntRemote (t : Thread) (n : QReg) (x : Region) : (t.setQ n x).cntRemote = t.cntRemote := rfl
@[simp] theorem Thread.setQ_cntGlobal (t : Thread) (n : QReg) (x : Region) : (t.setQ n x).cntGlobal = t.cntGlobal := rfl
@[simp] theorem Thread.setQ_cntDevice (t : Thread) (n : QReg) (x : Region) : (t.setQ n x).cntDevice = t.cntDevice := rfl
@[simp] theorem Thread.setQ_rerr (t : Thread) (n : QReg) (x : Region) : (t.setQ n x).rerr = t.rerr := rfl
@[simp] theorem Thread.setQ_refused (t : Thread) (n : QReg) (x : Region) : (t.setQ n x).refused = t.refused := rfl
@[simp] theorem Thread.setQ_derr (t : Thread) (n : QReg) (x : Region) : (t.setQ n x).derr = t.derr := rfl
@[simp] theorem Thread.setQ_queue (t : Thread) (n : QReg) (x : Region) : (t.setQ n x).queue = t.queue := rfl
@[simp] theorem Thread.setQ_beyond (t : Thread) (n : QReg) (x : Region) : (t.setQ n x).beyond = t.beyond := rfl
@[simp] theorem Thread.setQ_places (t : Thread) (n : QReg) (x : Region) : (t.setQ n x).places = t.places := rfl
@[simp] theorem Thread.setQ_ownPages (t : Thread) (n : QReg) (x : Region) : (t.setQ n x).ownPages = t.ownPages := rfl
@[simp] theorem Thread.setQ_lost (t : Thread) (n : QReg) (x : Region) : (t.setQ n x).lost = t.lost := rfl
@[simp] theorem Thread.setQ_resv (t : Thread) (n : QReg) (x : Region) : (t.setQ n x).resv = t.resv := rfl
@[simp] theorem Thread.setQ_killCount (t : Thread) (n : QReg) (x : Region) : (t.setQ n x).killCount = t.killCount := rfl
@[simp] theorem Thread.setQ_handlerCount (t : Thread) (n : QReg) (x : Region) : (t.setQ n x).handlerCount = t.handlerCount := rfl
@[simp] theorem Thread.setQ_covered (t : Thread) (n : QReg) (x : Region) : (t.setQ n x).covered = t.covered := rfl
@[simp] theorem Thread.setQ_intrs (t : Thread) (n : QReg) (x : Region) : (t.setQ n x).intrs = t.intrs := rfl
@[simp] theorem Thread.setQ_waiting (t : Thread) (n : QReg) (x : Region) : (t.setQ n x).waiting = t.waiting := rfl
@[simp] theorem Thread.setQ_trapped (t : Thread) (n : QReg) (x : Region) : (t.setQ n x).trapped = t.trapped := rfl
@[simp] theorem Thread.setQ_micro (t : Thread) (n : QReg) (x : Region) : (t.setQ n x).micro = t.micro := rfl
@[simp] theorem Thread.setQ_awaits (t : Thread) (n : QReg) (x : Region) : (t.setQ n x).awaits = t.awaits := rfl
@[simp] theorem Thread.setQ_level (t : Thread) (n : QReg) (x : Region) : (t.setQ n x).level = t.level := rfl
@[simp] theorem Thread.setQ_run (t : Thread) (n : QReg) (x : Region) : (t.setQ n x).run = t.run := rfl
@[simp] theorem Thread.setQ_phrase (t : Thread) (n : QReg) (x : Region) : (t.setQ n x).phrase = t.phrase := rfl
@[simp] theorem Thread.setQ_rank (t : Thread) (n : QReg) (x : Region) : (t.setQ n x).rank = t.rank := rfl
@[simp] theorem Thread.setQ_dealt (t : Thread) (n : QReg) (x : Region) : (t.setQ n x).dealt = t.dealt := rfl
@[simp] theorem Thread.setQ_exch (t : Thread) (n : QReg) (x : Region) : (t.setQ n x).exch = t.exch := rfl
@[simp] theorem Thread.setQ_replies (t : Thread) (n : QReg) (x : Region) : (t.setQ n x).replies = t.replies := rfl
@[simp] theorem Thread.setQ_acted (t : Thread) (n : QReg) (x : Region) : (t.setQ n x).acted = t.acted := rfl
@[simp] theorem Thread.setQ_kept (t : Thread) (n : QReg) (x : Region) : (t.setQ n x).kept = t.kept := rfl
@[simp] theorem Thread.setQ_icache (t : Thread) (n : QReg) (x : Region) : (t.setQ n x).icache = t.icache := rfl
@[simp] theorem Thread.setQ_acquired (t : Thread) (n : QReg) (x : Region) : (t.setQ n x).acquired = t.acquired := rfl
@[simp] theorem Thread.setQ_csa (t : Thread) (n : QReg) (x : Region) : (t.setQ n x).csa = t.csa := rfl
@[simp] theorem Thread.setQ_pimage (t : Thread) (n : QReg) (x : Region) : (t.setQ n x).pimage = t.pimage := rfl
@[simp] theorem Thread.setQ_evicted (t : Thread) (n : QReg) (x : Region) : (t.setQ n x).evicted = t.evicted := rfl
@[simp] theorem Thread.setQ_yields (t : Thread) (n : QReg) (x : Region) : (t.setQ n x).yields = t.yields := rfl

/-! ### Thread.setZ -/

@[simp] theorem Thread.setZ_live (t : Thread) (n : ZReg) (x : TileReg) : (t.setZ n x).live = t.live := rfl
@[simp] theorem Thread.setZ_num (t : Thread) (n : ZReg) (x : TileReg) : (t.setZ n x).num = t.num := rfl
@[simp] theorem Thread.setZ_asid (t : Thread) (n : ZReg) (x : TileReg) : (t.setZ n x).asid = t.asid := rfl
@[simp] theorem Thread.setZ_d (t : Thread) (n : ZReg) (x : TileReg) : (t.setZ n x).d = t.d := rfl
@[simp] theorem Thread.setZ_v (t : Thread) (n : ZReg) (x : TileReg) : (t.setZ n x).v = t.v := rfl
@[simp] theorem Thread.setZ_p (t : Thread) (n : ZReg) (x : TileReg) : (t.setZ n x).p = t.p := rfl
@[simp] theorem Thread.setZ_q (t : Thread) (n : ZReg) (x : TileReg) : (t.setZ n x).q = t.q := rfl
@[simp] theorem Thread.setZ_tensors (t : Thread) (n : ZReg) (x : TileReg) : (t.setZ n x).tensors = t.tensors := rfl
@[simp] theorem Thread.setZ_pc (t : Thread) (n : ZReg) (x : TileReg) : (t.setZ n x).pc = t.pc := rfl
@[simp] theorem Thread.setZ_status (t : Thread) (n : ZReg) (x : TileReg) : (t.setZ n x).status = t.status := rfl
@[simp] theorem Thread.setZ_cause (t : Thread) (n : ZReg) (x : TileReg) : (t.setZ n x).cause = t.cause := rfl
@[simp] theorem Thread.setZ_epc (t : Thread) (n : ZReg) (x : TileReg) : (t.setZ n x).epc = t.epc := rfl
@[simp] theorem Thread.setZ_eaddr (t : Thread) (n : ZReg) (x : TileReg) : (t.setZ n x).eaddr = t.eaddr := rfl
@[simp] theorem Thread.setZ_tvec (t : Thread) (n : ZReg) (x : TileReg) : (t.setZ n x).tvec = t.tvec := rfl
@[simp] theorem Thread.setZ_fmode (t : Thread) (n : ZReg) (x : TileReg) : (t.setZ n x).fmode = t.fmode := rfl
@[simp] theorem Thread.setZ_spbase (t : Thread) (n : ZReg) (x : TileReg) : (t.setZ n x).spbase = t.spbase := rfl
@[simp] theorem Thread.setZ_spsize (t : Thread) (n : ZReg) (x : TileReg) : (t.setZ n x).spsize = t.spsize := rfl
@[simp] theorem Thread.setZ_spilltop (t : Thread) (n : ZReg) (x : TileReg) : (t.setZ n x).spilltop = t.spilltop := rfl
@[simp] theorem Thread.setZ_spillovf (t : Thread) (n : ZReg) (x : TileReg) : (t.setZ n x).spillovf = t.spillovf := rfl
@[simp] theorem Thread.setZ_lvl (t : Thread) (n : ZReg) (x : TileReg) : (t.setZ n x).lvl = t.lvl := rfl
@[simp] theorem Thread.setZ_taskid (t : Thread) (n : ZReg) (x : TileReg) : (t.setZ n x).taskid = t.taskid := rfl
@[simp] theorem Thread.setZ_scopeid (t : Thread) (n : ZReg) (x : TileReg) : (t.setZ n x).scopeid = t.scopeid := rfl
@[simp] theorem Thread.setZ_ecount (t : Thread) (n : ZReg) (x : TileReg) : (t.setZ n x).ecount = t.ecount := rfl
@[simp] theorem Thread.setZ_loops (t : Thread) (n : ZReg) (x : TileReg) : (t.setZ n x).loops = t.loops := rfl
@[simp] theorem Thread.setZ_binds (t : Thread) (n : ZReg) (x : TileReg) : (t.setZ n x).binds = t.binds := rfl
@[simp] theorem Thread.setZ_segBase (t : Thread) (n : ZReg) (x : TileReg) : (t.setZ n x).segBase = t.segBase := rfl
@[simp] theorem Thread.setZ_segCount (t : Thread) (n : ZReg) (x : TileReg) : (t.setZ n x).segCount = t.segCount := rfl
@[simp] theorem Thread.setZ_event (t : Thread) (n : ZReg) (x : TileReg) : (t.setZ n x).event = t.event := rfl
@[simp] theorem Thread.setZ_onc (t : Thread) (n : ZReg) (x : TileReg) : (t.setZ n x).onc = t.onc := rfl
@[simp] theorem Thread.setZ_inHandler (t : Thread) (n : ZReg) (x : TileReg) : (t.setZ n x).inHandler = t.inHandler := rfl
@[simp] theorem Thread.setZ_observed (t : Thread) (n : ZReg) (x : TileReg) : (t.setZ n x).observed = t.observed := rfl
@[simp] theorem Thread.setZ_marked (t : Thread) (n : ZReg) (x : TileReg) : (t.setZ n x).marked = t.marked := rfl
@[simp] theorem Thread.setZ_names (t : Thread) (n : ZReg) (x : TileReg) : (t.setZ n x).names = t.names := rfl
@[simp] theorem Thread.setZ_cntRemote (t : Thread) (n : ZReg) (x : TileReg) : (t.setZ n x).cntRemote = t.cntRemote := rfl
@[simp] theorem Thread.setZ_cntGlobal (t : Thread) (n : ZReg) (x : TileReg) : (t.setZ n x).cntGlobal = t.cntGlobal := rfl
@[simp] theorem Thread.setZ_cntDevice (t : Thread) (n : ZReg) (x : TileReg) : (t.setZ n x).cntDevice = t.cntDevice := rfl
@[simp] theorem Thread.setZ_rerr (t : Thread) (n : ZReg) (x : TileReg) : (t.setZ n x).rerr = t.rerr := rfl
@[simp] theorem Thread.setZ_refused (t : Thread) (n : ZReg) (x : TileReg) : (t.setZ n x).refused = t.refused := rfl
@[simp] theorem Thread.setZ_derr (t : Thread) (n : ZReg) (x : TileReg) : (t.setZ n x).derr = t.derr := rfl
@[simp] theorem Thread.setZ_queue (t : Thread) (n : ZReg) (x : TileReg) : (t.setZ n x).queue = t.queue := rfl
@[simp] theorem Thread.setZ_beyond (t : Thread) (n : ZReg) (x : TileReg) : (t.setZ n x).beyond = t.beyond := rfl
@[simp] theorem Thread.setZ_places (t : Thread) (n : ZReg) (x : TileReg) : (t.setZ n x).places = t.places := rfl
@[simp] theorem Thread.setZ_ownPages (t : Thread) (n : ZReg) (x : TileReg) : (t.setZ n x).ownPages = t.ownPages := rfl
@[simp] theorem Thread.setZ_lost (t : Thread) (n : ZReg) (x : TileReg) : (t.setZ n x).lost = t.lost := rfl
@[simp] theorem Thread.setZ_resv (t : Thread) (n : ZReg) (x : TileReg) : (t.setZ n x).resv = t.resv := rfl
@[simp] theorem Thread.setZ_killCount (t : Thread) (n : ZReg) (x : TileReg) : (t.setZ n x).killCount = t.killCount := rfl
@[simp] theorem Thread.setZ_handlerCount (t : Thread) (n : ZReg) (x : TileReg) : (t.setZ n x).handlerCount = t.handlerCount := rfl
@[simp] theorem Thread.setZ_covered (t : Thread) (n : ZReg) (x : TileReg) : (t.setZ n x).covered = t.covered := rfl
@[simp] theorem Thread.setZ_intrs (t : Thread) (n : ZReg) (x : TileReg) : (t.setZ n x).intrs = t.intrs := rfl
@[simp] theorem Thread.setZ_waiting (t : Thread) (n : ZReg) (x : TileReg) : (t.setZ n x).waiting = t.waiting := rfl
@[simp] theorem Thread.setZ_trapped (t : Thread) (n : ZReg) (x : TileReg) : (t.setZ n x).trapped = t.trapped := rfl
@[simp] theorem Thread.setZ_micro (t : Thread) (n : ZReg) (x : TileReg) : (t.setZ n x).micro = t.micro := rfl
@[simp] theorem Thread.setZ_awaits (t : Thread) (n : ZReg) (x : TileReg) : (t.setZ n x).awaits = t.awaits := rfl
@[simp] theorem Thread.setZ_level (t : Thread) (n : ZReg) (x : TileReg) : (t.setZ n x).level = t.level := rfl
@[simp] theorem Thread.setZ_run (t : Thread) (n : ZReg) (x : TileReg) : (t.setZ n x).run = t.run := rfl
@[simp] theorem Thread.setZ_phrase (t : Thread) (n : ZReg) (x : TileReg) : (t.setZ n x).phrase = t.phrase := rfl
@[simp] theorem Thread.setZ_rank (t : Thread) (n : ZReg) (x : TileReg) : (t.setZ n x).rank = t.rank := rfl
@[simp] theorem Thread.setZ_dealt (t : Thread) (n : ZReg) (x : TileReg) : (t.setZ n x).dealt = t.dealt := rfl
@[simp] theorem Thread.setZ_exch (t : Thread) (n : ZReg) (x : TileReg) : (t.setZ n x).exch = t.exch := rfl
@[simp] theorem Thread.setZ_replies (t : Thread) (n : ZReg) (x : TileReg) : (t.setZ n x).replies = t.replies := rfl
@[simp] theorem Thread.setZ_acted (t : Thread) (n : ZReg) (x : TileReg) : (t.setZ n x).acted = t.acted := rfl
@[simp] theorem Thread.setZ_kept (t : Thread) (n : ZReg) (x : TileReg) : (t.setZ n x).kept = t.kept := rfl
@[simp] theorem Thread.setZ_icache (t : Thread) (n : ZReg) (x : TileReg) : (t.setZ n x).icache = t.icache := rfl
@[simp] theorem Thread.setZ_acquired (t : Thread) (n : ZReg) (x : TileReg) : (t.setZ n x).acquired = t.acquired := rfl
@[simp] theorem Thread.setZ_csa (t : Thread) (n : ZReg) (x : TileReg) : (t.setZ n x).csa = t.csa := rfl
@[simp] theorem Thread.setZ_pimage (t : Thread) (n : ZReg) (x : TileReg) : (t.setZ n x).pimage = t.pimage := rfl
@[simp] theorem Thread.setZ_evicted (t : Thread) (n : ZReg) (x : TileReg) : (t.setZ n x).evicted = t.evicted := rfl
@[simp] theorem Thread.setZ_yields (t : Thread) (n : ZReg) (x : TileReg) : (t.setZ n x).yields = t.yields := rfl

/-! ### Thread.setM -/

@[simp] theorem Thread.setM_live (t : Thread) (n : MReg) (x : NameEnt) : (t.setM n x).live = t.live := rfl
@[simp] theorem Thread.setM_num (t : Thread) (n : MReg) (x : NameEnt) : (t.setM n x).num = t.num := rfl
@[simp] theorem Thread.setM_asid (t : Thread) (n : MReg) (x : NameEnt) : (t.setM n x).asid = t.asid := rfl
@[simp] theorem Thread.setM_d (t : Thread) (n : MReg) (x : NameEnt) : (t.setM n x).d = t.d := rfl
@[simp] theorem Thread.setM_v (t : Thread) (n : MReg) (x : NameEnt) : (t.setM n x).v = t.v := rfl
@[simp] theorem Thread.setM_p (t : Thread) (n : MReg) (x : NameEnt) : (t.setM n x).p = t.p := rfl
@[simp] theorem Thread.setM_q (t : Thread) (n : MReg) (x : NameEnt) : (t.setM n x).q = t.q := rfl
@[simp] theorem Thread.setM_z (t : Thread) (n : MReg) (x : NameEnt) : (t.setM n x).z = t.z := rfl
@[simp] theorem Thread.setM_tensors (t : Thread) (n : MReg) (x : NameEnt) : (t.setM n x).tensors = t.tensors := rfl
@[simp] theorem Thread.setM_pc (t : Thread) (n : MReg) (x : NameEnt) : (t.setM n x).pc = t.pc := rfl
@[simp] theorem Thread.setM_status (t : Thread) (n : MReg) (x : NameEnt) : (t.setM n x).status = t.status := rfl
@[simp] theorem Thread.setM_cause (t : Thread) (n : MReg) (x : NameEnt) : (t.setM n x).cause = t.cause := rfl
@[simp] theorem Thread.setM_epc (t : Thread) (n : MReg) (x : NameEnt) : (t.setM n x).epc = t.epc := rfl
@[simp] theorem Thread.setM_eaddr (t : Thread) (n : MReg) (x : NameEnt) : (t.setM n x).eaddr = t.eaddr := rfl
@[simp] theorem Thread.setM_tvec (t : Thread) (n : MReg) (x : NameEnt) : (t.setM n x).tvec = t.tvec := rfl
@[simp] theorem Thread.setM_fmode (t : Thread) (n : MReg) (x : NameEnt) : (t.setM n x).fmode = t.fmode := rfl
@[simp] theorem Thread.setM_spbase (t : Thread) (n : MReg) (x : NameEnt) : (t.setM n x).spbase = t.spbase := rfl
@[simp] theorem Thread.setM_spsize (t : Thread) (n : MReg) (x : NameEnt) : (t.setM n x).spsize = t.spsize := rfl
@[simp] theorem Thread.setM_spilltop (t : Thread) (n : MReg) (x : NameEnt) : (t.setM n x).spilltop = t.spilltop := rfl
@[simp] theorem Thread.setM_spillovf (t : Thread) (n : MReg) (x : NameEnt) : (t.setM n x).spillovf = t.spillovf := rfl
@[simp] theorem Thread.setM_lvl (t : Thread) (n : MReg) (x : NameEnt) : (t.setM n x).lvl = t.lvl := rfl
@[simp] theorem Thread.setM_taskid (t : Thread) (n : MReg) (x : NameEnt) : (t.setM n x).taskid = t.taskid := rfl
@[simp] theorem Thread.setM_scopeid (t : Thread) (n : MReg) (x : NameEnt) : (t.setM n x).scopeid = t.scopeid := rfl
@[simp] theorem Thread.setM_ecount (t : Thread) (n : MReg) (x : NameEnt) : (t.setM n x).ecount = t.ecount := rfl
@[simp] theorem Thread.setM_loops (t : Thread) (n : MReg) (x : NameEnt) : (t.setM n x).loops = t.loops := rfl
@[simp] theorem Thread.setM_binds (t : Thread) (n : MReg) (x : NameEnt) : (t.setM n x).binds = t.binds := rfl
@[simp] theorem Thread.setM_segBase (t : Thread) (n : MReg) (x : NameEnt) : (t.setM n x).segBase = t.segBase := rfl
@[simp] theorem Thread.setM_segCount (t : Thread) (n : MReg) (x : NameEnt) : (t.setM n x).segCount = t.segCount := rfl
@[simp] theorem Thread.setM_event (t : Thread) (n : MReg) (x : NameEnt) : (t.setM n x).event = t.event := rfl
@[simp] theorem Thread.setM_onc (t : Thread) (n : MReg) (x : NameEnt) : (t.setM n x).onc = t.onc := rfl
@[simp] theorem Thread.setM_inHandler (t : Thread) (n : MReg) (x : NameEnt) : (t.setM n x).inHandler = t.inHandler := rfl
@[simp] theorem Thread.setM_observed (t : Thread) (n : MReg) (x : NameEnt) : (t.setM n x).observed = t.observed := rfl
@[simp] theorem Thread.setM_marked (t : Thread) (n : MReg) (x : NameEnt) : (t.setM n x).marked = t.marked := rfl
@[simp] theorem Thread.setM_cntRemote (t : Thread) (n : MReg) (x : NameEnt) : (t.setM n x).cntRemote = t.cntRemote := rfl
@[simp] theorem Thread.setM_cntGlobal (t : Thread) (n : MReg) (x : NameEnt) : (t.setM n x).cntGlobal = t.cntGlobal := rfl
@[simp] theorem Thread.setM_cntDevice (t : Thread) (n : MReg) (x : NameEnt) : (t.setM n x).cntDevice = t.cntDevice := rfl
@[simp] theorem Thread.setM_rerr (t : Thread) (n : MReg) (x : NameEnt) : (t.setM n x).rerr = t.rerr := rfl
@[simp] theorem Thread.setM_refused (t : Thread) (n : MReg) (x : NameEnt) : (t.setM n x).refused = t.refused := rfl
@[simp] theorem Thread.setM_derr (t : Thread) (n : MReg) (x : NameEnt) : (t.setM n x).derr = t.derr := rfl
@[simp] theorem Thread.setM_queue (t : Thread) (n : MReg) (x : NameEnt) : (t.setM n x).queue = t.queue := rfl
@[simp] theorem Thread.setM_beyond (t : Thread) (n : MReg) (x : NameEnt) : (t.setM n x).beyond = t.beyond := rfl
@[simp] theorem Thread.setM_places (t : Thread) (n : MReg) (x : NameEnt) : (t.setM n x).places = t.places := rfl
@[simp] theorem Thread.setM_ownPages (t : Thread) (n : MReg) (x : NameEnt) : (t.setM n x).ownPages = t.ownPages := rfl
@[simp] theorem Thread.setM_lost (t : Thread) (n : MReg) (x : NameEnt) : (t.setM n x).lost = t.lost := rfl
@[simp] theorem Thread.setM_resv (t : Thread) (n : MReg) (x : NameEnt) : (t.setM n x).resv = t.resv := rfl
@[simp] theorem Thread.setM_killCount (t : Thread) (n : MReg) (x : NameEnt) : (t.setM n x).killCount = t.killCount := rfl
@[simp] theorem Thread.setM_handlerCount (t : Thread) (n : MReg) (x : NameEnt) : (t.setM n x).handlerCount = t.handlerCount := rfl
@[simp] theorem Thread.setM_covered (t : Thread) (n : MReg) (x : NameEnt) : (t.setM n x).covered = t.covered := rfl
@[simp] theorem Thread.setM_intrs (t : Thread) (n : MReg) (x : NameEnt) : (t.setM n x).intrs = t.intrs := rfl
@[simp] theorem Thread.setM_waiting (t : Thread) (n : MReg) (x : NameEnt) : (t.setM n x).waiting = t.waiting := rfl
@[simp] theorem Thread.setM_trapped (t : Thread) (n : MReg) (x : NameEnt) : (t.setM n x).trapped = t.trapped := rfl
@[simp] theorem Thread.setM_micro (t : Thread) (n : MReg) (x : NameEnt) : (t.setM n x).micro = t.micro := rfl
@[simp] theorem Thread.setM_awaits (t : Thread) (n : MReg) (x : NameEnt) : (t.setM n x).awaits = t.awaits := rfl
@[simp] theorem Thread.setM_level (t : Thread) (n : MReg) (x : NameEnt) : (t.setM n x).level = t.level := rfl
@[simp] theorem Thread.setM_run (t : Thread) (n : MReg) (x : NameEnt) : (t.setM n x).run = t.run := rfl
@[simp] theorem Thread.setM_phrase (t : Thread) (n : MReg) (x : NameEnt) : (t.setM n x).phrase = t.phrase := rfl
@[simp] theorem Thread.setM_rank (t : Thread) (n : MReg) (x : NameEnt) : (t.setM n x).rank = t.rank := rfl
@[simp] theorem Thread.setM_dealt (t : Thread) (n : MReg) (x : NameEnt) : (t.setM n x).dealt = t.dealt := rfl
@[simp] theorem Thread.setM_exch (t : Thread) (n : MReg) (x : NameEnt) : (t.setM n x).exch = t.exch := rfl
@[simp] theorem Thread.setM_replies (t : Thread) (n : MReg) (x : NameEnt) : (t.setM n x).replies = t.replies := rfl
@[simp] theorem Thread.setM_acted (t : Thread) (n : MReg) (x : NameEnt) : (t.setM n x).acted = t.acted := rfl
@[simp] theorem Thread.setM_kept (t : Thread) (n : MReg) (x : NameEnt) : (t.setM n x).kept = t.kept := rfl
@[simp] theorem Thread.setM_icache (t : Thread) (n : MReg) (x : NameEnt) : (t.setM n x).icache = t.icache := rfl
@[simp] theorem Thread.setM_acquired (t : Thread) (n : MReg) (x : NameEnt) : (t.setM n x).acquired = t.acquired := rfl
@[simp] theorem Thread.setM_csa (t : Thread) (n : MReg) (x : NameEnt) : (t.setM n x).csa = t.csa := rfl
@[simp] theorem Thread.setM_pimage (t : Thread) (n : MReg) (x : NameEnt) : (t.setM n x).pimage = t.pimage := rfl
@[simp] theorem Thread.setM_evicted (t : Thread) (n : MReg) (x : NameEnt) : (t.setM n x).evicted = t.evicted := rfl
@[simp] theorem Thread.setM_yields (t : Thread) (n : MReg) (x : NameEnt) : (t.setM n x).yields = t.yields := rfl

/-! ### Thread.raise -/

@[simp] theorem Thread.raise_live (t : Thread) (f : Flags) : (t.raise f).live = t.live := rfl
@[simp] theorem Thread.raise_num (t : Thread) (f : Flags) : (t.raise f).num = t.num := rfl
@[simp] theorem Thread.raise_asid (t : Thread) (f : Flags) : (t.raise f).asid = t.asid := rfl
@[simp] theorem Thread.raise_d (t : Thread) (f : Flags) : (t.raise f).d = t.d := rfl
@[simp] theorem Thread.raise_v (t : Thread) (f : Flags) : (t.raise f).v = t.v := rfl
@[simp] theorem Thread.raise_p (t : Thread) (f : Flags) : (t.raise f).p = t.p := rfl
@[simp] theorem Thread.raise_q (t : Thread) (f : Flags) : (t.raise f).q = t.q := rfl
@[simp] theorem Thread.raise_z (t : Thread) (f : Flags) : (t.raise f).z = t.z := rfl
@[simp] theorem Thread.raise_tensors (t : Thread) (f : Flags) : (t.raise f).tensors = t.tensors := rfl
@[simp] theorem Thread.raise_pc (t : Thread) (f : Flags) : (t.raise f).pc = t.pc := rfl
@[simp] theorem Thread.raise_status (t : Thread) (f : Flags) : (t.raise f).status = t.status := rfl
@[simp] theorem Thread.raise_cause (t : Thread) (f : Flags) : (t.raise f).cause = t.cause := rfl
@[simp] theorem Thread.raise_epc (t : Thread) (f : Flags) : (t.raise f).epc = t.epc := rfl
@[simp] theorem Thread.raise_eaddr (t : Thread) (f : Flags) : (t.raise f).eaddr = t.eaddr := rfl
@[simp] theorem Thread.raise_tvec (t : Thread) (f : Flags) : (t.raise f).tvec = t.tvec := rfl
@[simp] theorem Thread.raise_spbase (t : Thread) (f : Flags) : (t.raise f).spbase = t.spbase := rfl
@[simp] theorem Thread.raise_spsize (t : Thread) (f : Flags) : (t.raise f).spsize = t.spsize := rfl
@[simp] theorem Thread.raise_spilltop (t : Thread) (f : Flags) : (t.raise f).spilltop = t.spilltop := rfl
@[simp] theorem Thread.raise_spillovf (t : Thread) (f : Flags) : (t.raise f).spillovf = t.spillovf := rfl
@[simp] theorem Thread.raise_lvl (t : Thread) (f : Flags) : (t.raise f).lvl = t.lvl := rfl
@[simp] theorem Thread.raise_taskid (t : Thread) (f : Flags) : (t.raise f).taskid = t.taskid := rfl
@[simp] theorem Thread.raise_scopeid (t : Thread) (f : Flags) : (t.raise f).scopeid = t.scopeid := rfl
@[simp] theorem Thread.raise_ecount (t : Thread) (f : Flags) : (t.raise f).ecount = t.ecount := rfl
@[simp] theorem Thread.raise_loops (t : Thread) (f : Flags) : (t.raise f).loops = t.loops := rfl
@[simp] theorem Thread.raise_binds (t : Thread) (f : Flags) : (t.raise f).binds = t.binds := rfl
@[simp] theorem Thread.raise_segBase (t : Thread) (f : Flags) : (t.raise f).segBase = t.segBase := rfl
@[simp] theorem Thread.raise_segCount (t : Thread) (f : Flags) : (t.raise f).segCount = t.segCount := rfl
@[simp] theorem Thread.raise_event (t : Thread) (f : Flags) : (t.raise f).event = t.event := rfl
@[simp] theorem Thread.raise_onc (t : Thread) (f : Flags) : (t.raise f).onc = t.onc := rfl
@[simp] theorem Thread.raise_inHandler (t : Thread) (f : Flags) : (t.raise f).inHandler = t.inHandler := rfl
@[simp] theorem Thread.raise_observed (t : Thread) (f : Flags) : (t.raise f).observed = t.observed := rfl
@[simp] theorem Thread.raise_marked (t : Thread) (f : Flags) : (t.raise f).marked = t.marked := rfl
@[simp] theorem Thread.raise_names (t : Thread) (f : Flags) : (t.raise f).names = t.names := rfl
@[simp] theorem Thread.raise_cntRemote (t : Thread) (f : Flags) : (t.raise f).cntRemote = t.cntRemote := rfl
@[simp] theorem Thread.raise_cntGlobal (t : Thread) (f : Flags) : (t.raise f).cntGlobal = t.cntGlobal := rfl
@[simp] theorem Thread.raise_cntDevice (t : Thread) (f : Flags) : (t.raise f).cntDevice = t.cntDevice := rfl
@[simp] theorem Thread.raise_rerr (t : Thread) (f : Flags) : (t.raise f).rerr = t.rerr := rfl
@[simp] theorem Thread.raise_refused (t : Thread) (f : Flags) : (t.raise f).refused = t.refused := rfl
@[simp] theorem Thread.raise_derr (t : Thread) (f : Flags) : (t.raise f).derr = t.derr := rfl
@[simp] theorem Thread.raise_queue (t : Thread) (f : Flags) : (t.raise f).queue = t.queue := rfl
@[simp] theorem Thread.raise_beyond (t : Thread) (f : Flags) : (t.raise f).beyond = t.beyond := rfl
@[simp] theorem Thread.raise_places (t : Thread) (f : Flags) : (t.raise f).places = t.places := rfl
@[simp] theorem Thread.raise_ownPages (t : Thread) (f : Flags) : (t.raise f).ownPages = t.ownPages := rfl
@[simp] theorem Thread.raise_lost (t : Thread) (f : Flags) : (t.raise f).lost = t.lost := rfl
@[simp] theorem Thread.raise_resv (t : Thread) (f : Flags) : (t.raise f).resv = t.resv := rfl
@[simp] theorem Thread.raise_killCount (t : Thread) (f : Flags) : (t.raise f).killCount = t.killCount := rfl
@[simp] theorem Thread.raise_handlerCount (t : Thread) (f : Flags) : (t.raise f).handlerCount = t.handlerCount := rfl
@[simp] theorem Thread.raise_covered (t : Thread) (f : Flags) : (t.raise f).covered = t.covered := rfl
@[simp] theorem Thread.raise_intrs (t : Thread) (f : Flags) : (t.raise f).intrs = t.intrs := rfl
@[simp] theorem Thread.raise_waiting (t : Thread) (f : Flags) : (t.raise f).waiting = t.waiting := rfl
@[simp] theorem Thread.raise_trapped (t : Thread) (f : Flags) : (t.raise f).trapped = t.trapped := rfl
@[simp] theorem Thread.raise_micro (t : Thread) (f : Flags) : (t.raise f).micro = t.micro := rfl
@[simp] theorem Thread.raise_awaits (t : Thread) (f : Flags) : (t.raise f).awaits = t.awaits := rfl
@[simp] theorem Thread.raise_level (t : Thread) (f : Flags) : (t.raise f).level = t.level := rfl
@[simp] theorem Thread.raise_run (t : Thread) (f : Flags) : (t.raise f).run = t.run := rfl
@[simp] theorem Thread.raise_phrase (t : Thread) (f : Flags) : (t.raise f).phrase = t.phrase := rfl
@[simp] theorem Thread.raise_rank (t : Thread) (f : Flags) : (t.raise f).rank = t.rank := rfl
@[simp] theorem Thread.raise_dealt (t : Thread) (f : Flags) : (t.raise f).dealt = t.dealt := rfl
@[simp] theorem Thread.raise_exch (t : Thread) (f : Flags) : (t.raise f).exch = t.exch := rfl
@[simp] theorem Thread.raise_replies (t : Thread) (f : Flags) : (t.raise f).replies = t.replies := rfl
@[simp] theorem Thread.raise_acted (t : Thread) (f : Flags) : (t.raise f).acted = t.acted := rfl
@[simp] theorem Thread.raise_kept (t : Thread) (f : Flags) : (t.raise f).kept = t.kept := rfl
@[simp] theorem Thread.raise_icache (t : Thread) (f : Flags) : (t.raise f).icache = t.icache := rfl
@[simp] theorem Thread.raise_acquired (t : Thread) (f : Flags) : (t.raise f).acquired = t.acquired := rfl
@[simp] theorem Thread.raise_csa (t : Thread) (f : Flags) : (t.raise f).csa = t.csa := rfl
@[simp] theorem Thread.raise_pimage (t : Thread) (f : Flags) : (t.raise f).pimage = t.pimage := rfl
@[simp] theorem Thread.raise_evicted (t : Thread) (f : Flags) : (t.raise f).evicted = t.evicted := rfl
@[simp] theorem Thread.raise_yields (t : Thread) (f : Flags) : (t.raise f).yields = t.yields := rfl

/-! ### Thread.setD -/

@[simp] theorem Thread.setD_live (t : Thread) (n : DReg) (v : Word) : (t.setD n v).live = t.live := by
  unfold Thread.setD; split <;> rfl
@[simp] theorem Thread.setD_num (t : Thread) (n : DReg) (v : Word) : (t.setD n v).num = t.num := by
  unfold Thread.setD; split <;> rfl
@[simp] theorem Thread.setD_asid (t : Thread) (n : DReg) (v : Word) : (t.setD n v).asid = t.asid := by
  unfold Thread.setD; split <;> rfl
@[simp] theorem Thread.setD_v (t : Thread) (n : DReg) (v : Word) : (t.setD n v).v = t.v := by
  unfold Thread.setD; split <;> rfl
@[simp] theorem Thread.setD_p (t : Thread) (n : DReg) (v : Word) : (t.setD n v).p = t.p := by
  unfold Thread.setD; split <;> rfl
@[simp] theorem Thread.setD_q (t : Thread) (n : DReg) (v : Word) : (t.setD n v).q = t.q := by
  unfold Thread.setD; split <;> rfl
@[simp] theorem Thread.setD_z (t : Thread) (n : DReg) (v : Word) : (t.setD n v).z = t.z := by
  unfold Thread.setD; split <;> rfl
@[simp] theorem Thread.setD_tensors (t : Thread) (n : DReg) (v : Word) : (t.setD n v).tensors = t.tensors := by
  unfold Thread.setD; split <;> rfl
@[simp] theorem Thread.setD_pc (t : Thread) (n : DReg) (v : Word) : (t.setD n v).pc = t.pc := by
  unfold Thread.setD; split <;> rfl
@[simp] theorem Thread.setD_status (t : Thread) (n : DReg) (v : Word) : (t.setD n v).status = t.status := by
  unfold Thread.setD; split <;> rfl
@[simp] theorem Thread.setD_cause (t : Thread) (n : DReg) (v : Word) : (t.setD n v).cause = t.cause := by
  unfold Thread.setD; split <;> rfl
@[simp] theorem Thread.setD_epc (t : Thread) (n : DReg) (v : Word) : (t.setD n v).epc = t.epc := by
  unfold Thread.setD; split <;> rfl
@[simp] theorem Thread.setD_eaddr (t : Thread) (n : DReg) (v : Word) : (t.setD n v).eaddr = t.eaddr := by
  unfold Thread.setD; split <;> rfl
@[simp] theorem Thread.setD_tvec (t : Thread) (n : DReg) (v : Word) : (t.setD n v).tvec = t.tvec := by
  unfold Thread.setD; split <;> rfl
@[simp] theorem Thread.setD_fmode (t : Thread) (n : DReg) (v : Word) : (t.setD n v).fmode = t.fmode := by
  unfold Thread.setD; split <;> rfl
@[simp] theorem Thread.setD_spbase (t : Thread) (n : DReg) (v : Word) : (t.setD n v).spbase = t.spbase := by
  unfold Thread.setD; split <;> rfl
@[simp] theorem Thread.setD_spsize (t : Thread) (n : DReg) (v : Word) : (t.setD n v).spsize = t.spsize := by
  unfold Thread.setD; split <;> rfl
@[simp] theorem Thread.setD_spilltop (t : Thread) (n : DReg) (v : Word) : (t.setD n v).spilltop = t.spilltop := by
  unfold Thread.setD; split <;> rfl
@[simp] theorem Thread.setD_spillovf (t : Thread) (n : DReg) (v : Word) : (t.setD n v).spillovf = t.spillovf := by
  unfold Thread.setD; split <;> rfl
@[simp] theorem Thread.setD_lvl (t : Thread) (n : DReg) (v : Word) : (t.setD n v).lvl = t.lvl := by
  unfold Thread.setD; split <;> rfl
@[simp] theorem Thread.setD_taskid (t : Thread) (n : DReg) (v : Word) : (t.setD n v).taskid = t.taskid := by
  unfold Thread.setD; split <;> rfl
@[simp] theorem Thread.setD_scopeid (t : Thread) (n : DReg) (v : Word) : (t.setD n v).scopeid = t.scopeid := by
  unfold Thread.setD; split <;> rfl
@[simp] theorem Thread.setD_ecount (t : Thread) (n : DReg) (v : Word) : (t.setD n v).ecount = t.ecount := by
  unfold Thread.setD; split <;> rfl
@[simp] theorem Thread.setD_loops (t : Thread) (n : DReg) (v : Word) : (t.setD n v).loops = t.loops := by
  unfold Thread.setD; split <;> rfl
@[simp] theorem Thread.setD_binds (t : Thread) (n : DReg) (v : Word) : (t.setD n v).binds = t.binds := by
  unfold Thread.setD; split <;> rfl
@[simp] theorem Thread.setD_segBase (t : Thread) (n : DReg) (v : Word) : (t.setD n v).segBase = t.segBase := by
  unfold Thread.setD; split <;> rfl
@[simp] theorem Thread.setD_segCount (t : Thread) (n : DReg) (v : Word) : (t.setD n v).segCount = t.segCount := by
  unfold Thread.setD; split <;> rfl
@[simp] theorem Thread.setD_event (t : Thread) (n : DReg) (v : Word) : (t.setD n v).event = t.event := by
  unfold Thread.setD; split <;> rfl
@[simp] theorem Thread.setD_onc (t : Thread) (n : DReg) (v : Word) : (t.setD n v).onc = t.onc := by
  unfold Thread.setD; split <;> rfl
@[simp] theorem Thread.setD_inHandler (t : Thread) (n : DReg) (v : Word) : (t.setD n v).inHandler = t.inHandler := by
  unfold Thread.setD; split <;> rfl
@[simp] theorem Thread.setD_observed (t : Thread) (n : DReg) (v : Word) : (t.setD n v).observed = t.observed := by
  unfold Thread.setD; split <;> rfl
@[simp] theorem Thread.setD_marked (t : Thread) (n : DReg) (v : Word) : (t.setD n v).marked = t.marked := by
  unfold Thread.setD; split <;> rfl
@[simp] theorem Thread.setD_names (t : Thread) (n : DReg) (v : Word) : (t.setD n v).names = t.names := by
  unfold Thread.setD; split <;> rfl
@[simp] theorem Thread.setD_cntRemote (t : Thread) (n : DReg) (v : Word) : (t.setD n v).cntRemote = t.cntRemote := by
  unfold Thread.setD; split <;> rfl
@[simp] theorem Thread.setD_cntGlobal (t : Thread) (n : DReg) (v : Word) : (t.setD n v).cntGlobal = t.cntGlobal := by
  unfold Thread.setD; split <;> rfl
@[simp] theorem Thread.setD_cntDevice (t : Thread) (n : DReg) (v : Word) : (t.setD n v).cntDevice = t.cntDevice := by
  unfold Thread.setD; split <;> rfl
@[simp] theorem Thread.setD_rerr (t : Thread) (n : DReg) (v : Word) : (t.setD n v).rerr = t.rerr := by
  unfold Thread.setD; split <;> rfl
@[simp] theorem Thread.setD_refused (t : Thread) (n : DReg) (v : Word) : (t.setD n v).refused = t.refused := by
  unfold Thread.setD; split <;> rfl
@[simp] theorem Thread.setD_derr (t : Thread) (n : DReg) (v : Word) : (t.setD n v).derr = t.derr := by
  unfold Thread.setD; split <;> rfl
@[simp] theorem Thread.setD_queue (t : Thread) (n : DReg) (v : Word) : (t.setD n v).queue = t.queue := by
  unfold Thread.setD; split <;> rfl
@[simp] theorem Thread.setD_beyond (t : Thread) (n : DReg) (v : Word) : (t.setD n v).beyond = t.beyond := by
  unfold Thread.setD; split <;> rfl
@[simp] theorem Thread.setD_places (t : Thread) (n : DReg) (v : Word) : (t.setD n v).places = t.places := by
  unfold Thread.setD; split <;> rfl
@[simp] theorem Thread.setD_ownPages (t : Thread) (n : DReg) (v : Word) : (t.setD n v).ownPages = t.ownPages := by
  unfold Thread.setD; split <;> rfl
@[simp] theorem Thread.setD_lost (t : Thread) (n : DReg) (v : Word) : (t.setD n v).lost = t.lost := by
  unfold Thread.setD; split <;> rfl
@[simp] theorem Thread.setD_resv (t : Thread) (n : DReg) (v : Word) : (t.setD n v).resv = t.resv := by
  unfold Thread.setD; split <;> rfl
@[simp] theorem Thread.setD_killCount (t : Thread) (n : DReg) (v : Word) : (t.setD n v).killCount = t.killCount := by
  unfold Thread.setD; split <;> rfl
@[simp] theorem Thread.setD_handlerCount (t : Thread) (n : DReg) (v : Word) : (t.setD n v).handlerCount = t.handlerCount := by
  unfold Thread.setD; split <;> rfl
@[simp] theorem Thread.setD_covered (t : Thread) (n : DReg) (v : Word) : (t.setD n v).covered = t.covered := by
  unfold Thread.setD; split <;> rfl
@[simp] theorem Thread.setD_intrs (t : Thread) (n : DReg) (v : Word) : (t.setD n v).intrs = t.intrs := by
  unfold Thread.setD; split <;> rfl
@[simp] theorem Thread.setD_waiting (t : Thread) (n : DReg) (v : Word) : (t.setD n v).waiting = t.waiting := by
  unfold Thread.setD; split <;> rfl
@[simp] theorem Thread.setD_trapped (t : Thread) (n : DReg) (v : Word) : (t.setD n v).trapped = t.trapped := by
  unfold Thread.setD; split <;> rfl
@[simp] theorem Thread.setD_micro (t : Thread) (n : DReg) (v : Word) : (t.setD n v).micro = t.micro := by
  unfold Thread.setD; split <;> rfl
@[simp] theorem Thread.setD_awaits (t : Thread) (n : DReg) (v : Word) : (t.setD n v).awaits = t.awaits := by
  unfold Thread.setD; split <;> rfl
@[simp] theorem Thread.setD_level (t : Thread) (n : DReg) (v : Word) : (t.setD n v).level = t.level := by
  unfold Thread.setD; split <;> rfl
@[simp] theorem Thread.setD_run (t : Thread) (n : DReg) (v : Word) : (t.setD n v).run = t.run := by
  unfold Thread.setD; split <;> rfl
@[simp] theorem Thread.setD_phrase (t : Thread) (n : DReg) (v : Word) : (t.setD n v).phrase = t.phrase := by
  unfold Thread.setD; split <;> rfl
@[simp] theorem Thread.setD_rank (t : Thread) (n : DReg) (v : Word) : (t.setD n v).rank = t.rank := by
  unfold Thread.setD; split <;> rfl
@[simp] theorem Thread.setD_dealt (t : Thread) (n : DReg) (v : Word) : (t.setD n v).dealt = t.dealt := by
  unfold Thread.setD; split <;> rfl
@[simp] theorem Thread.setD_exch (t : Thread) (n : DReg) (v : Word) : (t.setD n v).exch = t.exch := by
  unfold Thread.setD; split <;> rfl
@[simp] theorem Thread.setD_replies (t : Thread) (n : DReg) (v : Word) : (t.setD n v).replies = t.replies := by
  unfold Thread.setD; split <;> rfl
@[simp] theorem Thread.setD_acted (t : Thread) (n : DReg) (v : Word) : (t.setD n v).acted = t.acted := by
  unfold Thread.setD; split <;> rfl
@[simp] theorem Thread.setD_kept (t : Thread) (n : DReg) (v : Word) : (t.setD n v).kept = t.kept := by
  unfold Thread.setD; split <;> rfl
@[simp] theorem Thread.setD_icache (t : Thread) (n : DReg) (v : Word) : (t.setD n v).icache = t.icache := by
  unfold Thread.setD; split <;> rfl
@[simp] theorem Thread.setD_acquired (t : Thread) (n : DReg) (v : Word) : (t.setD n v).acquired = t.acquired := by
  unfold Thread.setD; split <;> rfl
@[simp] theorem Thread.setD_csa (t : Thread) (n : DReg) (v : Word) : (t.setD n v).csa = t.csa := by
  unfold Thread.setD; split <;> rfl
@[simp] theorem Thread.setD_pimage (t : Thread) (n : DReg) (v : Word) : (t.setD n v).pimage = t.pimage := by
  unfold Thread.setD; split <;> rfl
@[simp] theorem Thread.setD_evicted (t : Thread) (n : DReg) (v : Word) : (t.setD n v).evicted = t.evicted := by
  unfold Thread.setD; split <;> rfl
@[simp] theorem Thread.setD_yields (t : Thread) (n : DReg) (v : Word) : (t.setD n v).yields = t.yields := by
  unfold Thread.setD; split <;> rfl

end Sys2Proof.Machine
end

