-- ==== Sys2Proof/Laws/Ops.lean ====
section
/-! SUPPORT. What the shared operations over contexts, traps, tasks and the scratch array can do, said once (R19, R20, R33, R34, R96,
R99, R203, R370). -/

namespace Sys2Proof.Machine

/-! ### How an instruction ends (R33, R98, R369) -/

/-- Every computation of an instruction's effect ends in a next state. -/
theorem finishRun_next (s : State) (r : Run State) : ∃ t, finishRun s r = .next t := by
  unfold finishRun; split <;> exact ⟨_, rfl⟩

@[simp] theorem finishRun_ok (s t : State) : finishRun s (.ok t) = .next t := rfl
@[simp] theorem finishRun_trap (s : State) (cls sub : Nat) (addr : Word) :
    finishRun s (.error (.trap cls sub addr)) = .next (takeTrap cls sub addr s) := rfl
@[simp] theorem finishRun_wait (s : State) : finishRun s (.error .wait) = .next s.waitHere := rfl
@[simp] theorem finishRun_waitIn (s t : State) : finishRun s (.error (.waitIn t)) = .next t.waitHere := rfl
@[simp] theorem finishRun_endTask (s : State) (st : Nat) : finishRun s (.error (.endTask st)) = .next (endHere st s) := rfl
theorem finishRun_block (s : State) :
    finishRun s (.error .block) = .next (if s.th.inHandler then killHere s else s.waitHere) := rfl

@[simp] theorem require_true (cls sub : Nat) (addr : Word) : require true cls sub addr = .ok () := rfl
@[simp] theorem require_false (cls sub : Nat) (addr : Word) : require false cls sub addr = .error (.trap cls sub addr) := rfl
@[simp] theorem await_true : await true = .ok () := rfl
@[simp] theorem await_false : await false = .error .wait := rfl
@[simp] theorem blockUntil_true : blockUntil true = .ok () := rfl
@[simp] theorem blockUntil_false : blockUntil false = .error .block := rfl

/-- A sequence of computations that answers a state answered one at each place. -/
theorem run_bind_ok {α β : Type} {x : Run α} {f : α → Run β} {b : β} :
    x >>= f = .ok b ↔ ∃ a, x = .ok a ∧ f a = .ok b := by
  cases x with
  | error e => simp [bind, Except.bind]
  | ok a => simp [bind, Except.bind]

/-! ### Trap entry (R33, R34) -/

/-- A trap while one is in progress ends the task. -/
theorem takeTrap_double {s : State} (h : trapInProgress s.th.status = true) (cls sub : Nat) (addr : Word) :
    takeTrap cls sub addr s = endHere statusDoubleTrap s := by
  rw [takeTrap, if_pos h]

/-- What a trap entry does to the thread: the saved PC without its bits 1:0 (R27), cause and address, the status, and
the vector. -/
theorem takeTrap_th {s : State} (h : trapInProgress s.th.status = false) (cls sub : Nat) (addr : Word) :
    let t := (takeTrap cls sub addr s).th
    t.epc = s.th.pc &&& 0xFFFFFFFFFFFFFFFC ∧ t.cause = BitVec.ofNat 64 (256 * cls + sub) ∧ t.eaddr = addr ∧
      t.status = statusAtTrap s.th.status s.th.lvl ∧ t.pc = s.th.tvec + BitVec.ofNat 64 (64 * cls) ∧
      t.d = s.th.d ∧ t.v = s.th.v ∧ t.p = s.th.p ∧ t.q = s.th.q ∧ t.z = s.th.z ∧ t.lvl = s.th.lvl ∧ t.loops = s.th.loops ∧
      t.binds = s.th.binds ∧ t.fmode = s.th.fmode := by
  have hn : ¬ trapInProgress s.th.status = true := by simp [h]
  simp [takeTrap, hn]

/-- A trap entry changes the context in focus alone. -/
theorem takeTrap_frame {s : State} (h : trapInProgress s.th.status = false) (cls sub : Nat) (addr : Word) :
    takeTrap cls sub addr s = { s with th := (takeTrap cls sub addr s).th } := by
  have hn : ¬ trapInProgress s.th.status = true := by simp [h]
  simp [takeTrap, hn]

/-! ### The scalar file (R20) -/

theorem physD_lt {lvl n : Nat} (hl : lvl ≤ 4) (hn : n < 32) : physD lvl n < 64 := by
  unfold physD; split
  · omega
  · split
    · split <;> omega
    · omega

/-- At one level, different names reach different words. -/
theorem physD_inj {lvl m n : Nat} (hm : m < 32) (hn : n < 32) (h : physD lvl m = physD lvl n) : m = n := by
  unfold physD at h
  repeat' split at h
  all_goals omega

/-- At a deeper level no name reaches the level-0 bank. -/
theorem physD_not_bank {lvl n : Nat} (hl : lvl ≠ 0) (hn : n < 32) : physD lvl n < 16 ∨ 24 ≤ physD lvl n := by
  unfold physD; split
  · omega
  · split
    · omega
    · omega

/-! ### Tasks and cards -/

theorem onTask_none {s : State} {id : Nat} {f : Task → Task} (h : lookup id s.tasks = none) : s.onTask id f = s := by
  rw [State.onTask, h]

theorem onTask_some {s : State} {id : Nat} {f : Task → Task} {k : Task} (h : lookup id s.tasks = some k) :
    s.onTask id f = { s with tasks := insert id (f k) s.tasks } := by
  rw [State.onTask, h]

theorem onCard_none {s : State} {id : Nat} {f : Card → Card} (h : lookup id s.cards = none) : s.onCard id f = s := by
  rw [State.onCard, h]

theorem onCard_some {s : State} {id : Nat} {f : Card → Card} {c : Card} (h : lookup id s.cards = some c) :
    s.onCard id f = { s with cards := insert id (f c) s.cards } := by
  rw [State.onCard, h]

theorem lookup_onTask (s : State) (id : Nat) (f : Task → Task) : lookup id (s.onTask id f).tasks = (lookup id s.tasks).map f := by
  cases h : lookup id s.tasks with
  | none => rw [onTask_none h, h]; rfl
  | some k => rw [onTask_some h]; simp

theorem lookup_onCard (s : State) (id : Nat) (f : Card → Card) : lookup id (s.onCard id f).cards = (lookup id s.cards).map f := by
  cases h : lookup id s.cards with
  | none => rw [onCard_none h, h]; rfl
  | some c => rw [onCard_some h]; simp

@[simp] theorem onTask_th (s : State) (id : Nat) (f : Task → Task) : (s.onTask id f).th = s.th := by
  unfold State.onTask; split <;> rfl
@[simp] theorem onTask_others (s : State) (id : Nat) (f : Task → Task) : (s.onTask id f).others = s.others := by
  unfold State.onTask; split <;> rfl
@[simp] theorem onTask_mem (s : State) (id : Nat) (f : Task → Task) : (s.onTask id f).mem = s.mem := by
  unfold State.onTask; split <;> rfl
@[simp] theorem onTask_cards (s : State) (id : Nat) (f : Task → Task) : (s.onTask id f).cards = s.cards := by
  unfold State.onTask; split <;> rfl
@[simp] theorem onCard_th (s : State) (id : Nat) (f : Card → Card) : (s.onCard id f).th = s.th := by
  unfold State.onCard; split <;> rfl
@[simp] theorem onCard_others (s : State) (id : Nat) (f : Card → Card) : (s.onCard id f).others = s.others := by
  unfold State.onCard; split <;> rfl
@[simp] theorem onCard_mem (s : State) (id : Nat) (f : Card → Card) : (s.onCard id f).mem = s.mem := by
  unfold State.onCard; split <;> rfl
@[simp] theorem onCard_tasks (s : State) (id : Nat) (f : Card → Card) : (s.onCard id f).tasks = s.tasks := by
  unfold State.onCard; split <;> rfl

@[simp] theorem onThreads_mem (s : State) (p : Thread → Bool) (f : Thread → Thread) : (s.onThreads p f).mem = s.mem := rfl
@[simp] theorem onThreads_tasks (s : State) (p : Thread → Bool) (f : Thread → Thread) : (s.onThreads p f).tasks = s.tasks := rfl
@[simp] theorem onThreads_eng (s : State) (p : Thread → Bool) (f : Thread → Thread) : (s.onThreads p f).eng = s.eng := rfl
@[simp] theorem onThread_mem (s : State) (n : Nat) (f : Thread → Thread) : (s.onThread n f).mem = s.mem := by
  unfold State.onThread; split <;> rfl
@[simp] theorem onThread_tasks (s : State) (n : Nat) (f : Thread → Thread) : (s.onThread n f).tasks = s.tasks := by
  unfold State.onThread; split <;> rfl

/-- Putting a context in focus moves contexts alone. -/
theorem focus_frame (s : State) (n : Nat) :
    s.focus n = { s with th := (s.focus n).th, others := (s.focus n).others } := by
  unfold State.focus; split
  · rfl
  · split <;> rfl

/-- The end of a task leaves memory and every register as they are. -/
@[simp] theorem endTask_mem (id st : Nat) (s : State) : (endTask id st s).mem = s.mem := by
  unfold endTask; split
  · rfl
  · split
    · rfl
    · rw [onThreads_mem, onTask_mem]

/-! ### The scratch array (R96, R99, R238) -/

theorem scratchPut_frame (key : Nat) (bs : List Byte) (s : State) :
    scratchPut key bs s = { s with mem := { s.mem with
      scratch := (scratchPut key bs s).mem.scratch, poison := (scratchPut key bs s).mem.poison } } := rfl

theorem lookup_foldl_insert (bs : List Byte) (key k a : Nat) (m : List Host.Cell) :
    lookup a ((bs.zip (List.range' k bs.length)).foldl (fun sc x => insert (key + x.2) x.1 sc) m) =
      if key + k ≤ a ∧ a < key + k + bs.length then bs[a - (key + k)]? else lookup a m := by
  induction bs generalizing k m with
  | nil => simp <;> omega
  | cons b bs ih =>
    rw [List.length_cons, List.range'_succ, List.zip_cons_cons, List.foldl_cons, ih]
    by_cases h : a = key + k
    · subst h
      rw [if_neg (by omega), if_pos (by omega)]
      simp
    · rw [lookup_insert_of_ne h]
      by_cases hi : key + k ≤ a ∧ a < key + k + (bs.length + 1)
      · rw [if_pos (by omega), if_pos hi, show a - (key + k) = a - (key + (k + 1)) + 1 by omega, List.getElem?_cons_succ]
      · rw [if_neg (by omega), if_neg hi]

/-- Scratch bytes after a write: those written, and no other byte changes. -/
theorem lookup_scratchPut (key a : Nat) (bs : List Byte) (s : State) :
    lookup a (scratchPut key bs s).mem.scratch =
      if key ≤ a ∧ a < key + bs.length then bs[a - key]? else lookup a s.mem.scratch := by
  simpa [scratchPut, State.onMem, List.range_eq_range'] using lookup_foldl_insert bs key 0 a s.mem.scratch

theorem mem_insertKey (k a : Nat) (xs : List Nat) : a ∈ insertKey k xs ↔ a = k ∨ a ∈ xs := by
  induction xs with
  | nil => simp [insertKey]
  | cons x xs ih =>
    simp only [insertKey]
    split
    · simp
    · split
      · next h => subst h; simp
      · simp only [List.mem_cons, ih]
        constructor
        · rintro (h | h | h) <;> simp [h]
        · rintro (h | h | h) <;> simp [h]

/-- The full bit of a granule is set by a write to it. -/
theorem isFull_setFull (key : Nat) (s : State) : isFull (setFull key s) key = true := by
  simp [isFull, setFull, State.onMem, mem_insertKey]

end Sys2Proof.Machine
end

