-- ==== Sys2Proof/Tests/Slice0.lean ====
section
/-! SUPPORT. Tests: ill-formed terms, words of the opcode map, single steps with results the spec states, and for every
statement states and operands that meet its hypotheses. -/

namespace Sys2Proof.Tests

open Sys2Proof.Machine Sys2Proof.Safety

set_option Elab.async false

/-! ### Well-formedness: a term that each check refuses -/

/-- The types of R63, R66, R67 and R149. -/
theorem test_wf_types :
    ([.vcvtX 1 2 .s8 .f32 none, .vcvtSat 1 2 .f32 .n8 none, .collRedX 6 1 2 .f16, .collArX 6 1 2 .s32, .collBc 6 1 2 .t6,
      .mma 0 false false 1 2 3 4 .s8 0, .mma 0 true false 4 0 3 4 .t6 0, .mmaSp 0 false false 1 2 3 4 .f32 0 0,
      .mmaSp 0 false true 1 2 4 0 .t8 0 0, .mmiSp 0 false true 1 2 4 0 0 0, .amoAdd .none .f32 .tile 1 2 0 3,
      .amoCas .none .s8 .tile 1 2 0 3] : List Instr).all (fun i => i.hasWords && i.limitsOk && i.unusedZero && !i.wf) = true := by
  decide

/-- A register field that a vector operand leaves unnamed is zero (R57, R66). -/
theorem test_wf_unused :
    ([.mma 0 true false 4 1 3 4 .t8 0, .mma 0 false true 4 1 4 1 .t8 0, .mmaSp 0 true false 4 1 3 4 .t8 0 0,
      .mmi 0 true false 4 1 3 4 0, .mmi 0 false true 4 1 4 1 0, .mmiSp 0 true false 4 1 3 4 0 0] : List Instr).all
      (fun i => i.hasWords && i.limitsOk && i.typesOk && !i.wf) = true := by decide

/-- The limits of scalar, stack, vector and scratch operands (R63, R93, R103). -/
theorem test_wf_limits_core :
    ([.loop 1 0, .loopX 1 2, .loopX 1 0x80000000, .push 0, .push 2, .pop 0, .pop 2, .pushX 0, .pushX 1, .pushX 4, .popX 0,
      .pushV 0, .popV 0, .vbind 23 1 2, .vunbind 0] : List Instr).all
      (fun i => i.hasWords && i.typesOk && i.unusedZero && !i.wf) = true := by decide

/-- The limits of engine, region, matrix and global operands (R63, R66, R67). -/
theorem test_wf_limits_engine :
    ([.twIn 4 1 2, .twOut 4 1 2, .twInX 4 1 2 3, .twOutX 4 1 2 3, .twMc 4 1 2 3 1, .twWalk 4 1 2 3, .advC 1 0, .advP 1 0,
      .collRed 5 1 2, .collAr 8 1 2, .collRedX 5 1 2 .f32, .collArX 8 1 2 .f32, .collBc 0 1 2 .f32, .ckpt 11 1 2, .rprot 1 3,
      .mma 0 true false 5 0 3 4 .t8 0, .mma 0 false true 4 1 6 0 .t8 0, .mmaSp 0 true false 5 0 3 4 .t8 0 0,
      .mmi 0 true false 5 0 3 4 0, .mmiSp 0 true false 5 0 3 4 0 0, .zzero 0 4, .zld .none 0 1 4, .zst .none 0 1 4, .mstat 1 4,
      .zzeroX 0 4, .zldX .none 0 1 0 4, .zstX .none 0 1 0 4, .mstatX 1 4, .cvt 3 1 2, .cvtSat 6 1 2,
      .amoAdd .none .s32 .thread 1 2 0 3, .amoMin .none .s64 .system 1 2 0 3] : List Instr).all
      (fun i => i.hasWords && i.typesOk && i.unusedZero && !i.wf) = true := by decide

/-- Events have no words (R51). -/
theorem test_wf_words : ([.intrEntry, .evPowerGood, .evLaunch 1, .factoryTest 0xFC] : List Instr).all (fun i => !i.wf) = true := by
  decide

/-- And these are well formed. -/
theorem test_wf_ok :
    ([.add 0 31 1, .loop 1 1, .loopX 1 3, .push 1, .pushX 0x88, .vbind 24 1 2, .twIn 3 1 2, .advC 1 1, .collAr 6 1 2, .ckpt 15 1 2,
      .rprot 1 2, .mma 0 true true 4 0 8 0 .t8 0, .mmaSp 0 true false 4 0 3 4 .t6 0 3, .amoCas .wrd .n64 .domain 1 2 0 3] : List Instr).all
      Instr.wf = true := by decide

/-! ### Decoding: a word of every row of the opcode map, written from its row, R54, R56 and R58 to R67 -/

theorem test_decode_maj01_1 :
    decodeWords [0x004B8F04] = .instr (.add 15 28 18) ∧
    decodeWords [0x00E7DC04] = .instr (.sub 28 30 25) ∧
    decodeWords [0x0145EF04] = .instr (.mul 15 15 17) ∧
    decodeWords [0x019E7C04] = .instr (.mulh 28 19 7) ∧
    decodeWords [0x02474604] = .instr (.mulhn 6 26 17) ∧
    decodeWords [0x02D2B004] = .instr (.div 16 21 20) ∧
    decodeWords [0x0310DA04] = .instr (.divn 26 6 4) ∧
    decodeWords [0x03954F04] = .instr (.rem 15 10 5) ∧
    decodeWords [0x046A4304] = .instr (.remn 3 18 26) ∧
    decodeWords [0x04D6FD04] = .instr (.min 29 23 21) ∧
    decodeWords [0x05368204] = .instr (.max 2 20 13) ∧
    decodeWords [0x05D5FF04] = .instr (.minn 31 15 21) ∧
    decodeWords [0x06569804] = .instr (.maxn 24 20 21) ∧
    decodeWords [0x20028605, 0x03D71685, 0xD4EA65D0] = .instr (.addLit 6 20 0xd4ea65d003d71685) := by decide +kernel

theorem test_decode_maj01_2 :
    decodeWords [0x20807105, 0x0F3EBDD4, 0x09208A65] = .instr (.subLit 17 3 0x9208a650f3ebdd4) ∧
    decodeWords [0x2103A705, 0x3DEFFA39, 0x99809225] = .instr (.mulLit 7 29 0x998092253deffa39) ∧
    decodeWords [0x21832105, 0x76C468AF, 0x5387F613] = .instr (.mulhLit 1 25 0x5387f61376c468af) ∧
    decodeWords [0x22026F05, 0xD7A94DEE, 0x320094EA] = .instr (.mulhnLit 15 19 0x320094ead7a94dee) ∧
    decodeWords [0x22811105, 0xA3EA284E, 0x4B4D8474] = .instr (.divLit 17 8 0x4b4d8474a3ea284e) ∧
    decodeWords [0x23003005, 0xA9964AF0, 0x15C1D2DF] = .instr (.divnLit 16 1 0x15c1d2dfa9964af0) ∧
    decodeWords [0x2382AF05, 0x4735AF1D, 0x6822A6B2] = .instr (.remLit 15 21 0x6822a6b24735af1d) ∧
    decodeWords [0x2403D205, 0xD7185DDB, 0x154CD2AA] = .instr (.remnLit 18 30 0x154cd2aad7185ddb) ∧
    decodeWords [0x24813705, 0x50B601FD, 0xC20BA2C2] = .instr (.minLit 23 9 0xc20ba2c250b601fd) ∧
    decodeWords [0x25022805, 0x49FE85B1, 0x079DD25A] = .instr (.maxLit 8 17 0x79dd25a49fe85b1) ∧
    decodeWords [0x25826305, 0xC42B7171, 0x1BA1192E] = .instr (.minnLit 3 19 0x1ba1192ec42b7171) ∧
    decodeWords [0x26008D05, 0xD8B9B45D, 0x4A789CB3] = .instr (.maxnLit 13 4 0x4a789cb3d8b9b45d) := by decide +kernel

theorem test_decode_maj02_1 :
    decodeWords [0x005B8108] = .instr (.and 1 28 22) ∧
    decodeWords [0x009CE108] = .instr (.or 1 7 7) ∧
    decodeWords [0x010BDE08] = .instr (.xor 30 30 2) ∧
    decodeWords [0x01DDB008] = .instr (.andn 16 13 23) ∧
    decodeWords [0x020DCD08] = .instr (.orn 13 14 3) ∧
    decodeWords [0x029EB308] = .instr (.sll 19 21 7) ∧
    decodeWords [0x0326D908] = .instr (.srl 25 22 9) ∧
    decodeWords [0x03A86B08] = .instr (.sra 11 3 10) ∧
    decodeWords [0x047C2B08] = .instr (.rol 11 1 31) ∧
    decodeWords [0x04FB2E08] = .instr (.ror 14 25 30) ∧
    decodeWords [0x0520A408] = .instr (.bext 4 5 8) ∧
    decodeWords [0x05849708] = .instr (.bins 23 4 1) ∧
    decodeWords [0x0801E208] = .instr (.clz 2 15) ∧
    decodeWords [0x08821A08] = .instr (.ctz 26 16) := by decide +kernel

theorem test_decode_maj02_2 :
    decodeWords [0x0902C608] = .instr (.popc 6 22) ∧
    decodeWords [0x0980F208] = .instr (.brev 18 7) ∧
    decodeWords [0x0C362F08] = .instr (.sllAmount 15 17 13) ∧
    decodeWords [0x0CA73808] = .instr (.srlAmount 24 25 9) ∧
    decodeWords [0x0D66AE08] = .instr (.sraAmount 14 21 25) ∧
    decodeWords [0x0DEDA408] = .instr (.rolAmount 4 13 27) ∧
    decodeWords [0x0E482708] = .instr (.rorAmount 7 1 18) ∧
    decodeWords [0x20035C09, 0x97BDD983, 0x4DDC74C8] = .instr (.andLit 28 26 0x4ddc74c897bdd983) ∧
    decodeWords [0x20803D09, 0x35F11AF3, 0x2FF36007] = .instr (.orLit 29 1 0x2ff3600735f11af3) ∧
    decodeWords [0x21038D09, 0x9A1DE24F, 0xA44F576A] = .instr (.xorLit 13 28 0xa44f576a9a1de24f) ∧
    decodeWords [0x21809309, 0x0AC793F6, 0xFD42E044] = .instr (.andnLit 19 4 0xfd42e0440ac793f6) ∧
    decodeWords [0x2200E509, 0x7108E023, 0x421E7A60] = .instr (.ornLit 5 7 0x421e7a607108e023) ∧
    decodeWords [0x25032109, 0x9C3ECB55, 0x54366C21] = .instr (.bextLit 1 25 0x54366c219c3ecb55) ∧
    decodeWords [0x25815B09, 0x62DC08D7, 0x12CA3F70] = .instr (.binsLit 27 10 0x12ca3f7062dc08d7) := by decide +kernel

theorem test_decode_maj03 :
    decodeWords [0x003E8C0C] = .instr (.slt 12 20 15) ∧
    decodeWords [0x00CFE50C] = .instr (.sltn 5 31 19) ∧
    decodeWords [0x014F700C] = .instr (.seq 16 27 19) ∧
    decodeWords [0x0183850C] = .instr (.mov 5 28) ∧
    decodeWords [0x0554CD0C] = .instr (.csel 13 6 21 2) ∧
    decodeWords [0x2003CA0D, 0x3A775506, 0xD15B77F2] = .instr (.sltLit 10 30 0xd15b77f23a775506) ∧
    decodeWords [0x2081140D, 0xB9B338EC, 0x3096C6C8] = .instr (.sltnLit 20 8 0x3096c6c8b9b338ec) ∧
    decodeWords [0x2103060D, 0xA104A796, 0xF0BE600D] = .instr (.seqLit 6 24 0xf0be600da104a796) ∧
    decodeWords [0x2180120D, 0x3253B563, 0xAFDD8733] = .instr (.liLit 18 0xafdd87333253b563) := by decide +kernel

theorem test_decode_maj04 :
    decodeWords [0x0027E510] = .instr (.pcmpEq 5 31 9) ∧
    decodeWords [0x00DF0210] = .instr (.pcmpNe 2 24 23) ∧
    decodeWords [0x01392410] = .instr (.pcmpLt 4 9 14) ∧
    decodeWords [0x01D3A710] = .instr (.pcmpGe 7 29 20) ∧
    decodeWords [0x02454410] = .instr (.pcmpLtn 4 10 17) ∧
    decodeWords [0x02E3C210] = .instr (.pcmpGen 2 30 24) ∧
    decodeWords [0x04084110] = .instr (.pand 1 2 2) ∧
    decodeWords [0x0498A410] = .instr (.por 4 5 6) ∧
    decodeWords [0x0514A710] = .instr (.pxor 7 5 5) ∧
    decodeWords [0x05806110] = .instr (.pnot 1 3) ∧
    decodeWords [0x06004710] = .instr (.pcnt 7 2) ∧
    decodeWords [0x06803810] = .instr (.pfirst 24 1) := by decide +kernel

theorem test_decode_maj08 :
    decodeWords [0xF5446D20] = .instr (.addImm 13 3 0x3d51) := by decide +kernel

theorem test_decode_maj09 :
    decodeWords [0x35706324] = .instr (.andImm 3 3 0xd5c) := by decide +kernel

theorem test_decode_maj0A :
    decodeWords [0x3E3AB328] = .instr (.orImm 19 21 0xf8e) := by decide +kernel

theorem test_decode_maj0B :
    decodeWords [0x5E66812C] = .instr (.xorImm 1 20 0x1799) := by decide +kernel

theorem test_decode_maj0C :
    decodeWords [0xE1D9BF30] = .instr (.sltImm 31 13 0x3876) := by decide +kernel

theorem test_decode_maj0D :
    decodeWords [0x141E9034] = .instr (.sltnImm 16 20 0x507) := by decide +kernel

theorem test_decode_maj0E :
    decodeWords [0x1A984E38] = .instr (.seqImm 14 2 0x6a6) := by decide +kernel

theorem test_decode_maj0F :
    decodeWords [0x09EC043C] = .instr (.liImm 4 0x27b) := by decide +kernel

theorem test_decode_maj10 :
    decodeWords [0x69552340] = .instr (.beq 3 9 0x1a55) := by decide +kernel

theorem test_decode_maj11 :
    decodeWords [0x0F7D0F44] = .instr (.bne 15 8 0x3df) := by decide +kernel

theorem test_decode_maj12 :
    decodeWords [0x0BEDDC48] = .instr (.call 0xbeddc) := by decide +kernel

theorem test_decode_maj13_1 :
    decodeWords [0x0001464E, 0x00000000, 0x5E68B7CB] = .instr (.blt 6 10 0x5e68b7cb) ∧
    decodeWords [0x0082714E, 0x00000000, 0xF91ACB8E] = .instr (.bge 17 19 0xf91acb8e) ∧
    decodeWords [0x0100654E, 0x00000000, 0x5CB58B8F] = .instr (.bltn 5 3 0x5cb58b8f) ∧
    decodeWords [0x0183A54E, 0x00000000, 0x7349DBC5] = .instr (.bgen 5 29 0x7349dbc5) ∧
    decodeWords [0x0302CB4E, 0x00000000, 0xBB9FAB2C] = .instr (.beqX 11 22 0xbb9fab2c) ∧
    decodeWords [0x0382374E, 0x00000000, 0x959DE096] = .instr (.bneX 23 17 0x959de096) ∧
    decodeWords [0x0200024E, 0x00000000, 0x970216FD] = .instr (.bpt 2 0x970216fd) ∧
    decodeWords [0x0280014E, 0x00000000, 0xEC7038CA] = .instr (.bpf 1 0xec7038ca) ∧
    decodeWords [0x0400004E, 0x00000000, 0x0494B6D3] = .instr (.callX 0x494b6d3) ∧
    decodeWords [0x0480104C] = .instr (.jr 16) ∧
    decodeWords [0x05001E4C] = .instr (.callr 30) ∧
    decodeWords [0x0580004C] = .instr (.ret ) ∧
    decodeWords [0x0604AC4C] = .instr (.loop 12 37) ∧
    decodeWords [0x0600174E, 0x00000000, 0x00012345] = .instr (.loopX 23 0x12345) := by decide +kernel

theorem test_decode_maj13_2 :
    decodeWords [0x0680004C] = .instr (.lend ) ∧
    decodeWords [0x0700004C] = .instr (.lbrk ) ∧
    decodeWords [0x07800A4C] = .instr (.lidx 10) ∧
    decodeWords [0x0800004C] = .instr (.nop ) := by decide +kernel

theorem test_decode_maj14 :
    decodeWords [0x00E07050] = .instr (.lds .none .plain .s16 16 3 24) ∧
    decodeWords [0x91006352, 0x00023B80, 0x73FDC195] = .instr (.ldsX .wgs .full .s32 3 3 0x73fdc195 (some (35, 11))) := by decide +kernel

theorem test_decode_maj15 :
    decodeWords [0x02D86C54] = .instr (.sts .none false .n16 12 3 22) ∧
    decodeWords [0xC3035F56, 0x00038F80, 0x07BFC097] = .instr (.stsX .wrd false .n32 31 26 0x7bfc097 (some (56, 15))) := by decide +kernel

theorem test_decode_maj16 :
    decodeWords [0x13066D58] = .instr (.ldp .none .fullClear .n32 13 19 1) ∧
    decodeWords [0x00A4955A, 0x00000000, 0xE13A0997] = .instr (.ldpX .none .plain .s16 21 4 9 0xe13a0997) ∧
    decodeWords [0xEB5F1E58] = .instr (.stp .wrd true .n32 30 24 23) ∧
    decodeWords [0xEB8E5B5A, 0x00000000, 0x84C955F2] = .instr (.stpX .wrd true .n64 27 18 3 0x84c955f2) := by decide +kernel

theorem test_decode_maj17 :
    decodeWords [0x0002395C] = .instr (.fes 25 17) ∧
    decodeWords [0x0081415C] = .instr (.fec 1 10) ∧
    decodeWords [0x0100055C] = .instr (.push 5) ∧
    decodeWords [0x0100005E, 0x00000000, 0x81230208] = .instr (.pushX 0x81230208) ∧
    decodeWords [0x0180055C] = .instr (.pop 5) ∧
    decodeWords [0x0180005E, 0x00000000, 0x81230208] = .instr (.popX 0x81230208) ∧
    decodeWords [0x0200005E, 0x00000000, 0x81230209] = .instr (.pushV 0x81230209) ∧
    decodeWords [0x0280005E, 0x00000000, 0x81230209] = .instr (.popV 0x81230209) := by decide +kernel

theorem test_decode_maj18_1 :
    decodeWords [0x00407460] = .instr (.vadd 20 3 16) ∧
    decodeWords [0x00FD0160] = .instr (.vsub 1 8 31) ∧
    decodeWords [0x01409760] = .instr (.vmul 23 4 16) ∧
    decodeWords [0x01DA9960] = .instr (.vmulh 25 20 22) ∧
    decodeWords [0x02261E60] = .instr (.vmad 30 16 9) ∧
    decodeWords [0x02B03D60] = .instr (.vmin 29 1 12) ∧
    decodeWords [0x0358AA60] = .instr (.vmax 10 5 22) ∧
    decodeWords [0x03C4F460] = .instr (.vminn 20 7 17) ∧
    decodeWords [0x04772660] = .instr (.vmaxn 6 25 29) ∧
    decodeWords [0x0482CB60] = .instr (.vabs 11 22) ∧
    decodeWords [0x0501FE60] = .instr (.vneg 30 15) ∧
    decodeWords [0x0023B062, 0x0060000E, 0x00000000] = .instr (.vaddX 16 29 8 true (some 6)) ∧
    decodeWords [0x009D3662, 0x0060000B, 0x00000000] = .instr (.vsubX 22 9 7 true (some 3)) ∧
    decodeWords [0x0134FD62, 0x0020000D, 0x00000000] = .instr (.vmulX 29 7 13 false (some 5)) := by decide +kernel

theorem test_decode_maj18_2 :
    decodeWords [0x0194A762, 0x0060000D, 0x00000000] = .instr (.vmulhX 7 5 5 true (some 5)) ∧
    decodeWords [0x0273BB62, 0x00200009, 0x00000000] = .instr (.vmadX 27 29 28 false (some 1)) ∧
    decodeWords [0x02ED3F62, 0x00200009, 0x00000000] = .instr (.vminX 31 9 27 false (some 1)) ∧
    decodeWords [0x03260F62, 0x0020000E, 0x00000000] = .instr (.vmaxX 15 16 9 false (some 6)) ∧
    decodeWords [0x03C6AD62, 0x0060000D, 0x00000000] = .instr (.vminnX 13 21 17 true (some 5)) ∧
    decodeWords [0x046F7762, 0x0060000D, 0x00000000] = .instr (.vmaxnX 23 27 27 true (some 5)) ∧
    decodeWords [0x04836362, 0x00200008, 0x00000000] = .instr (.vabsX 3 27 (some 0)) ∧
    decodeWords [0x05038962, 0x0020000C, 0x00000000] = .instr (.vnegX 9 28 false (some 4)) := by decide +kernel

theorem test_decode_maj19_1 :
    decodeWords [0x00299364] = .instr (.vand 19 12 10) ∧
    decodeWords [0x00CF5564] = .instr (.vor 21 26 19) ∧
    decodeWords [0x0116A164] = .instr (.vxor 1 21 5) ∧
    decodeWords [0x019DED64] = .instr (.vandn 13 15 7) ∧
    decodeWords [0x026F2166, 0x48200008, 0x0000003D] = .instr (.vlop3 1 25 27 9 0x3d false (some 0)) ∧
    decodeWords [0x02BC9564] = .instr (.vsll 21 4 15) ∧
    decodeWords [0x034AA464] = .instr (.vsrl 4 21 18) ∧
    decodeWords [0x03EAB564] = .instr (.vsra 21 21 26) ∧
    decodeWords [0x040FEC64] = .instr (.vrot 12 31 3) ∧
    decodeWords [0x049CF666, 0xD860000C, 0x00000000] = .instr (.vfsl 22 7 7 27 true (some 4)) ∧
    decodeWords [0x0506E666, 0xC8600008, 0x00000000] = .instr (.vfsr 6 23 1 25 true (some 0)) ∧
    decodeWords [0x05810664] = .instr (.vclz 6 8) ∧
    decodeWords [0x06032964] = .instr (.vpopc 9 25) ∧
    decodeWords [0x005E4C66, 0x0020000E, 0x00000000] = .instr (.vandX 12 18 23 false (some 6)) := by decide +kernel

theorem test_decode_maj19_2 :
    decodeWords [0x00DF5C66, 0x00200009, 0x00000000] = .instr (.vorX 28 26 23 false (some 1)) ∧
    decodeWords [0x0177CE66, 0x0060000A, 0x00000000] = .instr (.vxorX 14 30 29 true (some 2)) ∧
    decodeWords [0x019DEF66, 0x0020000E, 0x00000000] = .instr (.vandnX 15 15 7 false (some 6)) ∧
    decodeWords [0x02D67266, 0x0060000F, 0x00000000] = .instr (.vsllX 18 19 21 true (some 7)) ∧
    decodeWords [0x031EAB66, 0x00200009, 0x00000000] = .instr (.vsrlX 11 21 7 false (some 1)) ∧
    decodeWords [0x03F50766, 0x00600009, 0x00000000] = .instr (.vsraX 7 8 29 true (some 1)) ∧
    decodeWords [0x046A4A66, 0x0060000C, 0x00000000] = .instr (.vrotX 10 18 26 true (some 4)) ∧
    decodeWords [0x0582FE66, 0x0020000D, 0x00000000] = .instr (.vclzX 30 23 false (some 5)) ∧
    decodeWords [0x06007166, 0x0020000F, 0x00000000] = .instr (.vpopcX 17 3 false (some 7)) ∧
    decodeWords [0x22824B66, 0x0060000F, 0x0000000E] = .instr (.vsllAmount 11 18 14 true (some 7)) ∧
    decodeWords [0x23003E66, 0x0020000E, 0x00000007] = .instr (.vsrlAmount 30 1 7 false (some 6)) ∧
    decodeWords [0x23805A66, 0x0060000A, 0x00000006] = .instr (.vsraAmount 26 2 6 true (some 2)) ∧
    decodeWords [0x2400B066, 0x0060000F, 0x00000011] = .instr (.vrotAmount 16 5 17 true (some 7)) ∧
    decodeWords [0x24DFF366, 0x0020000F, 0x00000003] = .instr (.vfslAmount 19 31 23 3 false (some 7)) := by decide +kernel

theorem test_decode_maj19_3 :
    decodeWords [0x252A5166, 0x0020000C, 0x0000001B] = .instr (.vfsrAmount 17 18 10 27 false (some 4)) := by decide +kernel

theorem test_decode_maj1A_1 :
    decodeWords [0x0036C368] = .instr (.vcmpEq 3 22 13) ∧
    decodeWords [0x00F78768] = .instr (.vcmpNe 7 28 29) ∧
    decodeWords [0x0128E568] = .instr (.vcmpLt 5 7 10) ∧
    decodeWords [0x01FCA768] = .instr (.vcmpGe 7 5 31) ∧
    decodeWords [0x02262568] = .instr (.vcmpLtn 5 17 9) ∧
    decodeWords [0x029E0568] = .instr (.vcmpGen 5 16 7) ∧
    decodeWords [0x06924E68] = .instr (.vsel 14 18 4 5) ∧
    decodeWords [0x08028168] = .instr (.vmov 1 20) ∧
    decodeWords [0x08802D68] = .instr (.vbcast 13 1) ∧
    decodeWords [0x09445268] = .instr (.vlane 18 2 17) ∧
    decodeWords [0x09C9BE68] = .instr (.vput 30 13 18) ∧
    decodeWords [0x020E016A, 0x0000000A, 0x00000000] = .instr (.vcmpX .ltn 1 16 3 (some 2)) ∧
    decodeWords [0x064BC36A, 0x0000000E, 0x00000000] = .instr (.vselX 3 30 18 4 (some 6)) ∧
    decodeWords [0x0803FE6A, 0x0000000E, 0x00000000] = .instr (.vmovX 30 31 (some 6)) := by decide +kernel

theorem test_decode_maj1A_2 :
    decodeWords [0x0881096A, 0x0000000F, 0x00000000] = .instr (.vbcastX 9 8 (some 7)) ∧
    decodeWords [0x092CB06A, 0x00000000, 0x00000000] = .instr (.vlaneX 16 5 11) ∧
    decodeWords [0x09EFAE6A, 0x0000000F, 0x00000000] = .instr (.vputX 14 29 27 (some 7)) := by decide +kernel

theorem test_decode_maj1B_1 :
    decodeWords [0x0011716C] = .instr (.vperm 17 11 4) ∧
    decodeWords [0x00D1C76C] = .instr (.vshuf 7 14 20) ∧
    decodeWords [0x0127C16C] = .instr (.vslide 1 30 9) ∧
    decodeWords [0x0182E56C] = .instr (.vredadd 5 23) ∧
    decodeWords [0x0200396C] = .instr (.vredmin 25 1) ∧
    decodeWords [0x0280E26C] = .instr (.vredmax 2 7) ∧
    decodeWords [0x0301056C] = .instr (.vredand 5 8) ∧
    decodeWords [0x0382C16C] = .instr (.vredor 1 22) ∧
    decodeWords [0x04016A6C] = .instr (.vredxor 10 11) ∧
    decodeWords [0x0021986E, 0x00600009, 0x00000000] = .instr (.vpermX 24 12 8 true (some 1)) ∧
    decodeWords [0x00CF106E, 0x0020000C, 0x00000000] = .instr (.vshufX 16 24 19 false (some 4)) ∧
    decodeWords [0x015CF76E, 0x00600008, 0x00000000] = .instr (.vslideX 23 7 23 true (some 0)) ∧
    decodeWords [0x0182AD6E, 0x0060000A, 0x00000000] = .instr (.vredaddX 13 21 true (some 2)) ∧
    decodeWords [0x0200F26E, 0x0020000B, 0x00000000] = .instr (.vredminX 18 7 false (some 3)) := by decide +kernel

theorem test_decode_maj1B_2 :
    decodeWords [0x02825C6E, 0x0020000B, 0x00000000] = .instr (.vredmaxX 28 18 false (some 3)) ∧
    decodeWords [0x03031E6E, 0x0060000A, 0x00000000] = .instr (.vredandX 30 24 true (some 2)) ∧
    decodeWords [0x03828B6E, 0x0060000B, 0x00000000] = .instr (.vredorX 11 20 true (some 3)) ∧
    decodeWords [0x0403276E, 0x00200009, 0x00000000] = .instr (.vredxorX 7 25 false (some 1)) := by decide +kernel

theorem test_decode_maj1C_1 :
    decodeWords [0x0023A570] = .instr (.vfadd 5 29 8) ∧
    decodeWords [0x008F0570] = .instr (.vfsub 5 24 3) ∧
    decodeWords [0x0111A970] = .instr (.vfmul 9 13 4) ∧
    decodeWords [0x01FF6E70] = .instr (.vfma 14 27 31) ∧
    decodeWords [0x026A4E70] = .instr (.vfmin 14 18 26) ∧
    decodeWords [0x029CB770] = .instr (.vfmax 23 5 7) ∧
    decodeWords [0x0302AD70] = .instr (.vfabs 13 21) ∧
    decodeWords [0x03835670] = .instr (.vfneg 22 26) ∧
    decodeWords [0x04008170] = .instr (.vfrcp 1 4) ∧
    decodeWords [0x04826770] = .instr (.vfrsq 7 19) ∧
    decodeWords [0x08798670] = .instr (.vfcmpEq 6 12 30) ∧
    decodeWords [0x08B3E770] = .instr (.vfcmpNe 7 31 12) ∧
    decodeWords [0x0946E170] = .instr (.vfcmpLt 1 23 17) ∧
    decodeWords [0x09AF2670] = .instr (.vfcmpGe 6 25 11) := by decide +kernel

theorem test_decode_maj1C_2 :
    decodeWords [0x0C02D170] = .instr (.vcvt 17 22) ∧
    decodeWords [0x0C00FB72, 0x00C0000F, 0x00000002] = .instr (.vcvtX 27 7 .t6 .s32 (some 7)) ∧
    decodeWords [0x0C802472, 0x0020000F, 0x0000000C] = .instr (.vcvtSat 4 1 .s32 .t6 (some 7)) ∧
    decodeWords [0x0018E572, 0x0080000B, 0x00000000] = .instr (.vfaddX 5 7 6 .f32 (some 3)) ∧
    decodeWords [0x009B6672, 0x00900009, 0x00000000] = .instr (.vfsubX 6 27 6 .f16 (some 1)) ∧
    decodeWords [0x01145372, 0x00A0000F, 0x00000000] = .instr (.vfmulX 19 2 5 .bf16 (some 7)) ∧
    decodeWords [0x01932372, 0x0090000E, 0x00000000] = .instr (.vfmaX 3 25 4 .f16 (some 6)) ∧
    decodeWords [0x0245CF72, 0x0090000E, 0x00000000] = .instr (.vfminX 15 14 17 .f16 (some 6)) ∧
    decodeWords [0x02B28772, 0x00800008, 0x00000000] = .instr (.vfmaxX 7 20 12 .f32 (some 0)) ∧
    decodeWords [0x0300FC72, 0x0080000E, 0x00000000] = .instr (.vfabsX 28 7 .f32 (some 6)) ∧
    decodeWords [0x03818F72, 0x00A0000D, 0x00000000] = .instr (.vfnegX 15 12 .bf16 (some 5)) ∧
    decodeWords [0x0403CD72, 0x0080000A, 0x00000000] = .instr (.vfrcpX 13 30 .f32 (some 2)) ∧
    decodeWords [0x04822472, 0x0080000D, 0x00000000] = .instr (.vfrsqX 4 17 .f32 (some 5)) ∧
    decodeWords [0x085F6772, 0x00A0000E, 0x00000000] = .instr (.vfcmpX .eq 7 27 23 .bf16 (some 6)) := by decide +kernel

theorem test_decode_maj1D :
    decodeWords [0x402E7174] = .instr (.vld .wrs 17 19 11) ∧
    decodeWords [0x8093C974] = .instr (.vst .wgs 9 30 4) ∧
    decodeWords [0x4137DB74] = .instr (.vlds .wrs 27 30 13) ∧
    decodeWords [0x41F57D74] = .instr (.vsts .wrs 29 11 29) ∧
    decodeWords [0x8265D974] = .instr (.vldx .wgs 25 14 25) ∧
    decodeWords [0x42E0ED74] = .instr (.vldxZero .wrs 13 7 24) ∧
    decodeWords [0x40034376, 0x0001F38C, 0x577ADFD4] = .instr (.vldX .wrs 3 26 0x577adfd4 (some 4) (some (31, 3))) ∧
    decodeWords [0x00819D76, 0x0000F888, 0xFD969745] = .instr (.vstX .none 29 12 0xfd969745 (some 0) (some (15, 8))) ∧
    decodeWords [0x8158EB76, 0x0002558E, 0x00000000] = .instr (.vldsX .wgs 11 7 22 (some 6) (some (37, 5))) ∧
    decodeWords [0x01C22D76, 0x0002D38B, 0x00000000] = .instr (.vstsX .none 13 17 16 (some 3) (some (45, 3))) ∧
    decodeWords [0xC2103376, 0x00011E8B, 0x1BAA9D8B] = .instr (.vldxX .wrd 19 1 4 0x9d8b 0x1baa (some 3) (some (17, 14))) ∧
    decodeWords [0xC2E45176, 0x0000138E, 0xA5E43209] = .instr (.vldxZeroX .wrd 17 2 25 0x3209 0xa5e4 (some 6) (some (1, 3))) := by decide +kernel

theorem test_decode_maj1E :
    decodeWords [0x00253B78] = .instr (.vbind 27 9 9) ∧
    decodeWords [0x00801B78] = .instr (.vunbind 27) := by decide +kernel

theorem test_decode_maj20 :
    decodeWords [0x2024CF80] = .instr (.runi true 15 6 9) ∧
    decodeWords [0x20B94980] = .instr (.rint true 9 10 14) ∧
    decodeWords [0x01350B80] = .instr (.rsub false 11 8 13) ∧
    decodeWords [0x01AD4980] = .instr (.rhull false 9 10 11) ∧
    decodeWords [0x02002D80] = .instr (.rmove 13 1) ∧
    decodeWords [0x22806F80] = .instr (.rclip true 15 3) := by decide +kernel

theorem test_decode_maj21 :
    decodeWords [0x20706884] = .instr (.rdil true 8 3 28) ∧
    decodeWords [0x20A94984] = .instr (.rproj true 9 10 10) ∧
    decodeWords [0x01390784] = .instr (.rsplit false 7 8 14) ∧
    decodeWords [0x2050E986, 0x00000000, 0x00000000] = .instr (.rdilX true 9 7 20) ∧
    decodeWords [0x20952686, 0x0001F000, 0x00000000] = .instr (.rprojX true 6 9 5 31) ∧
    decodeWords [0x2129E986, 0x00000000, 0x00000000] = .instr (.rsplitX true 9 15 10) := by decide +kernel

theorem test_decode_maj22 :
    decodeWords [0x002B0B8A, 0x0002E000, 0x00003901] = .instr (.rbox 11 0x2e 24 10 1 1 7) ∧
    decodeWords [0x00894488] = .instr (.rstr 4 10 2) ∧
    decodeWords [0x01006B88] = .instr (.rrag 11 3) ∧
    decodeWords [0x0180078A, 0x00031000, 0x00000000] = .instr (.rtid 7 0x31) ∧
    decodeWords [0x0200F688] = .instr (.rnbox 22 7) ∧
    decodeWords [0x02ADE288] = .instr (.rgetb 2 15 11) ∧
    decodeWords [0x0300F888] = .instr (.rcells 24 7) ∧
    decodeWords [0x03E14188] = .instr (.rtest 1 10 24) ∧
    decodeWords [0x00E8468A, 0x00000000, 0x00000000] = .instr (.rstrX 6 2 26) ∧
    decodeWords [0x01008F8A, 0x00000000, 0x00000000] = .instr (.rragX 15 4) ∧
    decodeWords [0x02018E8A, 0x00000000, 0x00000000] = .instr (.rnboxX 14 12) ∧
    decodeWords [0x02E4B08A, 0x00000000, 0x00000000] = .instr (.rgetbX 16 5 25) ∧
    decodeWords [0x0300288A, 0x00000000, 0x00000000] = .instr (.rcellsX 8 1) ∧
    decodeWords [0x03F8458A, 0x00000000, 0x00000000] = .instr (.rtestX 5 2 30) := by decide +kernel

theorem test_decode_maj23 :
    decodeWords [0xC06FE38C] = .instr (.rld .wrd 3 31 27) ∧
    decodeWords [0x4092EA8C] = .instr (.rst .wrs 10 23 4) ∧
    decodeWords [0x0001CA8E, 0x00000000, 0x74A803A0] = .instr (.rldX .none 10 14 0x74a803a0) ∧
    decodeWords [0x0083848E, 0x00000000, 0x0D5385D3] = .instr (.rstX .none 4 28 0xd5385d3) := by decide +kernel

theorem test_decode_maj24 :
    decodeWords [0x0044C290] = .instr (.twIn 2 6 17) ∧
    decodeWords [0x00906290] = .instr (.twOut 2 3 4) ∧
    decodeWords [0x003CC292, 0x00000000, 0x23C881EA] = .instr (.twInX 2 6 15 0x23c881ea) ∧
    decodeWords [0x00B96292, 0x00000000, 0x749F2660] = .instr (.twOutX 2 11 14 0x749f2660) ∧
    decodeWords [0x01254292, 0xA8000000, 0x950D7617] = .instr (.twMc 2 10 9 21 0x950d7617) ∧
    decodeWords [0x0182C292, 0x000006D8, 0x00000000] = .instr (.twWalk 2 22 27 6) ∧
    decodeWords [0x02471990] = .instr (.wcmd 25 24 17) := by decide +kernel

theorem test_decode_maj25 :
    decodeWords [0x006A0594] = .instr (.hdef 0x35 5) ∧
    decodeWords [0x00FA0094] = .instr (.hfree 0x3d) ∧
    decodeWords [0x01278094] = .instr (.hwait 19 12) ∧
    decodeWords [0x01A00594] = .instr (.hstat 5 16) ∧
    decodeWords [0x023F2094] = .instr (.advC 31 9) ∧
    decodeWords [0x02912094] = .instr (.advP 8 9) := by decide +kernel

theorem test_decode_maj26 :
    decodeWords [0x0003A998] = .instr (.tlw 9 29) ∧
    decodeWords [0x0003459A, 0x88000000, 0x00000000] = .instr (.tlwX 5 26 17) ∧
    decodeWords [0x0081D498] = .instr (.tlrd 20 14) ∧
    decodeWords [0x02258798] = .instr (.collRed 7 12 9) ∧
    decodeWords [0x02D12798] = .instr (.collAr 7 9 20) ∧
    decodeWords [0x0262C79A, 0x002C0000, 0x00000000] = .instr (.collRedX 7 22 24 .t8) ∧
    decodeWords [0x02CEE79A, 0x00200000, 0x00000000] = .instr (.collArX 7 23 19 .f32) ∧
    decodeWords [0x0326A79A, 0x00200000, 0x00000000] = .instr (.collBc 7 21 9 .f32) ∧
    decodeWords [0x03FC8D98] = .instr (.ckpt 13 4 31) := by decide +kernel

theorem test_decode_maj27 :
    decodeWords [0x0000049C] = .instr (.rwait 4) ∧
    decodeWords [0x0088099C] = .instr (.rprot 9 2) := by decide +kernel

theorem test_decode_maj28 :
    decodeWords [0x008286A2, 0x4C6C0003, 0x00000000] = .instr (.mma 6 true false 20 0 9 17 .t8 3) ∧
    decodeWords [0x028282A2, 0x4C400003, 0x00000000] = .instr (.mmi 2 true false 20 0 9 17 3) ∧
    decodeWords [0x048286A2, 0x4C6C0003, 0x00000345] = .instr (.mmaSp 6 true false 20 0 9 17 .t8 0x345 3) ∧
    decodeWords [0x068281A2, 0x4C400003, 0x00000345] = .instr (.mmiSp 1 true false 20 0 9 17 0x345 3) := by decide +kernel

theorem test_decode_maj29 :
    decodeWords [0x000046A4] = .instr (.zcfg 6 2) ∧
    decodeWords [0x008121A4] = .instr (.zcfgKeep 1 9) ∧
    decodeWords [0x010C03A4] = .instr (.zzero 3 3) ∧
    decodeWords [0xC18E81A4] = .instr (.zld .wrd 1 20 3) ∧
    decodeWords [0x020D01A4] = .instr (.zst .none 1 8 3) ∧
    decodeWords [0x028065A4] = .instr (.zmov 5 3) ∧
    decodeWords [0x030C03A4] = .instr (.mstat 3 3) ∧
    decodeWords [0x000067A6, 0x00000000, 0x00000000] = .instr (.zcfgX 7 3) ∧
    decodeWords [0x0080C6A6, 0x00000000, 0x00000000] = .instr (.zcfgKeepX 6 6) ∧
    decodeWords [0x010C05A6, 0x00000000, 0x00000000] = .instr (.zzeroX 5 3) ∧
    decodeWords [0x418D86A6, 0x00000000, 0x7BE80C9E] = .instr (.zldX .wrs 6 12 0x7be80c9e 3) ∧
    decodeWords [0xC20CE3A6, 0x00000000, 0x5697E721] = .instr (.zstX .wrd 3 7 0x5697e721 3) ∧
    decodeWords [0x028083A6, 0x00000000, 0x00000000] = .instr (.zmovX 3 4) ∧
    decodeWords [0x030C18A6, 0x00000000, 0x00000000] = .instr (.mstatX 24 3) := by decide +kernel

theorem test_decode_maj2A :
    decodeWords [0x007365A8] = .instr (.mcmd 5 27 28) ∧
    decodeWords [0x008343A8] = .instr (.mcap 3 26) ∧
    decodeWords [0x010004A8] = .instr (.mrev 4) := by decide +kernel

theorem test_decode_maj2C :
    decodeWords [0x003505B0] = .instr (.cvt 5 8 13) ∧
    decodeWords [0x00A9C5B0] = .instr (.cvtSat 5 14 10) ∧
    decodeWords [0x01033BB0] = .instr (.ccmd 27 25) := by decide +kernel

theorem test_decode_maj2D :
    decodeWords [0x0000E0B6, 0x00032000, 0x71C02D3F] = .instr (.tset 0x32 7 0x71c02d3f) ∧
    decodeWords [0x008300B6, 0x0001C000, 0x421105DF] = .instr (.tget 28 24 0x421105df) := by decide +kernel

theorem test_decode_maj2E_1 :
    decodeWords [0xC154ACB8] = .instr (.ldg .wrd .s32 12 5 21) ∧
    decodeWords [0x866332B8] = .instr (.stg .wgs .n8 18 25 24) ∧
    decodeWords [0x4B4D95B8] = .instr (.rsv .wrs .n32 21 12 19) ∧
    decodeWords [0x0F8D7DB8] = .instr (.cmt .none .n64 29 11 3) ∧
    decodeWords [0x100E40B8] = .instr (.pref 18 3) ∧
    decodeWords [0xD08000B8] = .instr (.wcnt .wrd) ∧
    decodeWords [0x111C00B8] = .instr (.acq (.level .system)) ∧
    decodeWords [0x11C800B8] = .instr (.rel (.named 2)) ∧
    decodeWords [0x124800B8] = .instr (.fence (.named 2)) ∧
    decodeWords [0x128157B8] = .instr (.objd 23 10) ∧
    decodeWords [0x130010B8] = .instr (.objf 16) ∧
    decodeWords [0x8220BDBA, 0x030AFA80, 0x00000000] = .instr (.ldgX .wgs .n8 29 5 8 .cluster .evictFirst (some (47, 10))) ∧
    decodeWords [0x84BEEBBA, 0x050BB880, 0x00000000] = .instr (.stgX .wgs .s16 11 23 15 .device .evictFirst (some (59, 8))) ∧
    decodeWords [0xCA216FBA, 0x040BA780, 0x00000000] = .instr (.rsvX .wrd .n8 15 11 8 .die .evictFirst (some (58, 7))) := by decide +kernel

theorem test_decode_maj2E_2 :
    decodeWords [0x0E859BBA, 0x0309AC80, 0x00000000] = .instr (.cmtX .none .n16 27 12 1 .cluster .evictFirst (some (26, 12))) ∧
    decodeWords [0x101F40BA, 0x06080000, 0x00000000] = .instr (.prefX 26 7 .domain .evictFirst) ∧
    decodeWords [0x908000BA, 0x00000000, 0x00000000] = .instr (.wcntX .wgs) ∧
    decodeWords [0x115400BA, 0x00000000, 0x00000000] = .instr (.acqX (.named 5)) ∧
    decodeWords [0x11F800BA, 0x00000000, 0x00000000] = .instr (.relX (.named 14)) ∧
    decodeWords [0x125C00BA, 0x00000000, 0x00000000] = .instr (.fenceX (.named 7)) ∧
    decodeWords [0x128051BA, 0x00000000, 0x00000000] = .instr (.objdX 17 2) ∧
    decodeWords [0x130012BA, 0x00000000, 0x00000000] = .instr (.objfX 18) := by decide +kernel

theorem test_decode_maj2F :
    decodeWords [0x406B75BE, 0x71600000, 0x00000000] = .instr (.amoAdd .wrs .n32 .core 21 27 26 14) ∧
    decodeWords [0x008D63BE, 0x4D600000, 0x00000000] = .instr (.amoMin .none .n32 .device 3 11 3 9) ∧
    decodeWords [0x0156A1BE, 0x29600000, 0x00000000] = .instr (.amoMax .none .n32 .core 1 21 21 5) ∧
    decodeWords [0x01C117BE, 0xCA700000, 0x00000000] = .instr (.amoMinn .none .n64 .tile 23 8 16 25) ∧
    decodeWords [0x82696CBE, 0xFC700000, 0x00000000] = .instr (.amoMaxn .wgs .n64 .die 12 11 26 31) ∧
    decodeWords [0x82EA50BE, 0xC4300000, 0x00000000] = .instr (.amoAnd .wgs .s64 .die 16 18 26 24) ∧
    decodeWords [0x035B79BE, 0x64200000, 0x00000000] = .instr (.amoOr .none .s32 .die 25 27 22 12) ∧
    decodeWords [0x03FDFDBE, 0x91700000, 0x00000000] = .instr (.amoXor .none .n64 .core 29 15 31 18) ∧
    decodeWords [0x041341BE, 0x76600000, 0x00000000] = .instr (.amoSwap .none .n32 .domain 1 26 4 14) ∧
    decodeWords [0xC4D4D8BE, 0x6A300000, 0x00000000] = .instr (.amoCas .wrd .s64 .tile 24 6 21 13) := by decide +kernel

theorem test_decode_maj30 :
    decodeWords [0x0000D6C0] = .instr (.jsub 22 6) ∧
    decodeWords [0x009CEBC0] = .instr (.spawn 11 7 7) ∧
    decodeWords [0x010000C0] = .instr (.jnext ) ∧
    decodeWords [0x018000C0] = .instr (.done ) ∧
    decodeWords [0x020000C0] = .instr (.yield ) := by decide +kernel

theorem test_decode_maj31 :
    decodeWords [0x000227C4] = .instr (.mset 7 17) ∧
    decodeWords [0x008005C4] = .instr (.join 5) ∧
    decodeWords [0x010005C4] = .instr (.leave 5) ∧
    decodeWords [0x01800FC4] = .instr (.bar 15) ∧
    decodeWords [0x020001C4] = .instr (.barA 1) ∧
    decodeWords [0x028008C4] = .instr (.barW 8) ∧
    decodeWords [0x03130AC7, 0x50000000, 0x00000000, 0xA5E209D7, 0x27CFD9EE] = .instr (.watch 10 24 4 10 0x27cfd9eea5e209d7) ∧
    decodeWords [0x038019C4] = .instr (.unwatch 25) := by decide +kernel

theorem test_decode_maj32 :
    decodeWords [0x00001EC8] = .instr (.phrLead 30) ∧
    decodeWords [0x008006C8] = .instr (.phrJoin 6) ∧
    decodeWords [0x010000C8] = .instr (.phrEnd ) := by decide +kernel

theorem test_decode_maj33 :
    decodeWords [0x00000FCC] = .instr (.scope 15) ∧
    decodeWords [0x008001CC] = .instr (.scopeClose 1) ∧
    decodeWords [0x01000DCC] = .instr (.cancel 13) ∧
    decodeWords [0x018008CC] = .instr (.cancelW 8) ∧
    decodeWords [0x020001CC] = .instr (.onc 1) ∧
    decodeWords [0x028013CC] = .instr (.cancelById 19) ∧
    decodeWords [0x030010CC] = .instr (.cancelWById 16) := by decide +kernel

theorem test_decode_maj34 :
    decodeWords [0x00035ED0] = .instr (.snd 30 26) ∧
    decodeWords [0x008162D0] = .instr (.rcv 2 11) ∧
    decodeWords [0x010004D0] = .instr (.rcvq 4) := by decide +kernel

theorem test_decode_maj35 :
    decodeWords [0x000000D4] = .instr (.step ) ∧
    decodeWords [0x008007D4] = .instr (.xtt 7) ∧
    decodeWords [0x011D86D4] = .instr (.xsend 6 12 7) ∧
    decodeWords [0x01D113D4] = .instr (.xreq 19 8 20) ∧
    decodeWords [0x025217D4] = .instr (.xadd 23 16 20) ∧
    decodeWords [0x028011D4] = .instr (.xcnt 17) ∧
    decodeWords [0x000000D6, 0x00000000, 0x00000000] = .instr (.stepX ) ∧
    decodeWords [0x008008D6, 0x00000000, 0x00000000] = .instr (.xttX 8) ∧
    decodeWords [0x0100C0D6, 0x00000000, 0xE4FF5472] = .instr (.xsendX 0x72 6 0xe4ff54) ∧
    decodeWords [0x0199A9D6, 0x00000000, 0x00000000] = .instr (.xreqX 9 13 6) ∧
    decodeWords [0x027B3ED6, 0x00000000, 0x00000000] = .instr (.xaddX 30 25 30) ∧
    decodeWords [0x02800AD6, 0x00000000, 0x00000000] = .instr (.xcntX 10) := by decide +kernel

theorem test_decode_maj36 :
    decodeWords [0x004655D8] = .instr (.srd 21 0x232) ∧
    decodeWords [0x00F8BBD8] = .instr (.swr 0x3c5 27) ∧
    decodeWords [0x014680D8] = .instr (.svc 0x234) ∧
    decodeWords [0x01BD60D8] = .instr (.trap 0x1eb) ∧
    decodeWords [0x026D40D8] = .instr (.brk 0x36a) ∧
    decodeWords [0x028000D8] = .instr (.tret ) ∧
    decodeWords [0x030000D8] = .instr (.wfe ) ∧
    decodeWords [0x038009D8] = .instr (.sev 9) ∧
    decodeWords [0x040000D8] = .instr (.snap ) ∧
    decodeWords [0x048000D8] = .instr (.idle ) ∧
    decodeWords [0x050010D8] = .instr (.rsm 16) ∧
    decodeWords [0x0580FDD8] = .instr (.fltr 29 7) := by decide +kernel

theorem test_decode_maj37 :
    decodeWords [0x00001EDC] = .instr (.ctxsave 30) ∧
    decodeWords [0x00801FDC] = .instr (.ctxload 31) ∧
    decodeWords [0x01000BDC] = .instr (.preempt 11) := by decide +kernel
/-- The chunk loop and the longer forms that chapter 3 encodes. -/
theorem test_decode_chunk_loop :
    decodeWords [0x001C0440] = .instr (.beq 4 0 7) ∧
    decodeWords [0x018065B8] = .instr (.ldg .none .s64 5 3 0) ∧
    decodeWords [0x0114A504] = .instr (.mul 5 5 5) ∧
    decodeWords [0x058065B8] = .instr (.stg .none .s64 5 3 0) ∧
    decodeWords [0x00206320] = .instr (.addImm 3 3 8) ∧
    decodeWords [0xFFFC8420] = .instr (.addImm 4 4 (-1)) ∧
    decodeWords [0xFFE80040] = .instr (.beq 0 0 (-6)) ∧
    decodeWords [0x010000C0] = .instr .jnext ∧
    decodeWords [0xFFE00444] = .instr (.bne 4 0 (-8)) ∧
    decodeWords [0x018000C0] = .instr .done ∧
    decodeWords [0x0108C550] = .instr (.lds .none .plain .s32 5 6 2) ∧
    decodeWords [0x2180060D, 0x00000004, 0x00000080] = .instr (.liLit 6 0x8000000004) ∧
    decodeWords [0x002D40A2, 0x636C0001, 0] = .instr (.mma 0 false false 10 11 12 13 .t8 1) := by decide +kernel

/-- Each way a word is no instruction (R69): the zero word, MAJ 0, an unused minor and major, a must-be-zero field, a wrong length,
a literal the row does not list, and an operand out of its limits. -/
theorem test_decode_rejects :
    decodeWords [0] = .reject .zero ∧
    decodeWords [0x00000100] = .reject .opcode ∧
    decodeWords [0x3F800004] = .reject .opcode ∧
    decodeWords [0x40000004] = .reject .mbz ∧
    decodeWords [0x002D40A0] = .reject .length ∧
    decodeWords [0x002D40A3, 0x636C0001, 0, 0, 0] = .reject .literal ∧
    decodeWords [0x0600014C] = .reject .value ∧
    decodeWords [0x00040278] = .reject .value ∧
    decodeWords [0x000000FC] = .instr (.factoryTest 0xFC) := by decide +kernel

/-- Only its own length of words is read, and the rest of the bytes stay (R51, R7). -/
theorem test_decode_bytes :
    (decodeBytes [0x04, 0xA5, 0x14, 0x01, 0xC0, 0x00, 0x80, 0x01]).1 = .instr (.mul 5 5 5) ∧
    (decodeBytes [0x04, 0xA5, 0x14, 0x01, 0xC0, 0x00, 0x80, 0x01]).2 = [0xC0, 0x00, 0x80, 0x01] := by
  constructor <;> decide +kernel

/-! ### Small states -/

/-- What an instruction leaves, and whether it answers a next state. -/
def after (i : Instr) (s : State) : State := match exec i s with | .next t => t | _ => s
@[inherit_doc after] def runs (i : Instr) (s : State) : Bool := match exec i s with | .next _ => true | _ => false
/-- The trap that an instruction took: its CAUSE and EADDR; none where it took none. -/
def trapOf (i : Instr) (s : State) : Option (Word × Word) :=
  let t := (after i s).th
  if runs i s && t.trapped then some (t.cause, t.eaddr) else none
/-- Whether an instruction left its thread waiting. -/
def waits (i : Instr) (s : State) : Bool := runs i s && (after i s).th.waiting
/-- Whether a computation succeeds. -/
def isOk {ε α : Type} (r : Except ε α) : Bool := match r with | .ok _ => true | .error _ => false
/-- What a computation answers, where it succeeds. -/
def valueOf {ε α : Type} (r : Except ε α) : Option α := match r with | .ok x => some x | .error _ => none
/-- The state that a computation of a value and a state leaves. -/
def stateOf {ε α : Type} (r : Except ε (α × State)) (s : State) : State := match r with | .ok x => x.2 | .error _ => s
/-- The state that a computation leaves. -/
def leftBy (r : Run State) (s : State) : State := match r with | .ok x => x | .error _ => s

/-- A thread of task 7 on slot 0 of a core, with a partition of 8 KiB. -/
def user (core : Nat) : Thread :=
  { live := true, num := 4 * core, asid := 1, pc := 0x10000, tvec := 0x20000, spsize := 0x2000, segCount := 1, taskid := 7, scopeid := 3 }

/-- Page tables that map the first GiB of space 1 onto itself, to read, write and execute. -/
def pages : List Host.Cell := [(0x1000, 0x01), (0x1001, 0x20), (0x2000, 0x01), (0x2001, 0x30), (0x3000, 0x3B)]

/-- Card 5, of four records of 16 bytes and one thread. -/
def card : Card :=
  { id := 5, flags := 0, pwidth := 1, cls := 3, chunkf := 1, xbound := 1, rsize := 16, rcount := 4, minchunk := 1, rbase := 0x40000,
    entry := 0x10000, scratch := 1, spill := 0, threads := 1, mset := 0, budget := 0, target := 0, footprint := 0, lease := 0,
    scope := 3, asid := 1, submitter := none, host := none, watched := false, next := 2, count := 1 }

/-- Task 7 of that card, with two records. -/
def task (core : Nat) : Task :=
  { id := 7, card := 5, asid := 1, scope := 3, stage := .running, slots := [4 * core], live := [4 * core], chunk := (0, 2),
    deals := [(0, 2)] }

/-- The device with that thread in focus: scope 2 is a root and scope 3 the card's. -/
def onCore (core : Nat) : State :=
  { th := user core
    mem := { dram := pages }
    welt := { run := true, ready := true, roots := [(1, 0x1001)] }
    dies := Vector.replicate 8 { live := true, fenced := false }
    cards := [(5, card)]
    tasks := [(7, task core)]
    scopes := [(2, { parent := 0, state := 1, kind := 0 }), (3, { parent := 2, state := 1, kind := 1 })]
    nextId := 8 }

/-- Registers set, in order. -/
def with_ (rs : List (DReg × Word)) (s : State) : State := rs.foldl (fun s r => s.setD r.1 r.2) s

theorem lookup_shifted {α : Type} (f : Nat → α) (b k : Nat) : ∀ l : List Nat, k ∈ l → lookup (b + k) (l.map fun j => (b + j, f j)) = some (f k)
  | [], h => absurd h List.not_mem_nil
  | j :: l, h => by
    simp only [List.map_cons, lookup]
    by_cases e : j = k
    · simp [e]
    · rw [if_neg (by omega)]
      exact lookup_shifted f b k l ((List.mem_cons.mp h).resolve_left fun h => e h.symm)

/-- A table in which every number from 1 to `n` is in use. -/
def tableOf {α : Type} (n : Nat) (x : α) : List (Nat × α) := (List.range n).map fun j => (1 + j, x)

theorem lookup_tableOf {α : Type} {n id : Nat} (x : α) (h : 1 ≤ id) (h' : id ≤ n) : lookup id (tableOf n x) = some x := by
  have := lookup_shifted (fun _ => x) 1 (id - 1) (List.range n) (List.mem_range.mpr (by omega))
  rwa [show 1 + (id - 1) = id by omega] at this

/-! ### Scalar instructions -/

def nums : State := with_ [(4, 7), (5, 0xFFFFFFFFFFFFFFFE), (6, 0x8000000000000000), (7, 0xFFFFFFFFFFFFFFFF)] (onCore 0)

/-- Wraps and signs (R84, R86). -/
theorem test_arith :
    (after (.add 3 5 4) nums).getD 3 = 5 ∧ (after (.sub 3 4 5) nums).getD 3 = 9 ∧ (after (.mul 3 4 5) nums).getD 3 = 0xFFFFFFFFFFFFFFF2 ∧
    (after (.mulh 3 5 4) nums).getD 3 = 0xFFFFFFFFFFFFFFFF ∧ (after (.mulhn 3 5 4) nums).getD 3 = 6 ∧ (after (.min 3 4 5) nums).getD 3 = 0xFFFFFFFFFFFFFFFE ∧
    (after (.minn 3 4 5) nums).getD 3 = 7 ∧ (after (.sra 3 6 4) nums).getD 3 = 0xFF00000000000000 ∧ (after (.sll 4 4 5) nums).getD 4 = 0xC000000000000000 ∧
    (after (.rol 3 6 4) nums).getD 3 = 0x40 ∧ (after (.add 3 5 4) nums).th.pc = 0x10004 ∧ (after (.addLit 3 5 4) nums).th.pc = 0x1000C := by
  decide +kernel

/-- R85: truncation, a zero divisor, the most negative number by minus one, and d0. -/
theorem test_divide :
    (after (.div 3 5 4) nums).getD 3 = 0 ∧ (after (.rem 3 5 4) nums).getD 3 = 0xFFFFFFFFFFFFFFFE ∧
    (after (.div 3 6 7) nums).getD 3 = 0x8000000000000000 ∧ (after (.rem 3 6 7) nums).getD 3 = 0 ∧
    (after (.div 3 4 0) nums).getD 3 = 0xFFFFFFFFFFFFFFFF ∧ (after (.remn 3 4 0) nums).getD 3 = 7 ∧
    (after (.div 0 4 0) nums).th.fmode ≠ 0 ∧ (after (.div 0 4 0) nums).getD 0 = 0 ∧ (after (.divn 3 5 4) nums).th.fmode = 0 := by decide +kernel

/-- R86, R87 and R88. -/
theorem test_bits :
    (after (.clz 3 4) nums).getD 3 = 61 ∧ (after (.ctz 3 0) nums).getD 3 = 64 ∧ (after (.popc 3 5) nums).getD 3 = 63 ∧
    (after (.brev 3 6) nums).getD 3 = 1 ∧ (after (.bextLit 3 5 0x0401) nums).getD 3 = 15 ∧ (after (.binsLit 4 7 0x0408) nums).getD 4 = 0xF07 ∧
    trapOf (.bextLit 3 5 0x80) nums = some (0x109, 0) ∧ (after (.bextLit 3 7 0x403E) nums).getD 3 = 3 ∧
    (after (.slt 3 5 4) nums).getD 3 = 1 ∧ (after (.sltn 3 5 4) nums).getD 3 = 0 ∧ (after (.sltnImm 3 4 (-1)) nums).getD 3 = 1 := by decide +kernel

/-- The hypotheses of ScalarOperationsWriteTheirResult, of DivisionWritesItsResult and of CountsAndPredicatesWriteTheirResult. -/
theorem witness_scalar_tables :
    (∃ r, arithResult nums (.add 3 5 4) = some r) ∧ (∃ r, logicResult nums (.sra 0 6 4) = some r) ∧ (∃ r, selectResult nums (.lidx 3) = some r) ∧
    (∃ d, divisionOf nums (.div 0 4 0) = some d ∧ d.divisor = 0) ∧ (∃ d, divisionOf nums (.rem 3 6 7) = some d ∧ d.divisor ≠ 0) ∧
    (∃ p, countOf nums (.clz 3 4) = some (3, p)) ∧ (∃ p, predResult nums (.pnot 1 2) = some (1, p)) :=
  ⟨⟨_, rfl⟩, ⟨_, rfl⟩, ⟨_, rfl⟩, ⟨_, rfl, by decide +kernel⟩, ⟨_, rfl, by decide +kernel⟩, ⟨_, rfl⟩, ⟨_, rfl⟩⟩

/-- CountsFieldsAndPredicatesWriteTheirResult: a width of 64 is in form, one of 65 and a stray bit are not. -/
theorem witness_bit_fields :
    (∃ f, fieldOf nums (.bextLit 3 5 0x4000) = some f ∧ f.ok) ∧ (∃ f, fieldOf nums (.binsLit 3 5 0x4100) = some f ∧ ¬ f.ok) ∧
    (∃ f, fieldOf nums (.bext 3 4 6) = some f ∧ ¬ f.ok) := by
  refine ⟨⟨_, rfl, fun i h => ?_, by decide +kernel⟩, ⟨_, rfl, fun h => absurd h.2 (by decide +kernel)⟩, ⟨_, rfl, fun h => ?_⟩⟩
  · have h' : (0x4000 : Word).getLsbD i = true := h
    clear h
    rcases Nat.lt_or_ge i 64 with hi | hi
    · revert h'; revert hi; revert i; decide +kernel
    · rw [BitVec.getLsbD_of_ge _ _ hi] at h'; cases h'
  · have := h.1 63 (by decide +kernel)
    omega

/-- ScalarNamesFollowTheLoopLevel: a thread at level 0 and one at level 4; names of the bank, of a frame, and both ends (R20). -/
theorem witness_names :
    (user 0).lvl ≤ 4 ∧ ({ user 0 with lvl := 4 } : Thread).lvl ≤ 4 ∧ (16 : DReg).toNat = 16 + 0 ∧ (23 : DReg).toNat = 16 + 7 ∧
    (31 : DReg).toNat = 24 + 7 ∧ ({ (user 0).setD 16 5 with lvl := 1 } : Thread).getD 16 = 0 ∧
    ({ ({ (user 0).setD 16 5 with lvl := 1 } : Thread).setD 16 9 with lvl := 0 } : Thread).getD 24 = 9 ∧
    ({ ({ (user 0).setD 16 5 with lvl := 1 } : Thread).setD 16 9 with lvl := 0 } : Thread).getD 16 = 5 := by decide +kernel

/-- TransfersGoToTheirTarget: taken and not taken, direct and through a register, aligned and not. -/
theorem witness_transfers :
    (∃ b, branchOf nums (.bne 4 5 7) = some b ∧ b.taken) ∧ (∃ b, branchOf nums (.beq 4 5 7) = some b ∧ ¬ b.taken) ∧
    (isDirectCall (.call 1) ∧ ∃ x l, jumpOf nums (.call 1) = some (x, some l)) ∧
    (¬ isDirectCall (.callr 6) ∧ ∃ x l, jumpOf nums (.callr 6) = some (x, l) ∧ x.toNat % 4 = 0) ∧
    (¬ isDirectCall (.jr 4) ∧ ∃ x l, jumpOf nums (.jr 4) = some (x, l) ∧ x.toNat % 4 ≠ 0) :=
  ⟨⟨_, rfl, by show nums.getD 4 ≠ nums.getD 5; decide +kernel⟩, ⟨_, rfl, by show ¬ nums.getD 4 = nums.getD 5; decide +kernel⟩, ⟨trivial, _, _, rfl⟩,
    ⟨id, _, _, rfl, by decide +kernel⟩, ⟨id, _, _, rfl, by decide +kernel⟩⟩

/-- R90, R91: targets, links and IFETCH ALIGN. -/
theorem test_transfers :
    (after (.beq 4 4 0x3FFF) nums).th.pc = 0xFFFC ∧ (after (.beq 4 5 7) nums).th.pc = 0x10004 ∧ (after (.bltn 4 5 2) nums).th.pc = 0x10008 ∧
    (after (.call 0xFFFFFF) nums).th.pc = 0xFFFC ∧ (after (.call 0xFFFFFF) nums).getD 1 = 0x10004 ∧ (after (.callX 4) nums).getD 1 = 0x1000C ∧
    trapOf (.callr 4) nums = some (0x303, 7) ∧ (after (.callr 4) nums).getD 1 = 0 := by decide +kernel

/-- HardwareLoopsOpenRepeatAndClose: a count and none at level 3, level 4, level 0, the last turn and another. -/
def looping (index count : Word) : State :=
  { nums with th := { nums.th with lvl := 1, loops := nums.th.loops.set 0 ⟨0x10010, 0x10020, count, index⟩ } }

theorem witness_loops :
    loopOf (.loop 4 5) = some (4, 5, 4) ∧ loopOf (.loopX 0 3) = some (0, 3, 12) ∧ nums.getD 4 ≠ 0 ∧ nums.getD 0 = 0 ∧ nums.th.lvl = 0 ∧
    (looping 1 3).th.lvl ≠ 0 ∧ (looping 1 3).th.loops[0]? = some ⟨0x10010, 0x10020, 3, 1⟩ ∧ ((1 : Word) + 1).toNat < (3 : Word).toNat ∧
    (3 : Word).toNat ≤ ((2 : Word) + 1).toNat := by decide +kernel

theorem test_loops :
    (after (.loop 4 5) nums).th.lvl = 1 ∧ (after (.loop 4 5) nums).th.pc = 0x10004 ∧ (after (.loop 0 5) nums).th.pc = 0x10018 ∧
    (after .lend (looping 1 3)).th.pc = 0x10010 ∧ (after .lend (looping 2 3)).th.pc = 0x10004 ∧ (after .lend (looping 2 3)).th.lvl = 0 ∧
    (after .lbrk (looping 0 3)).th.pc = 0x10024 ∧ trapOf .lend nums = some (0x701, 0) ∧
    trapOf (.loop 0 5) { nums with th := { nums.th with lvl := 4 } } = some (0x700, 0) := by decide +kernel

/-! ### Vector instructions -/

/-- A vector register of lanes 0, 1, 2 ... times a factor, plus a start. -/
def ramp (start factor : Nat) : Lanes := lanesFrom fun k => .ofNat 32 (start + factor * k)

/-- v1 holds 0 to 31, v2 minus one in every lane, v3 1.0 in every lane; p1 lets lanes 0 and 31 execute. -/
def vecs : State :=
  { nums with th := (((nums.th.setV 1 (ramp 0 1)).setV 2 (ramp 0xFFFFFFFF 0)).setV 3 (ramp 0x3F800000 0)).setP 1 0x80000001 }

/-- Lane `k` of a register after an instruction. -/
def laneAfter (i : Instr) (s : State) (r : VReg) (k : Nat) : Lane := lane ((after i s).th.getV r) k

/-- R138 to R143: wraps, signs, predication, permutations. -/
theorem test_vector_integer :
    laneAfter (.vadd 4 1 2) vecs 4 0 = 0xFFFFFFFF ∧ laneAfter (.vadd 4 1 2) vecs 4 31 = 30 ∧ laneAfter (.vmulhX 4 2 1 true none) vecs 4 31 = 30 ∧
    laneAfter (.vmulh 4 2 1) vecs 4 31 = 0xFFFFFFFF ∧ laneAfter (.vaddX 1 1 1 false (some 1)) vecs 1 31 = 62 ∧
    laneAfter (.vaddX 1 1 1 false (some 1)) vecs 1 30 = 30 ∧ laneAfter (.vmaxn 4 1 2) vecs 4 3 = 0xFFFFFFFF ∧ laneAfter (.vmax 4 1 2) vecs 4 3 = 3 ∧
    laneAfter (.vslide 4 1 4) vecs 4 6 = 0 ∧ laneAfter (.vslide 4 1 4) vecs 4 7 = 0 ∧ laneAfter (.vslide 4 1 4) vecs 4 31 = 24 ∧
    laneAfter (.vlop3 4 1 2 3 0x80 false none) vecs 4 31 = 0 ∧ laneAfter (.vperm 4 1 2) vecs 4 0 = 31 := by decide +kernel

/-- R145 to R149: a sum, a comparison of the executing lanes, a conversion from integers. -/
theorem test_vector_float :
    laneAfter (.vfadd 4 3 3) vecs 4 5 = 0x40000000 ∧ laneAfter (.vcvt 4 1) vecs 4 3 = 0x40400000 ∧
    (after (.vfcmpX .lt 2 3 3 .f32 (some 1)) vecs).getP 2 = 0 ∧ (after (.vcmpX .eq 1 3 3 (some 1)) vecs).getP 1 = 0x80000001 ∧
    (after (.vcmpLtn 2 1 2) vecs).getP 2 = 0xFFFFFFFF ∧ (after (.vcmpLt 2 1 2) vecs).getP 2 = 0 := by decide +kernel

/-- R143, R144: extension by the type, and no executing lane. -/
theorem test_reductions :
    (after (.vredadd 3 2) vecs).getD 3 = 0xFFFFFFFFFFFFFFE0 ∧ (after (.vredaddX 3 2 true none) vecs).getD 3 = 0xFFFFFFE0 ∧
    (after (.vredminX 3 1 false (some 2)) vecs).getD 3 = 0x7FFFFFFF ∧ (after (.vredmaxX 3 1 false (some 1)) vecs).getD 3 = 31 := by decide +kernel

/-- R142: one lane out, zero-extended, and one lane in where its bit is set. -/
theorem test_lane_moves :
    (after (.vlane 3 2 31) vecs).getD 3 = 0xFFFFFFFF ∧ laneAfter (.vput 1 4 31) vecs 1 31 = 7 ∧ laneAfter (.vput 1 4 31) vecs 1 30 = 30 ∧
    laneAfter (.vputX 1 4 30 (some 1)) vecs 1 30 = 30 ∧ laneAfter (.vputX 1 4 31 (some 1)) vecs 1 31 = 7 := by decide +kernel

/-- VectorsWriteTheirLanes, VectorComparisonsWriteTheirBits, ReductionsWriteTheirValue, LaneMovesReachOneLane. -/
theorem witness_vector_tables :
    (∃ v, intVectorOf vecs (.vmadX 4 1 2 false (some 1)) = some v ∧ isOk (useStreams (some v.dst) v.srcs vecs) = true) ∧
    (∃ v, floatVectorOf vecs (.vfma 4 3 3) = some v ∧ isOk (useStreams (some v.dst) v.srcs vecs) = true) ∧
    (∃ v, vectorPredOf (.vfcmpX .lt 2 3 3 .f32 (some 1)) = some v ∧ isOk (useStreams none [v.b, v.c] vecs) = true) ∧
    (∃ r, reductionOf (.vredaddX 3 2 true none) = some r ∧ isOk (useStreams none [r.src] vecs) = true) ∧
    isOk (useStreams none [2] vecs) = true ∧ isOk (useStreams (some 31) [] vecs) = true := by
  and_intros <;> first
    | exact ⟨_, rfl, by decide +kernel⟩
    | decide +kernel

/-- v24 bound on generator 2 to two elements from a base, with the granules of the first full. -/
def bound (base : Nat) (count pos : Nat) : State :=
  { vecs with
    th := { vecs.th with binds := vecs.th.binds.set 0 (some ⟨2, base, 128, count, pos⟩) }
    mem := { vecs.mem with full := List.range 8, scratch := (List.range 128).map fun k => (k, .ofNat 8 k) } }

/-- VectorOperandsAreRegistersOrStreams: unbound registers, and a bound one before its end, at its end, and outside the partition. -/
theorem witness_streams :
    (∀ r ∈ (some (23 : VReg)).toList ++ [1, 31], bindingOf vecs.th r = none) ∧
    bindingOf (bound 0 2 0).th 24 = some ⟨2, 0, 128, 2, 0⟩ ∧ (∀ g ∈ granulesOf (scratchKey (bound 0 2 0).th 0) 128, isFull (bound 0 2 0) g = true) ∧
    scratchPoisoned (bound 0 2 0) (scratchKey (bound 0 2 0).th 0) 128 = false ∧ (0 : Nat) + 128 ≤ (bound 0 2 0).th.spsize.toNat ∧
    bindingOf (bound 0x1FF0 2 0).th 24 = some ⟨2, 0x1FF0, 128, 2, 0⟩ ∧ ¬ (0x1FF0 + 128 ≤ (bound 0x1FF0 2 0).th.spsize.toNat) ∧
    bindingOf (bound 0 2 2).th 24 = some ⟨2, 0, 128, 2, 2⟩ := by decide +kernel

/-- R22, R156: the element and the next position; past the end; outside; a wait on an empty granule. -/
theorem test_streams :
    laneAfter (.vmov 4 24) (bound 0 2 0) 4 1 = 0x07060504 ∧ ((after (.vmov 4 24) (bound 0 2 0)).th.binds[0]?).getD none = some ⟨2, 0, 128, 2, 1⟩ ∧
    trapOf (.vmov 4 24) (bound 0 2 2) = some (0x602, 0) ∧ trapOf (.vmov 24 1) (bound 0 2 2) = some (0x606, 0) ∧
    trapOf (.vmov 4 24) (bound 0x1FF0 2 0) = some (0x500, 0x1FF0) ∧ waits (.vmov 4 24) (bound 0 2 1) = true := by decide +kernel

/-- The pattern registers of a binding: base in d8, stride and count in d9. -/
def pattern (base stride count : Nat) : State := with_ [(8, .ofNat 64 base), (9, .ofNat 64 (2 ^ 32 * stride + count))] vecs

/-- Other slots of core 0 hold all four generators. -/
def noGenerator : State :=
  let s := pattern 0 16 1
  { s with others := [{ user 0 with num := 1, binds := (((((user 0).binds.set 0 (some ⟨0, 0, 16, 1, 0⟩)).set 1 (some ⟨1, 0, 16, 1, 0⟩)).set 2
    (some ⟨2, 0, 16, 1, 0⟩)).set 3 (some ⟨3, 0, 16, 1, 0⟩)) }] }

/-- BindingsOpenAndClose: no element, the last element ends with the partition, and no generator. -/
theorem witness_bindings :
    ((pattern 0 16 0).getD 9).extractLsb' 0 32 = 0 ∧
    (let s := pattern 0x1F70 16 2
     ((s.getD 9).extractLsb' 0 32).toNat = 2 ∧ ((s.getD 9).extractLsb' 32 32).toInt = 16 ∧ (s.getD 8).toNat % 16 = 0 ∧
       (s.getD 8).toNat + 16 + 128 ≤ s.th.spsize.toNat ∧ 0 ∉ generatorsHeld s (some 24)) ∧
    (∀ g, g < 4 → g ∈ generatorsHeld noGenerator (some 24)) := by decide +kernel

theorem test_bindings :
    trapOf (.vbind 24 8 9) (pattern 0 16 0) = some (0x109, 0) ∧ ((after (.vbind 24 8 9) (pattern 0x1F70 16 2)).th.binds[0]?).getD none = some ⟨0, 0x1F70, 16, 2, 0⟩ ∧
    trapOf (.vbind 24 8 9) noGenerator = some (0x608, 0) ∧ trapOf (.vbind 24 8 9) (pattern 0x1F80 16 2) = some (0x500, 0x1F90) ∧
    bindingOf (after (.vunbind 24) (bound 0 2 0)).th 24 = none := by decide +kernel

/-- The f32 values of R126's table in t8, but for 3.375, which R118 makes code 0x5B (log entry 64), and the scaled value of R127. -/
theorem test_tapered_conversions :
    ([(0x40533333, false, false), (0x407C0000, false, false), (0x453B8000, false, false), (0x453B8000, true, false), (0x453B8000, true, true),
      (0x80000000, false, false), (0xB8800000, false, false)].map fun x =>
        let r := convert .t8 .f32 .rne x.2.1 x.2.2 0 x.1
        (r.bits, r.flags.of, r.flags.uf, r.flags.nx)) =
      [(0x5A, false, false, true), (0x60, false, false, true), (0x7F, false, false, true), (0x7F, true, false, true), (0x7E, true, false, true),
       (0, false, false, false), (0, false, true, true)] ∧
    (convert .t8 .f32 .rne false false (-5) 0x42C00000).bits = 0x58 ∧ (convert .f32 .t8 .rne false false 5 0x58).bits = 0x42C00000 := by decide +kernel

/-- R114 to R117: a sum that is a tie, an overflow under two modes, an invalid product, a division by zero, and a difference that is zero. -/
theorem test_floating_lanes :
    (let f (r : LaneResult) := (r.lane, r.flags.nv, r.flags.dz, r.flags.of, r.flags.nx)
     [f (laneFadd .f32 .rne 0x3F800000 0x33800000), f (laneFmul .f32 .rne 0x7F000000 0x7F000000), f (laneFmul .f32 .rtz 0x7F000000 0x7F000000),
      f (laneFmul .f32 .rne 0x7F800000 0), f (laneFrcp .f32 .rne 0x80000000), f (laneFsub .f32 .rdn 0x3F800000 0x3F800000)]) =
      [(0x3F800000, false, false, false, true), (0x7F800000, false, false, true, true), (0x7F7FFFFF, false, false, true, true), (0x7FC00000, true, false, false, false),
       (0xFF800000, false, true, false, false), (0x80000000, false, false, false, false)] := by decide +kernel

/-! ### Scratch accesses -/

/-- d8 holds an offset; the last granule of the partition holds bytes 0xF0 to 0xFF and is full. -/
def part (o : Nat) : State :=
  let s := with_ [(8, .ofNat 64 o), (4, 0x1122334455667788)] (onCore 0)
  { s with mem := { s.mem with scratch := (List.range 16).map fun k => (0x1FF0 + k, .ofNat 8 (0xF0 + k)), full := [0x1FF] } }

/-- The same with a store of the thread to another partition under way, and with that wait over. -/
def posted (o : Nat) : State := let s := part o; { s with th := { s.th with cntRemote := 1 } }

/-- R96, R98: sign and zero extension at the last bytes, full bits, misalignment before the bound, and waits. -/
theorem test_scratch :
    (after (.lds .none .plain .s8 5 8 0) (part 0x1FFF)).getD 5 = 0xFFFFFFFFFFFFFFFF ∧ (after (.lds .none .plain .n16 5 8 14) (part 0x1FF0)).getD 5 = 0xFFFE ∧
    trapOf (.lds .none .plain .s64 5 8 4) (part 0x1FFC) = some (0x500, 0x2000) ∧ trapOf (.lds .none .plain .s64 5 8 1) (part 0x1FFC) = some (0x400, 0x1FFD) ∧
    (after (.lds .none .fullClear .s32 5 8 0) (part 0x1FFC)).mem.full = [] ∧ waits (.lds .none .full .s32 5 8 0) (part 0x1FE0) = true ∧
    waits (.lds .wrs .plain .s32 5 8 0) (posted 0x1FF0) = true ∧ trapOf (.stsX .none true .s16 4 8 (-2) none) (part 1) = some (0x400, 0xFFFFFFFFFFFFFFFF) ∧
    (after (.sts .none true .s16 4 8 2) (part 0)).mem.scratch.take 2 = [(2, 0x88), (3, 0x77)] ∧ (after (.sts .none true .s16 4 8 2) (part 0)).mem.full = [0, 0x1FF] := by
  decide +kernel

/-- ScratchAccessesMoveTheirBytes: every clause of a load and a store at the ends of the partition. -/
theorem witness_scratch :
    (∃ x, ownLoadOf (part 0x1FF8) (.lds .wrs .full .s64 5 8 0) = some x ∧ x.off % 8 = 0 ∧ x.off + 8 ≤ (part 0x1FF8).th.spsize.toNat ∧ WaitOver x.w (part 0x1FF8).th ∧
      isFull (part 0x1FF8) (scratchKey (part 0x1FF8).th x.off) = true ∧ scratchPoisoned (part 0x1FF8) (scratchKey (part 0x1FF8).th x.off) 8 = false) ∧
    (∃ x, ownLoadOf (part 0x1FE8) (.ldsX .none .fullClear .s64 5 8 0 none) = some x ∧ x.full ≠ .plain ∧ x.off % 8 = 0 ∧
      isFull (part 0x1FE8) (scratchKey (part 0x1FE8).th x.off) = false ∧ (part 0x1FE8).th.inHandler = false) ∧
    (∃ x, ownLoadOf (part 0) (.lds .none .plain .s16 5 8 1) = some x ∧ x.off % 2 ≠ 0) ∧
    (∃ x, ownLoadOf (part 0x2000) (.lds .none .plain .s8 5 8 0) = some x ∧ x.off % 1 = 0 ∧ (part 0x2000).th.spsize.toNat < x.off + 1) ∧
    (∃ x, ownStoreOf (part 0x1FFC) (.sts .wgs true .n32 4 8 0) = some (x, true) ∧ x.off % 4 = 0 ∧ x.off + 4 ≤ (part 0x1FFC).th.spsize.toNat ∧
      WaitOver x.w (part 0x1FFC).th) ∧
    (∃ x, ownStoreOf (part 2) (.sts .none false .n32 4 8 0) = some (x, false) ∧ x.off % 4 ≠ 0) ∧
    (∃ x, ownStoreOf (part 0) (.stsX .none false .n32 4 8 0x2000 none) = some (x, false) ∧ x.off % 4 = 0 ∧ (part 0).th.spsize.toNat < x.off + 4) := by
  refine ⟨⟨_, rfl, ?_, ?_, ⟨?_, ?_⟩, ?_, ?_⟩, ⟨_, rfl, ?_, ?_, ?_, ?_⟩, ⟨_, rfl, ?_⟩, ⟨_, rfl, ?_, ?_⟩, ⟨_, rfl, ?_, ?_, ?_⟩, ⟨_, rfl, ?_⟩, ⟨_, rfl, ?_, ?_⟩⟩
  all_goals first | decide +kernel | (show (0 : Nat) = 0; rfl)

/-- A handle of the tile with one full and one free slot. -/
def ringed (o : Nat) : State :=
  let s := part o
  { s with eng := { s.eng with handles := [(0, ⟨7, 0, 2, 0, [.full, .free], 1, 0, 0, 0, none, none⟩)] } }

/-- AccessesThroughHandles: a load that consumes and a store that produces. -/
theorem witness_handle_access :
    (∃ j s1 t, handleForm (.ldsX .none .plain .s32 5 8 0 (some (0, 1))) = some (true, 0, 1, j) ∧
      valueOf (waitHandle true (some (0, 1)) (ringed 0x1FF0)) = some s1 ∧ exec j s1 = .next t ∧ t.th.trapped = false ∧ t.th.waiting = false) ∧
    (∃ j s1 t, handleForm (.stsX .none false .s32 4 8 0 (some (0, 1))) = some (false, 0, 1, j) ∧
      valueOf (waitHandle false (some (0, 1)) (ringed 0)) = some s1 ∧ exec j s1 = .next t ∧ t.th.trapped = false ∧ t.th.waiting = false) :=
  ⟨⟨_, _, _, rfl, rfl, rfl, by decide +kernel, by decide +kernel⟩, ⟨_, _, _, rfl, rfl, rfl, by decide +kernel, by decide +kernel⟩⟩

/-- R23, R59: a need above the slots, an undefined handle, a wait, and an access that goes on. -/
theorem test_handle_access :
    trapOf (.ldsX .none .plain .s32 5 8 0 (some (0, 3))) (ringed 0x1FF0) = some (0x801, 0) ∧
    trapOf (.ldsX .none .plain .s32 5 8 0 (some (9, 0))) (ringed 0x1FF0) = some (0x800, 9) ∧
    waits (.ldsX .none .plain .s32 5 8 0 (some (0, 2))) (ringed 0x1FF0) = true ∧
    (after (.ldsX .none .plain .s32 5 8 0 (some (0, 1))) (ringed 0x1FF0)).getD 5 = 0xFFFFFFFFF3F2F1F0 := by decide +kernel

/-- Slot 4·5 + 1 in the same cluster has the whole second array page; d9 names it, d10 a core of another cluster, d11 an empty slot. -/
def peers (o : Nat) : State :=
  let s := with_ [(9, 0x10005), (10, 0x20), (11, 5)] (part o)
  { s with others := [{ user 5 with num := 21, spsize := 0x1000 }]
           mem := { s.mem with scratch := [(1638400, 0x80)] } }

/-- PeerAccessesReachTheCluster: every clause, at the end of the target's partition. -/
theorem witness_peers :
    (∃ x, peerLoadOf (peers 0xFFF) (.ldp .wrs .plain .s8 5 9 8) = some (9, x) ∧ x.off % 1 = 0 ∧ WaitOver x.w (peers 0xFFF).th ∧
      clusterOfCore (coreOf (peerOf ((peers 0xFFF).getD 9))) = clusterOfCore (coreOf (peers 0xFFF).th.num) ∧
      (∃ u, (peers 0xFFF).thread? (peerOf ((peers 0xFFF).getD 9)) = some u ∧ x.off + 1 ≤ u.spsize.toNat ∧
        scratchPoisoned (peers 0xFFF) (scratchKey u x.off) 1 = false) ∧ (∀ r ∈ (peers 0xFFF).stores, r.sender ≠ 0)) ∧
    (∃ x, peerStoreOf (peers 0xFF8) (.stpX .none true .s64 4 9 8 0) = some (9, x, true) ∧
      (∃ u, (peers 0xFF8).thread? (peerOf ((peers 0xFF8).getD 9)) = some u ∧ x.off + 8 ≤ u.spsize.toNat)) ∧
    (∃ x, peerLoadOf (peers 1) (.ldp .none .plain .s16 5 9 8) = some (9, x) ∧ x.off % 2 ≠ 0) ∧
    (∃ x, peerStoreOf (peers 0) (.stp .none false .s16 4 10 8) = some (10, x, false) ∧
      ¬ clusterOfCore (coreOf (peerOf ((peers 0).getD 10))) = clusterOfCore (coreOf (peers 0).th.num)) ∧
    (peers 0).thread? (peerOf ((peers 0).getD 11)) = none ∧ peerOf ((peers 0).getD 9) = 21 := by
  refine ⟨⟨_, rfl, ?_, ⟨?_, ?_⟩, ?_, ⟨_, rfl, ?_, ?_⟩, ?_⟩, ⟨_, rfl, ⟨_, rfl, ?_⟩⟩, ⟨_, rfl, ?_⟩, ⟨_, rfl, ?_⟩, ?_, ?_⟩
  all_goals decide +kernel

theorem test_peers :
    (after (.ldp .none .plain .s8 5 9 8) (peers 0)).getD 5 = 0xFFFFFFFFFFFFFF80 ∧ trapOf (.ldp .none .plain .s16 5 9 8) (peers 0xFFF) = some (0x401, 0xFFF) ∧
    trapOf (.ldp .none .plain .s8 5 9 8) (peers 0x1000) = some (0x501, 0x1000) ∧ trapOf (.stp .none false .s8 4 10 8) (peers 0) = some (0x502, 0) ∧
    trapOf (.stp .none false .s8 4 11 8) (peers 0) = some (0x501, 0) ∧ (after (.stp .none true .s16 4 9 8) (peers 2)).th.cntRemote = 1 ∧
    (after (.stp .none true .s16 4 9 8) (peers 2)).stores = [⟨0, 7, 21, 1638402, [0x88, 0x77], true, 0⟩] := by decide +kernel

/-- FullBitRangesAreSetAndCleared: an empty range, the whole partition, one granule too many, and both misalignments. -/
theorem witness_ranges :
    (let s := with_ [(9, 0)] (part 0x2000); (s.getD 8).toNat % 16 = 0 ∧ (s.getD 9).toNat % 16 = 0 ∧ (s.getD 8).toNat + (s.getD 9).toNat ≤ s.th.spsize.toNat) ∧
    (let s := with_ [(9, 0x2000)] (part 0); (s.getD 8).toNat + (s.getD 9).toNat ≤ s.th.spsize.toNat) ∧
    (let s := with_ [(9, 16)] (part 0x2000); s.th.spsize.toNat < (s.getD 8).toNat + (s.getD 9).toNat) ∧ ((part 8).getD 8).toNat % 16 ≠ 0 ∧
    (let s := with_ [(9, 8)] (part 16); (s.getD 8).toNat % 16 = 0 ∧ (s.getD 9).toNat % 16 ≠ 0) := by decide +kernel

theorem test_ranges :
    (after (.fes 8 9) (with_ [(9, 32)] (part 16))).mem.full = [1, 2, 0x1FF] ∧ (after (.fec 8 9) (with_ [(9, 16)] (part 0x1FF0))).mem.full = [] ∧
    trapOf (.fec 8 9) (with_ [(9, 8)] (part 16)) = some (0x400, 8) ∧ trapOf (.fes 8 9) (with_ [(9, 16)] (part 0x2000)) = some (0x500, 0x2000) := by decide +kernel

/-- d2 holds a stack pointer. -/
def stacked (sp : Word) : State := let s := with_ [(2, sp), (3, 5)] (part 0x1FF0); { s with th := { s.th with spilltop := 16 } }

/-- StackMovesNamedRegisters: pushes down to SPILLTOP, pops up to the end of the partition. -/
theorem witness_stack :
    stackOf (.push 3) = some (true, 8, 4) ∧ stackOf (.popX 0x88) = some (false, 0x88, 12) ∧ (8 : BitVec 32).getLsbD 0 = false ∧ (8 : BitVec 32).getLsbD 2 = false ∧
    namedRegs 0x88 = [3, 7] ∧ ((stacked 24).getD 2).toNat % 8 = 0 ∧ (stacked 24).th.spilltop.toInt ≤ (24 : Int) - 8 * 1 ∧ (stacked 24).th.lvl ≤ 4 ∧
    ((stacked 0x1FF0).getD 2).toNat + 8 * 2 ≤ (stacked 0x1FF0).th.spsize.toNat ∧
    scratchPoisoned (stacked 0x1FF0) (scratchKey (stacked 0x1FF0).th 0x1FF0) 16 = false := by decide +kernel

theorem test_stack :
    (after (.push 3) (stacked 24)).getD 2 = 16 ∧ scratchNat (after (.push 3) (stacked 24)) 16 8 = 5 ∧ (after (.popX 0x88) (stacked 0x1FF0)).getD 3 = 0xF7F6F5F4F3F2F1F0 ∧
    (after (.popX 0x88) (stacked 0x1FF0)).getD 7 = 0xFFFEFDFCFBFAF9F8 ∧ (after (.popX 0x88) (stacked 0x1FF0)).getD 2 = 0x2000 ∧
    trapOf (.pop 3) (stacked 0x2000) = some (0x500, 0x2000) ∧ trapOf (.push 3) (stacked 0x14) = some (0x400, 0x14) := by decide +kernel

/-- StackMovesNamedRegisters: vector registers. -/
theorem witness_vector_stack :
    (∀ r ∈ namedRegs 0x01000002, bindingOf (stacked 0x1F00).th (.ofNat 5 r) = none) ∧ namedRegs 0x01000002 = [1, 24] ∧ ((stacked 0x1F00).getD 2).toNat % 128 = 0 ∧
    (stacked 0x1F00).th.spilltop.toInt ≤ (0x1F00 : Int) - 128 * 2 ∧ 0x1F00 + 128 * 2 ≤ (stacked 0x1F00).th.spsize.toNat ∧
    scratchPoisoned (stacked 0x1F00) (scratchKey (stacked 0x1F00).th 0x1F00) 256 = false := by decide +kernel

theorem test_vector_stack :
    (after (.pushV 2) { vecs with th := (with_ [(2, 0x2000)] vecs).th }).getD 2 = 0x1F80 ∧
    scratchNat (after (.pushV 2) { vecs with th := (with_ [(2, 0x2000)] vecs).th }) 0x1FFC 4 = 31 ∧
    laneAfter (.popV 0x10) (stacked 0x1F80) 4 31 = 0xFFFEFDFC := by decide +kernel

/-- An overflow area at an address, with its word in the L1, and a stack pointer at SPILLTOP. -/
def spilled (ovf : Nat) : State :=
  let s := stacked 16
  { s with th := { s.th with spillovf := .ofNat 64 ovf }
           mem := { s.mem with l1 := [⟨0, 1, 0x40000 / 4, 0, 9, false, true, false, 0, 7, false, false, false, false⟩, ⟨0, 1, 0x40004 / 4, 0, 0, false, true, false, 0, 7, false, false, false, false⟩] } }

/-- StackMovesNamedRegisters, the overflow area: none, a misaligned one, and a word below and at its end. -/
theorem witness_overflow :
    ((spilled 0x40000).getD 2).toNat % 8 = 0 ∧ ((spilled 0x40000).getD 2 - 8).toInt < (spilled 0x40000).th.spilltop.toInt ∧
    isOk (storeGlobal 1 .normal 0x40000 8 5 ((spilled 0x40000).setD 2 8)) = true ∧ (spilled 0).th.spillovf = 0 ∧ (spilled 4).th.spillovf.toNat % 8 ≠ 0 ∧
    ((with_ [(2, 8)] (spilled 0x40008)).getD 2).toInt < (spilled 0x40008).th.spilltop.toInt ∧ isOk (loadGlobal 1 .normal 0x40000 8 (with_ [(2, 8)] (spilled 0x40008))) = true := by
  decide +kernel

theorem test_overflow :
    trapOf (.push 3) (spilled 0) = some (0xC00, 0) ∧ trapOf (.push 3) (spilled 4) = some (0x402, 4) ∧
    (after (.push 3) (spilled 0x40000)).th.spillovf = 0x40008 ∧ (after (.push 3) (spilled 0x40000)).getD 2 = 8 ∧
    (after (.pop 3) (with_ [(2, 8)] (spilled 0x40008))).getD 3 = 9 ∧ (after (.pop 3) (with_ [(2, 8)] (spilled 0x40008))).th.spillovf = 0x40000 := by decide +kernel

/-- d8 an offset, d9 a stride; v1 an index register of 0 to 31, p1 lanes 0 and 31. -/
def laned (o stride : Nat) : State :=
  let s := with_ [(9, .ofNat 64 stride)] (part o)
  { s with th := { s.th with v := vecs.th.v, p := vecs.th.p } }

/-- VectorAccessesMoveTheirLanes: the last element ends with the partition; one lane misaligned; one lane outside. -/
theorem witness_vector_accesses :
    (∃ x, vecLoadOf (laned 0x1F80 0) (.vld .wrs 4 8 0) = some x ∧ (∀ k ∈ Safety.lanesOf (govMask (laned 0x1F80 0).th x.gov), x.off k % 4 = 0 ∧
      x.off k + 4 ≤ (laned 0x1F80 0).th.spsize.toNat ∧ scratchPoisoned (laned 0x1F80 0) (scratchKey (laned 0x1F80 0).th (x.off k)) 4 = false) ∧
      isOk (useStreams (some 4) [] (laned 0x1F80 0)) = true) ∧
    (∃ x, vecLoadOf (laned 0x1F84 0) (.vldX .none 4 8 0 (some 1) none) = some x ∧ Safety.lanesOf (govMask (laned 0x1F84 0).th x.gov) = [0, 31] ∧ x.off 0 % 4 = 0 ∧
      x.off 0 + 4 ≤ 0x2000 ∧ x.off 31 % 4 = 0 ∧ ¬ x.off 31 + 4 ≤ (laned 0x1F84 0).th.spsize.toNat ∧ bindingOf (laned 0x1F84 0).th x.reg = none) ∧
    (∃ x, vecLoadOf (laned 4 2) (.vlds .none 4 8 9) = some x ∧ x.off 0 % 4 = 0 ∧ x.off 1 % 4 ≠ 0) ∧
    (∃ x, vecStoreOf (laned 0x1FFC 0) (.vsts .none 1 8 9) = some x ∧ (∀ k ∈ Safety.lanesOf (govMask (laned 0x1FFC 0).th x.gov), x.off k % 4 = 0 ∧
      x.off k + 4 ≤ (laned 0x1FFC 0).th.spsize.toNat) ∧ isOk (useStreams none [1] (laned 0x1FFC 0)) = true) ∧
    (∃ x, vecStoreOf (laned 0x1F84 0) (.vstX .none 1 8 0 (some 1) none) = some x ∧ x.off 31 % 4 = 0 ∧ ¬ x.off 31 + 4 ≤ (laned 0x1F84 0).th.spsize.toNat) ∧
    (∃ x, vecStoreOf (laned 2 0) (.vst .none 1 8 0) = some x ∧ x.off 0 % 4 ≠ 0) := by
  and_intros <;> exact ⟨_, rfl, by decide +kernel⟩

/-- R151, R152: words, one offset for all lanes keeps the highest, the lowest bad lane reports. -/
theorem test_vector_accesses :
    laneAfter (.vld .none 4 8 0) (laned 0x1F80 0) 4 31 = 0xFFFEFDFC ∧ scratchNat (after (.vsts .none 1 8 9) (laned 0x1FFC 0)) 0x1FFC 4 = 31 ∧
    trapOf (.vldX .none 4 8 0 (some 1) none) (laned 0x1F84 0) = some (0x500, 0x2000) ∧ trapOf (.vlds .none 4 8 9) (laned 4 2) = some (0x400, 6) ∧
    laneAfter (.vldX .none 1 8 0 (some 1) none) (laned 0x1F80 0) 1 30 = 30 := by decide +kernel

/-- GathersReadOrMaskTheirLanes: a sentinel below the bound, a lane beyond it, a lane at the end, and the trap of the plain form. -/
theorem witness_gathers :
    (∃ g, gatherOf (laned 0x1F80 0) (.vldxZeroX .none 4 8 1 31 0 (some 1) none) = some g ∧ g.base.toNat % 4 = 0 ∧ g.isSentinel 0 ∧ g.zero = true ∧ g.isBeyond 31 ∧
      isOk (useStreams (some 4) [1] (laned 0x1F80 0)) = true ∧ WaitOver g.w (laned 0x1F80 0).th) ∧
    (∃ g, gatherOf (laned 0x1F80 0) (.vldx .none 4 8 1) = some g ∧ ¬ g.isBeyond 31 ∧ ¬ g.isSentinel 31 ∧ g.off 31 + 4 ≤ (laned 0x1F80 0).th.spsize.toNat) ∧
    (∃ g, gatherOf (laned 0x1F80 0) (.vldxX .none 4 8 1 31 0xFFFF none none) = some g ∧ g.zero = false ∧ ¬ g.isSentinel 31 ∧ g.isBeyond 31 ∧ ¬ g.isBeyond 30 ∧
      bindingOf (laned 0x1F80 0).th g.idx = none ∧ bindingOf (laned 0x1F80 0).th g.dst = none) := by
  refine ⟨⟨_, rfl, ?_, ⟨?_, rfl⟩, rfl, ⟨?_, ?_⟩, ?_, trivial⟩, ⟨_, rfl, fun h => h.1 rfl, fun h => h.1 rfl, ?_⟩,
    ⟨_, rfl, rfl, fun h => h.1 rfl, ⟨?_, ?_⟩, fun h => absurd h.2 ?_, ?_, ?_⟩⟩
  all_goals decide +kernel

theorem test_gathers :
    laneAfter (.vldx .none 4 8 1) (laned 0x1F80 0) 4 31 = 0xFFFEFDFC ∧ (after (.vldxZeroX .none 4 8 1 31 0 (some 1) none) (laned 0x1F80 0)).getP 1 = 0 ∧
    laneAfter (.vldxZeroX .none 4 8 1 31 0 (some 1) none) (laned 0x1F80 0) 4 31 = 0 ∧ trapOf (.vldxX .none 4 8 1 31 0xFFFF none none) (laned 0x1F80 0) = some (0x503, 0x1FFC) := by
  decide +kernel

/-- A region of two boxes over tensor 2. -/
def someRegion : Region := { tid := 2, tv := true, rank := 1, boxes := [[⟨0, 4, 0⟩], [⟨8, 12, 0⟩]] }

/-- q1 holds it, and the last 320 bytes of the partition are a slot of zeros. -/
def slotted (o : Nat) : State :=
  let s := part o
  { s with th := s.th.setQ 1 someRegion, mem := { s.mem with scratch := (List.range 320).map fun k => (0x1EC0 + k, 0) } }

/-- RegionSlotsLoadAndStore: the slot at the end, one granule further, a misaligned one, and words that encode no region. -/
theorem witness_region_slots :
    (∃ w a o len, regionAccessOf (slotted 0x1EC0) (.rld .wgs 2 8 0) = some (w, a, o, len, true) ∧ o % 16 = 0 ∧ o + 320 ≤ (slotted 0x1EC0).th.spsize.toNat ∧
      WaitOver w (slotted 0x1EC0).th ∧ scratchPoisoned (slotted 0x1EC0) (scratchKey (slotted 0x1EC0).th o) 320 = false) ∧
    (∃ w a o len, regionAccessOf (slotted 0x1ED0) (.rstX .none 1 8 0) = some (w, a, o, len, false) ∧ o % 16 = 0 ∧ (slotted 0x1ED0).th.spsize.toNat < o + 320) ∧
    (∃ w a o len, regionAccessOf (slotted 0) (.rst .none 1 8 8) = some (w, a, o, len, false) ∧ o % 16 ≠ 0) ∧
    slotOk (List.replicate 40 0) = true ∧ slotOk someRegion.slotWords = true ∧ slotOk (List.replicate 40 0xFFFFFFFFFFFFFFFF) = false := by
  refine ⟨⟨_, _, _, _, rfl, ?_, ?_, ?_, ?_⟩, ⟨_, _, _, _, rfl, ?_, ?_⟩, ⟨_, _, _, _, rfl, ?_⟩, ?_, ?_, ?_⟩
  all_goals first | decide +kernel | (show (0 : Nat) = 0; rfl)

theorem test_region_slots :
    trapOf (.rld .none 2 8 0) (slotted 0x1ED0) = some (0x500, 0x1ED0) ∧
    trapOf (.rld .none 2 8 8) (slotted 0) = some (0x400, 8) ∧ regionOfSlot someRegion.slotWords = someRegion ∧
    scratchNat (after (.rst .none 1 8 0) (slotted 0)) 0 8 = someRegion.header.toNat := by decide +kernel

/-! ### Regions -/

/-- A region over tensor 1 from boxes (lo, hi, stride code) by dimension. -/
def reg2 (bs : List (List (Int × Int × Nat))) : Region :=
  { tid := 1, tv := true, rank := 2, boxes := bs.map fun b => b.map fun d => ⟨d.1, d.2.1, d.2.2⟩ }
/-- A region over tensor 3, of rank 1. -/
def reg1 (bs : List (Int × Int × Nat)) : Region := { tid := 3, tv := true, rank := 1, boxes := bs.map fun d => [⟨d.1, d.2.1, d.2.2⟩] }

/-- An 8 × 8 tensor 1 and a tensor 3 of extent 64, of one-byte elements in global memory. -/
def square : Tensor := { format := 0, rank := 2, base := 0x100000, ext := [8, 8], pitch := [8, 1] }
@[inherit_doc square] def line : Tensor := { format := 0, rank := 1, base := 0x200000, ext := [64], pitch := [1] }

/-- q1 and q2 of the L-shaped difference, q3 overflowed, q4 ragged, q5 and q6 of the over-approximated union, q7 what q1 holds at last. -/
def regions : State :=
  let th := { (user 0) with tensors := [(1, square), (3, line)] }
  let th := ((th.setQ 1 (reg2 [[(0, 4, 0), (0, 4, 0)]])).setQ 2 (reg2 [[(1, 5, 0), (2, 6, 0)]])).setQ 3 { reg2 [] with ovf := true }
  let th := (th.setQ 4 { reg2 [[(0, 4, 0), (0, 4, 0)]] with rag := true }).setQ 5
    (reg1 [(0, 1, 0), (3, 4, 0), (10, 12, 0), (20, 21, 0), (30, 32, 0), (40, 41, 0), (50, 51, 0), (60, 61, 0)])
  { onCore 0 with th := (th.setQ 6 (reg1 [(33, 34, 0)])).setQ 7 (reg2 [[(0, 1, 0), (0, 4, 0)], [(1, 4, 0), (0, 6, 0)], [(4, 5, 0), (2, 6, 0)]]) }

/-- What a region register holds after an instruction. -/
def regionAfter (i : Instr) (s : State) (q : QReg) : Region := (after i s).getQ q

/-- The worked decompositions of R163. -/
theorem test_region_sets :
    regionAfter (.rsub false 8 2 1) regions 8 = reg2 [[(1, 4, 0), (4, 6, 0)], [(4, 5, 0), (2, 6, 0)]] ∧ regionAfter (.runi false 8 1 2) regions 8 = regions.getQ 7 ∧
    (after (.rcells 3 7) regions).getD 3 = 26 ∧
    regionUnion false (reg2 [[(0, 4, 0), (0, 8, 1)]]) (reg2 [[(2, 6, 0), (1, 8, 1)]]) =
      reg2 [[(0, 2, 0), (0, 7, 1)], [(2, 4, 0), (0, 8, 0)], [(4, 6, 0), (1, 8, 1)]] := by decide +kernel

/-- The rank-1 cases of R164. -/
theorem test_region_strides :
    regionInter false (reg1 [(0, 8, 1)]) (reg1 [(0, 8, 2)]) = reg1 [(0, 5, 2)] ∧ regionInter false (reg1 [(0, 8, 1)]) (reg1 [(2, 8, 2)]) = reg1 [(2, 7, 2)] ∧
    regionInter false (reg1 [(0, 8, 1)]) (reg1 [(1, 8, 1)]) = reg1 [] ∧ regionDiff false (reg1 [(0, 8, 0)]) (reg1 [(0, 8, 1)]) = reg1 [(1, 8, 1)] ∧
    regionDiff false (reg1 [(0, 8, 0)]) (reg1 [(0, 8, 2)]) = reg1 [(1, 4, 0), (5, 8, 0)] ∧
    regionUnion false (reg1 [(0, 8, 1)]) (reg1 [(1, 8, 1)]) = reg1 [(0, 8, 0)] := by decide +kernel

/-- The over-approximated union of R166, and its exact form. -/
theorem test_region_merge :
    regionAfter (.runi true 8 5 6) regions 8 =
      { reg1 [(0, 1, 0), (3, 4, 0), (10, 12, 0), (20, 21, 0), (30, 34, 0), (40, 41, 0), (50, 51, 0), (60, 61, 0)] with apx := true } ∧
    regionAfter (.runi false 8 5 6) regions 8 = { reg1 [] with ovf := true } := by decide +kernel

/-- The split of R181 and the dilation of R179. -/
theorem test_region_parts :
    regionAfter (.rsplit false 8 7 9) (with_ [(9, 0x10003)] regions) 8 = reg2 [[(1, 2, 0), (4, 6, 0)], [(2, 3, 0), (0, 6, 0)], [(3, 4, 0), (0, 1, 0)]] ∧
    regionAfter (.rsplit false 8 7 9) (with_ [(9, 0x20003)] regions) 8 = reg2 [[(3, 4, 0), (1, 6, 0)], [(4, 5, 0), (2, 6, 0)]] ∧
    regionAfter (.rdil false 8 2 9) (with_ [(9, 0x20001)] regions) 8 = reg2 [[(0, 6, 0), (0, 8, 0)]] ∧
    trapOf (.rsplit false 8 7 9) (with_ [(9, 0x30003)] regions) = some (0x109, 0) := by decide +kernel

/-- Flags and forms (R169, R172, R185, R187). -/
theorem test_region_forms :
    trapOf (.runi false 8 1 3) regions = some (0x903, 0) ∧ trapOf (.runi false 8 4 3) regions = some (0xB04, 0) ∧ trapOf (.runi false 8 1 5) regions = some (0xB05, 0) ∧
    (after (.rtest 1 7 9) (with_ [(9, 0x00050001)] regions)).getP 1 = 1 ∧ (after (.rtest 1 7 9) (with_ [(9, 0x00050000)] regions)).getP 1 = 0 ∧
    trapOf (.rgetb 3 7 9) (with_ [(9, 0x30000)] regions) = some (0x109, 0) ∧ (after (.rgetb 3 7 9) (with_ [(9, 0x10101)] regions)).getD 3 = 6 ∧
    regionAfter (.rstr 8 1 9) (with_ [(9, 0x1FFFF)] regions) 8 = reg2 [[(-1, 3, 0), (1, 5, 0)]] ∧ trapOf (.rstr 8 1 9) (with_ [(9, 0x100000000)] regions) = some (0x109, 0) := by
  decide +kernel

/-- RegionInstructionsCheckAndComplete: an instruction that completes and one that traps. -/
theorem witness_region_ops :
    (∃ o, regionOpOf regions (.runi true 8 5 6) = some o ∧ o.checks.find? (fun c => !c.1) = none) ∧
    (∃ o, regionOpOf regions (.rint false 8 1 3) = some o ∧ (o.checks.find? (fun c => !c.1)).isSome = true) :=
  ⟨⟨_, rfl, by decide +kernel⟩, ⟨_, rfl, by decide +kernel⟩⟩

/-- RegionInstructionsCheckAndComplete, rbox: the last dimension, one past it, and an empty entry. -/
theorem witness_boxes :
    (∃ d, lookup 1 regions.th.tensors = some d ∧ (1 : BitVec 2).toNat < d.rank) ∧ tensorRank regions 1 ≤ (2 : BitVec 2).toNat ∧ tensorRank regions 2 ≤ (0 : BitVec 2).toNat :=
  ⟨⟨_, rfl, by decide +kernel⟩, by decide +kernel, by decide +kernel⟩

theorem test_boxes :
    regionAfter (.rbox 8 1 3 4 1 1 0) (with_ [(3, 1), (4, 6)] regions) 8 = reg2 [[(0, 8, 0), (1, 6, 1)]] ∧
    trapOf (.rbox 8 1 3 4 2 0 0) regions = some (0xB08, 0) ∧ trapOf (.rbox 8 2 3 4 0 0 0) regions = some (0xB08, 0) := by decide +kernel

/-- SetOperationsDenoteTheirSets and EqualCellsHaveEqualBoxes: regions with the dimensions of their rank; two ways to cut one set. -/
theorem witness_region_sets :
    Shaped (reg1 [(0, 8, 1)]) ∧ Shaped (reg1 [(1, 8, 1)]) ∧ compatible (reg1 [(0, 8, 1)]) (reg1 [(1, 8, 1)]) = true ∧
    (∀ b ∈ (reg1 [(0, 8, 1)]).boxes ++ (reg1 [(1, 8, 1)]).boxes, boxInS32 b = true) ∧
    (regionUnion false (reg1 [(0, 8, 1)]) (reg1 [(1, 8, 1)])).ovf = false ∧
    (∀ c, inRegion c (reg1 [(0, 2, 0)]) ↔ inRegion c (reg1 [(0, 1, 0), (1, 2, 0)])) := by
  have shaped (lo hi : Int) (k : Nat) : Shaped (reg1 [(lo, hi, k)]) := by
    intro b hb
    simp only [reg1, List.map_cons, List.map_nil, List.mem_singleton] at hb
    subst hb; rfl
  refine ⟨shaped 0 8 1, shaped 1 8 1, by decide +kernel, by decide +kernel, by decide +kernel, fun c => ?_⟩
  match c with
  | [] => simp [inRegion, inBox, reg1]
  | [x] =>
    have dim (lo hi : Int) : inBox [x] [⟨lo, hi, 0⟩] ↔ lo ≤ x ∧ x < hi := by
      constructor
      · intro h
        have := h.2 0 (by simp) (by simp)
        simp at this; omega
      · intro h
        refine ⟨rfl, fun j hj hk => ?_⟩
        match j, hj with
        | 0, _ => simp; omega
    simp only [inRegion, reg1, List.map_cons, List.map_nil, List.mem_cons, List.not_mem_nil, or_false, exists_eq_or_imp, exists_eq_left, dim]
    omega
  | x :: y :: r => simp [inRegion, inBox, reg1]

/-- RegionResultsHaveTheirCells: two regions of a rank with tight bounds, and an overflowed one; a tensor's dimension for rbox. -/
theorem witness_region_results :
    (∀ q ∈ [regions.getQ 1, regions.getQ 2], Shaped q) ∧ (∀ b ∈ (regions.getQ 1).boxes ++ (regions.getQ 2).boxes, boxInS32 b = true) ∧
    compatible (regions.getQ 1) (regions.getQ 2) = true ∧ square.ext.length = (regions.getQ 1).rank ∧ (∀ e ∈ square.ext, e < 2 ^ 31) ∧
    (∀ j, (1 : Nat).testBit j = true → j < (regions.getQ 1).rank) ∧ (regionSplit false 1 3 (regions.getQ 1)).ovf = false ∧
    (regionTranslate [2 ^ 31 - 4, 0] (regions.getQ 1)).ovf = true ∧ (regionTranslate [1, -1] (regions.getQ 1)).ovf = false ∧
    lookup 1 regions.th.tensors = some square ∧ (1 : Nat) < square.rank ∧ tensorRank regions 2 ≤ 0 := by
  have dropped (j : Nat) (h : (1 : Nat).testBit j = true) : j < (regions.getQ 1).rank := by
    cases j with
    | zero => decide
    | succ j => rw [Nat.testBit_succ, show (1 : Nat) / 2 = 0 from rfl, Nat.zero_testBit] at h; exact absurd h (by decide)
  refine ⟨?_, ?_, ?_, ?_, ?_, dropped, ?_, ?_, ?_, ?_, ?_, ?_⟩
  · simp only [Shaped]; decide +kernel
  all_goals decide +kernel

/-- R175 to R182: the cells of a hull, a clip, a projection and a translation. -/
theorem test_region_results :
    ((regionHull false (reg2 [[(0, 1, 0), (0, 1, 0)]]) (reg2 [[(3, 4, 0), (2, 3, 0)]])).boxes.length, (cellsInOrder 2 (regionHull false (reg2 [[(0, 1, 0), (0, 1, 0)]]) (reg2 [[(3, 4, 0), (2, 3, 0)]])).cells).length) = (1, 12) ∧
    (cellsInOrder 2 (regionClip false [8, 8] (reg2 [[(6, 12, 0), (7, 9, 0)]])).cells) = [[6, 7], [7, 7]] ∧
    (cellsInOrder 1 (regionProject false 1 none (reg2 [[(0, 4, 0), (2, 4, 0)]])).cells) = [[2], [3]] ∧
    (cellsInOrder 2 (regionTranslate [-1, 5] (reg2 [[(0, 1, 0), (0, 2, 0)]])).cells) = [[-1, 5], [-1, 6]] := by decide +kernel

/-! ### Engines -/

/-- Slot 0 of a core of tile 0 with the tensors and regions: q1 four cells of tensor 1, q2 two of them, q3 ragged by the table of tensor 2,
q4 overflowed, q8 ragged by the table of tensor 6, on a page that is not mapped. -/
def engine (core : Nat) : State :=
  let rag (t : Nat) : Region := { reg2 [[(1, 3, 0), (2, 4, 0)]] with tid := t, rag := true }
  let th := { user core with tensors := [(1, square), (2, { square with ltab := 0x8000, ltlen := 8 }), (3, line),
    (6, { square with ltab := 0x80000000, ltlen := 8 })] }
  { onCore core with
    th := ((((th.setQ 1 (reg2 [[(1, 3, 0), (2, 4, 0)]])).setQ 2 (reg2 [[(1, 2, 0), (2, 4, 0)]])).setQ 3 (rag 2)).setQ 4
      { reg2 [] with ovf := true }).setQ 8 (rag 6)
    mem := { dram := pages ++ [(0x8004, 3), (0x8008, 4)] } }

/-- What an operation reads of table entries as it issues, with the machine then. -/
def entriesRead (o : EngOp) (table : List Nat) (s : State) : Option (List EngData × State) :=
  match gatherSources o (table.map fun va => (.glob va, 4)) s with | .ok (.data ds, u) => some (ds, u) | _ => none

theorem lengths_read {o : EngOp} {table : List Nat} {s : State} (h : table ≠ []) (hs : (entriesRead o table s).isSome = true) :
    let x := (entriesRead o table s).get hs
    LengthsRead o table (x.1.map fun d => natOfBytes d.bytes) (x.1.any fun d => d.refused) s x.2 := by
  obtain ⟨x, hx⟩ := Option.isSome_iff_exists.mp hs
  have hg : (entriesRead o table s).get hs = x := by simp [hx]
  simp only [hg]
  unfold entriesRead at hx
  split at hx
  · next e => cases hx; exact .inr ⟨h, _, e, rfl, rfl⟩
  · cases hx

theorem no_lengths (o : EngOp) (s : State) : LengthsRead o [] [] false s s := .inl ⟨rfl, rfl, rfl, rfl⟩

theorem lengths_later {o : EngOp} {table : List Nat} {s : State} (h : table ≠ [])
    (hx : isOk (gatherSources o (table.map fun va => (.glob va, 4)) s) = false) : LengthsLater o table (table.map Loc.glob) s s := by
  refine ⟨h, .inr ⟨?_, rfl, rfl⟩⟩
  cases e : gatherSources o (table.map fun va => (.glob va, 4)) s with
  | error x => exact ⟨x, rfl⟩
  | ok x => rw [e] at hx; cases hx

theorem takes_square (core : Nat) (h : core = 1 ∨ core = 2 ∨ core = 3) (b : Bool) : TakesRegion (engine core).th ((engine core).getQ 1) square true b := by
  rcases h with rfl | rfl | rfl <;>
  exact ⟨by decide +kernel, fun _ => rfl, by decide +kernel, fun _ => by decide +kernel, by unfold InExtents; decide +kernel⟩

theorem fits_square (t : Thread) (ht : t.spsize = 0x2000) (o : Nat) (h : o + 20 ≤ 0x2000) : ImagesFit square [[⟨1, 3, 0⟩, ⟨2, 4, 0⟩]] o t := by
  intro lo hi e
  have : offSpan square [[⟨1, 3, 0⟩, ⟨2, 4, 0⟩]] = some (10, 19) := by decide +kernel
  rw [this] at e
  cases e
  have size : square.size = 1 := by decide +kernel
  rw [size, ht]
  exact ⟨Nat.mod_one o, by omega, by show (o : Int) + 19 + (1 : Nat) ≤ ((0x2000 : Word).toNat : Int); have : (0x2000 : Word).toNat = 0x2000 := rfl; omega⟩

/-- TransfersIssueTheirCells: images at the end of the partition, in and to two partitions, and a core that does not issue. -/
def twins : State := let s := with_ [(3, 0x1FEC), (5, 3)] (engine 1); { s with others := [{ user 0 with num := 0 }] }

theorem witness_transfers_issue :
    (∃ x, transferOf twins (.twIn 1 1 3) = some x ∧ (∀ t ∈ x.parts, ImagesFit square (twins.getQ x.reg).boxes x.off t) ∧ TakesOp twins (ownTile twins) x.ctx.toNat false) ∧
    (∃ x, transferOf twins (.twMc 1 1 3 5 0) = some x ∧ x.parts.length = 2) ∧ twins.th.fmode.getLsbD 2 = false ∧ coreOf twins.th.num % 4 = 1 ∧
    coreOf (onCore 0).th.num % 4 ≠ 1 := by
  refine ⟨⟨_, rfl, ?_, ?_⟩, ⟨_, rfl, ?_⟩, ?_⟩
  · intro t ht
    have ht : t = twins.th := List.mem_singleton.mp ht
    subst ht
    exact fits_square _ rfl _ (by decide +kernel)
  · unfold TakesOp; decide +kernel
  all_goals decide +kernel

/-- The operation that reads the lengths of a transfer of context 1. -/
def reader : EngOp := { (issuerOf twins).op 1 (.transfer none) [] [] with targets := [twins.th].map fun t => (t.num, t.taskid) }

theorem takes_ragged (core : Nat) (h : core = 1 ∨ core = 2) (b : Bool) :
    TakesRegion (engine core).th ((engine core).getQ 3) { square with ltab := 0x8000, ltlen := 8 } true b ∧
    TakesRegion (engine core).th ((engine core).getQ 8) { square with ltab := 0x80000000, ltlen := 8 } true b := by
  rcases h with rfl | rfl <;>
  exact ⟨⟨by decide +kernel, fun _ => rfl, by decide +kernel, fun _ => by decide +kernel, by unfold InExtents; decide +kernel⟩,
    ⟨by decide +kernel, fun _ => rfl, by decide +kernel, fun _ => by decide +kernel, by unfold InExtents; decide +kernel⟩⟩

theorem entries_of_table : (entriesRead reader (tableEntries { square with ltab := 0x8000, ltlen := 8 } [1, 2]) twins).isSome = true := by decide +kernel

/-- TransfersIssueTheirCells: lengths 3 and 4 read at issue, and a table that cannot be read then. -/
theorem witness_transfers_lengths :
    (∃ ns refused s1, LengthsRead reader (tableEntries { square with ltab := 0x8000, ltlen := 8 } [1, 2]) ns refused twins s1 ∧ ns = [3, 4] ∧ refused = false ∧
      TakesOp s1 (ownTile twins) 1 false ∧ lookup 2 s1.th.tensors = some { square with ltab := 0x8000, ltlen := 8 }) ∧
    tableCoords (twins.getQ 3) { square with ltab := 0x8000, ltlen := 8 } (heads (twins.getQ 3).cells) = [1, 2] ∧
    LengthsLater reader (tableEntries { square with ltab := 0x80000000, ltlen := 8 } [1, 2]) ([0x80000004, 0x80000008].map Loc.glob) twins twins := by
  refine ⟨⟨_, _, _, lengths_read (List.cons_ne_nil _ _) entries_of_table, ?_, ?_, ?_, ?_⟩, ?_, lengths_later (List.cons_ne_nil _ _) ?_⟩
  case refine_3 => unfold TakesOp; decide +kernel
  all_goals decide +kernel

/-- R292 to R294: one operation of the four cells, its image origin, an unaligned shape of errors, and full bits cleared. -/
theorem test_transfers_issue :
    ((after (.twIn 1 1 3) twins).eng.ops.map fun o => (o.num, o.ctx, (o.jobs.map fun j => match j with | .granule es _ => es.length | _ => 0).sum)) = [(1, 1, 4)] ∧
    ((lookup 1 (after (.twIn 1 1 3) twins).th.tensors).map fun d => d.img) = some 0x1FEC ∧ trapOf (.twIn 1 1 3) (with_ [(3, 0x1FED)] twins) = some (0x500, 0x1FED) ∧
    trapOf (.twIn 1 4 3) twins = some (0x904, 0) ∧
    ((after (.twIn 1 3 3) twins).eng.ops.map fun o => (o.jobs.map fun j => match j with | .granule es _ => es.length | _ => 0).sum) = [3] ∧
    ((after (.twIn 1 8 3) twins).eng.ops.map fun o => o.jobs.length) = [1] ∧ trapOf (.twIn 1 1 3) (engine 2) = some (0x1610, 0) ∧
    ((after (.twMc 1 1 3 5 0) twins).eng.ops.map fun o => (o.jobs.map fun j => match j with | .granule es _ => es.length | _ => 0).sum) = [8] := by decide +kernel

/-- The converter's thread: t4 lies in the partition, t5 too but of unsigned bytes; q5 four cells of t4, q6 four others that meet them,
q7 the same of t5. -/
def converter : State :=
  let s := engine 2
  let place : Tensor := { square with loc := true, base := 0, img := 0 }
  let q (t : Nat) (bs : List (List (Int × Int × Nat))) : Region := { reg2 bs with tid := t }
  { s with th := ({ s.th with tensors := s.th.tensors ++ [(4, place), (5, { place with format := 4 })] }
      |>.setQ 5 (q 4 [[(0, 1, 0), (0, 4, 0)]]) |>.setQ 6 (q 4 [[(0, 1, 0), (2, 6, 0)]]) |>.setQ 7 (q 5 [[(0, 1, 0), (3, 7, 0)]])) }

/-- The places of a region of a tensor for the converter. -/
def placesOf (q : QReg) (d : Tensor) : List Nat :=
  (cellsCounted (converter.getQ q) (tableCoords (converter.getQ q) d (heads (converter.getQ q).cells)) []).map fun c => (placeOf converter.th d c).addr

/-- ConversionsPairTheirCells: places that do not meet, places that meet in one copy, those that meet otherwise, and unequal counts. -/
theorem witness_conversions :
    (∃ d, lookup 4 converter.th.tensors = some d ∧
      ¬ (d.loc = square.loc ∧ Meets (placesOf 5 d) (placesOf 1 square) d.size square.size) ∧
      (d.loc = d.loc ∧ Meets (placesOf 5 d) (placesOf 6 d) d.size d.size ∧ d.loc = true ∧
        ∀ p ∈ (placesOf 5 d).zip (placesOf 6 d), (p.1 : Int) - p.2 = -2 ∧ scratchPoisoned converter p.2 d.size = false) ∧
      ∃ e, lookup 5 converter.th.tensors = some e ∧ d.loc = e.loc ∧ Meets (placesOf 5 d) (placesOf 7 e) d.size e.size ∧ d.format ≠ e.format) ∧
    (placesOf 2 square).length ≠ (placesOf 1 square).length ∧ coreOf converter.th.num % 4 = 2 ∧ TakesOp converter (ownTile converter) 4 false ∧ (converter.getQ 5).rag = false := by
  refine ⟨⟨_, rfl, ?_, ?_, ⟨_, rfl, ?_⟩⟩, ?_, ?_, ?_, ?_⟩
  all_goals (try unfold Meets); (try unfold TakesOp); decide +kernel

/-- ConversionsPairTheirCells: a destination whose lengths cannot be read at issue. -/
theorem witness_conversions_later :
    LengthsLater ((issuerOf converter).op 4 (.transfer (some ⟨0, 0, 0, 0, false, true⟩)) [] []) (tableEntries { square with ltab := 0x80000000, ltlen := 8 } [1, 2])
      ([0x80000004, 0x80000008].map Loc.glob) converter converter :=
  lengths_later (List.cons_ne_nil _ _) (by decide +kernel)

theorem test_conversions :
    trapOf (.cvt 4 1 2) converter = some (0x1615, 0) ∧ trapOf (.cvt 4 5 7) converter = some (0x1800, 0) ∧ (after (.cvt 4 5 1) converter).eng.ops.length = 1 ∧
    trapOf (.cvtSat 4 1 1) (engine 1) = some (0x1610, 0) ∧ trapOf (.cvt 4 1 4) converter = some (0x904, 0) := by decide +kernel

/-- The bytes of a walk record of tensor 1: three steps of one row over rows 0 and 1, columns 0 to 3. -/
def walkByte : Nat → Byte
  | 0 => 1 | 8 => 3 | 13 => 1 | 64 => 0x01 | 65 => 0x28 | 66 => 0x01 | 132 => 2 | 140 => 4 | 148 => 1 | 156 => 1
  | _ => 0

/-- That record stands at the partition's end, and handle 5 of task 7 has two slots of a granule. -/
def walker : State :=
  let s := with_ [(3, 0x1E80)] (engine 1)
  { s with mem := { s.mem with scratch := (List.range 384).map fun k => (327680 + 0x1E80 + k, walkByte k) }
           eng := { s.eng with handles := [(5, ⟨7, 4, 1, 0, [.free, .free], 0, 0, 0, 0, none, none⟩)] } }

/-- The record as R301 describes it. -/
def walkRecord : WalkRecord := ⟨[1, 0], 3, false, 1, reg2 [[(0, 2, 0), (0, 4, 0)]]⟩

theorem witness_walk_record : (match parseWalk ((List.range 384).map walkByte) with
    | some r => decide (r.step = walkRecord.step ∧ r.count = walkRecord.count ∧ r.writesBack = walkRecord.writesBack ∧ r.tid = walkRecord.tid ∧
        r.region = walkRecord.region)
    | none => false) = true := by decide +kernel

theorem witness_walk_bytes : scratchBytes walker (scratchKey walker.th 0x1E80) 384 = (List.range 384).map walkByte := by
  have key : scratchKey walker.th 0x1E80 = 327680 + 0x1E80 := by decide +kernel
  rw [key]
  refine List.map_congr_left fun k hk => ?_
  show (lookup (327680 + 0x1E80 + k) ((List.range 384).map fun k => (327680 + 0x1E80 + k, walkByte k))).getD _ = _
  rw [lookup_shifted walkByte _ k _ hk]
  rfl

/-- WalksHoldTheirHandle: every other hypothesis for that record, whose last step ends inside the tensor and whose cells lie in the slot. -/
theorem witness_walk :
    coreOf walker.th.num % 4 = 1 ∧ (lookup (handleKey walker.th 5) walker.eng.handles).map (fun e => (e.task, e.slots.length, e.producer, e.ssize)) = some (7, 2, none, 1) ∧
    0x1E80 % 16 = 0 ∧ 0x1E80 + 384 ≤ walker.th.spsize.toNat ∧ scratchPoisoned walker (scratchKey walker.th 0x1E80) 384 = false ∧ walkRecord.region.rag = false ∧
    lookup walkRecord.tid walker.th.tensors = some square ∧ InExtents square walkRecord.region.boxes ∧ InExtents square (moveBoxes [1, 0] 2 walkRecord.region.boxes) ∧
    LeastCorner walkRecord.region.boxes [0, 0] ∧ (∀ c ∈ cellsInOrder 2 walkRecord.region.cells, 0 ≤ square.off ((c.zip [(0 : Int), 0]).map fun x => x.1 - x.2) ∧
      square.off ((c.zip [(0 : Int), 0]).map fun x => x.1 - x.2) + square.size ≤ (16 * 1 : Nat)) ∧ TakesOp walker (ownTile walker) 2 false ∧
    TakesRegion walker.th { walkRecord.region with tid := walkRecord.tid } square true walkRecord.writesBack ∧ Shaped walkRecord.region ∧
    (∀ cs, LengthsRead ((issuerOf walker).op 2 (.walk 5 false 1 [] []) [] []) (tableEntries square (tableCoords walkRecord.region square cs)) [] false walker walker) := by
  have corner : LeastCorner walkRecord.region.boxes [0, 0] := by unfold LeastCorner; decide +kernel
  have inside : InExtents square walkRecord.region.boxes ∧ InExtents square (moveBoxes [1, 0] 2 walkRecord.region.boxes) := by unfold InExtents; decide +kernel
  have takes : TakesOp walker (ownTile walker) 2 false := by unfold TakesOp; decide +kernel
  have region : TakesRegion walker.th { walkRecord.region with tid := walkRecord.tid } square true walkRecord.writesBack :=
    ⟨by decide +kernel, fun _ => rfl, by decide +kernel, fun _ => by decide +kernel, inside.1⟩
  have shape : Shaped walkRecord.region := by unfold Shaped; decide +kernel
  refine ⟨?_, ?_, ?_, ?_, ?_, ?_, ?_, inside.1, inside.2, corner, ?_, takes, region, shape, fun _ => no_lengths _ _⟩ <;> decide +kernel

/-- A group of devices 0 and 1, records at 0x40000 (a collective's), 0x40020 (a drain's) and 0x40040, which keeps neither layout. -/
def records (core : Nat) : State :=
  let s := with_ [(3, 0x40000), (4, 4), (5, 0x40020), (6, 0x40040)] (engine core)
  { s with mem := { s.mem with dram := pages ++ [(0x8004, 3), (0x8008, 4), (0x40002, 5), (0x4000A, 6), (0x40010, 1), (0x40024, 9), (0x40040, 2), (0x40053, 1)] }
           eng := { s.eng with groups := [(1, [0, 1])] } }

/-- The bytes of a record as the four words of an operation of the thread gather them, where they are there and none is refused; and
whether the thread stands as before. -/
def recordAt (va : Nat) : Option (List Byte × Bool) :=
  match valueOf (gatherSources ((issuerOf (records 0)).op 6 (.transfer none) [] []) ((List.range 4).map fun k => (.glob (va + 8 * k), 8)) (records 0)) with
  | some (.data ds, s) => if ds.all fun d => !d.refused then some (ds.flatMap fun d => d.bytes, decide (s.th = (records 0).th)) else none
  | _ => none

/-- What an operation of a kind makes of the record at an address: how many chunks, its kind after, or the status it ends with. -/
def recordRead (kind : OpKind) (va : Nat) : Nat × Option OpKind × Nat :=
  match readRecord ((issuerOf (records 0)).op 6 kind [] []) va [] (records 0) with
  | .ok (js, o, _) => (js.length, some o.kind, 0)
  | .error (.fail n) => (0, none, n)
  | .error _ => (0, none, 99)

/-- CollectivesAndDrainsReadTheirRecord: the shortest length, an aligned record, good ones of both kinds and one that is neither. -/
theorem witness_records :
    (collectiveOf (.collRed 6 3 4)).isSome = true ∧ 0 < ((records 0).getD 4).toNat ∧ ((records 0).getD 3).toNat % 32 = 0 ∧
    (recordAt 0x40000).map (fun x => [Safety.recordField x.1 16 2, Safety.recordField x.1 18 1, Safety.recordField x.1 19 1, Safety.recordField x.1 20 2, Safety.recordField x.1 22 10, x.2.toNat]) =
      some [1, 0, 0, 0, 0, 1] ∧
    (recordAt 0x40020).map (fun x => [Safety.recordField x.1 0 1, Safety.recordField x.1 1 3, Safety.recordField x.1 16 16, x.2.toNat]) = some [0, 0, 0, 1] ∧
    (recordAt 0x40040).map (fun x => [Safety.recordField x.1 0 1, Safety.recordField x.1 19 1, x.2.toNat]) = some [2, 1, 1] ∧
    ((records 3).getQ 1).rag = false := by
  refine ⟨?_, ?_, ?_, ?_, ?_, ?_, ?_⟩ <;> decide +kernel

theorem witness_records_timelines : TakesOp (records 0) (ownTile (records 0)) 6 false ∧ TakesOp (records 0) (ownTile (records 0)) 12 false ∧
    TakesRegion (records 3).th ((records 3).getQ 1) square true true := by
  refine ⟨by unfold TakesOp; decide +kernel, by unfold TakesOp; decide +kernel, ⟨by decide +kernel, fun _ => rfl, by decide +kernel, fun _ => by decide +kernel, ?_⟩⟩
  unfold InExtents; decide +kernel

theorem test_records :
    (after (.collRed 6 3 4) (records 0)).eng.ops.map (fun o => (o.num, o.status, o.kind, o.jobs)) =
      [(1, none, .collective 0 0 8 4 0 0 0 0, [.record 0x40000 []])] ∧
    recordRead (.collective 0 0 8 4 0 0 0 0) 0x40000 = (3, some (.collective 0 0 8 4 0x50000 0x60000 1 0), 0) ∧
    recordRead (.collective 0 0 8 4 0 0 0 0) 0x40040 = (0, none, 5) ∧ recordRead (.drain 2 0 0 [] false) 0x40040 = (0, none, 6) ∧
    recordRead (.drain 2 0 0 [] false) 0x40020 = (0, some (.drain 0 9 0 [] false), 0) ∧
    (after (.ckpt 12 1 5) (records 0)).mem.drains.map (fun d => d.granule) = [0x10000, 0x10001] ∧ trapOf (.collRed 6 4 4) (records 0) = some (0x402, 4) := by
  refine ⟨?_, ?_, ?_, ?_, ?_, ?_, ?_⟩ <;> decide +kernel

/-- Handle 5 as given, d3 a definition of two slots of a granule at the partition's end, d4 the same one granule further. -/
def rings (e : Option HandleEnt) : State :=
  let s := with_ [(3, 0x0010000100001FE0), (4, 0x0010000100001FF0)] (engine 0)
  { s with eng := { s.eng with handles := match e with | some e => [(5, e)] | none => [] } }

/-- A handle of two slots, the first full. -/
def half : HandleEnt := ⟨7, 0, 1, 0, [.full, .free], 1, 0, 0, 0, none, none⟩

/-- HandlesKeepTheirRing: a free handle and a value whose last slot ends with the partition; an own one with its counts at their ends; one of
another task. -/
theorem witness_rings :
    lookup (handleKey (rings none).th 5) (rings none).eng.handles = none ∧ 0x0010000100001FE0 / 2 ^ 60 = 0 ∧ 0x0010000100001FE0 / 2 ^ 48 % 16 = 0 ∧
    (rings none).thread? (16 * ownTile (rings none) + 0) = some (rings none).th ∧ mayHold (rings none) (rings none).th = true ∧ 0x1FE0 + 16 * 1 * 2 ≤ (rings none).th.spsize.toNat ∧
    lookup (handleKey (rings (some half)).th 5) (rings (some half)).eng.handles = some half ∧ half.slots.length < (3 : BitVec 4).toNat ∧ half.task = (rings (some half)).th.taskid ∧
    half.producer = none ∧ half.consumer = none ∧ (half.slots.filter fun x => x = .full).length < (2 : BitVec 4).toNat ∧ half.fail = 0 ∧ half.slots[0]? = some .full ∧
    half.slots[1]? = some .free ∧ { half with task := 8 }.task ≠ (rings (some half)).th.taskid ∧
    (valueOf (releaseAt 3 (rings (some half)))).map (fun u => u.eng.handles) = some (rings (some half)).eng.handles := by decide +kernel

theorem test_rings :
    (after (.hdef 5 3) (rings none)).eng.handles = [(5, ⟨7, 0, 1, 0x1FE0, [.free, .free], 0, 0, 0, 0, none, none⟩)] ∧ runs (.hdef 5 4) (rings none) = true ∧
    trapOf (.hstat 3 5) (rings none) = some (0x800, 5) ∧ trapOf (.advC 5 3) (rings (some half)) = some (0x801, 5) ∧
    trapOf (.hfree 5) (rings (some { half with task := 8 })) = some (0x802, 5) ∧ waits (.hwait 5 2) (rings (some half)) = true ∧
    (after (.advC 5 1) (rings (some half))).eng.handles = [(5, { half with slots := [.free, .free], cons := 1 })] ∧
    (after (.advP 5 1) (rings (some half))).eng.handles = [(5, { half with slots := [.full, .full], prod := 0 })] ∧
    (after (.hstat 3 5) (rings (some half))).getD 3 = 0x0000000200110101 := by decide +kernel

/-- Context 8 of the tile with two operations issued, the first failed with a status, the second in flight or not. -/
def timeline (status : Nat) (busy : Bool) : State :=
  let s := with_ [(3, 1), (4, 2)] (engine 3)
  let o : EngOp := { (issuerOf s).op 8 (.transfer none) [] [] with num := 2 }
  { s with eng := { s.eng with ctxs := [(8, { issued := 2, abn := 1, abnStatus := status, topinf := false })], ops := if busy then [o] else [] } }

/-- TimelinesReportOnce: a number completed while the next is in flight, the number in flight, a new failure of each kind, one covered before. -/
theorem witness_timelines :
    Covered (timeline 3 true) 8 1 ∧ ¬ Covered (timeline 3 true) 8 2 ∧ ¬ Covered (timeline 3 false) 8 3 ∧ Covered (timeline 3 false) 8 2 ∧ Reports (timeline 3 true) 8 1 ∧
    ¬ Reports (timeline 3 true) 8 0 ∧ (engCtx (timeline 2 true) 0 8).abnStatus = 2 ∧ (engCtx (timeline 7 true) 0 8).abnStatus = 7 ∧
    ¬ Reports { timeline 3 true with th := { (timeline 3 true).th with covered := (timeline 3 true).th.covered.set 8 1 } } 8 1 ∧
    coreOf (timeline 3 true).th.num % 4 = 3 ∧ (timeline 3 true).th.micro = 0 := by unfold Covered Reports; decide +kernel

theorem test_timelines :
    trapOf (.tlw 8 3) (timeline 3 true) = some (0x1603, 1) ∧ (after (.tlwX 8 3 5) (timeline 3 true)).getD 5 = 3 ∧ trapOf (.tlwX 8 3 5) (timeline 2 true) = some (0x1502, 1) ∧
    trapOf (.tlw 8 3) (timeline 7 true) = some (0x1B00, 0) ∧ waits (.tlw 8 4) (timeline 3 true) = true ∧ (after (.tlrd 5 8) (timeline 3 true)).getD 5 = 2 ∧
    (after (.mstat 5 0) (timeline 3 false)).getD 5 = 0x230000000 ∧ waits (.mstat 5 0) (timeline 3 true) = true := by decide +kernel

/-- d3 an offset; bytes of a one-dimensional tensor of 16 words at 0x1FC0, or of a rank of five, with the granules of q1's images full. -/
def tables (o : Word) (rank : Byte) (full : List Nat) : State :=
  let s := with_ [(3, o)] (engine 0)
  { s with mem := { s.mem with
      scratch := (List.range 64).map fun k => (0x1FC0 + k, if k = 0 then 2 else if k = 1 then rank else if k = 16 then 16 else if k = 20 ∨ k = 24 ∨ k = 28 then 1 else if k = 32 then 4 else 0)
      full := full } }

/-- TensorsAndProtectionsAreSet: the descriptor at the partition's end and its neighbours; images full and one not; nothing to flush. -/
theorem witness_tensors :
    longOffset (tables 0x1FC0 1 []) 3 0 = 0x1FC0 ∧ 0x1FC0 % 16 = 0 ∧ 0x1FC0 + 64 ≤ (tables 0x1FC0 1 []).th.spsize.toNat ∧ longOffset (tables 0x1FC0 1 []) 3 16 = 0x1FD0 ∧
    (tables 0 1 []).th.spsize.toNat < 0x1FD0 + 64 ∧ longOffset (tables 0x1FC0 1 []) 3 (-8) % 16 ≠ 0 ∧ scratchPoisoned (tables 0 1 []) 0x1FC0 64 = false ∧
    (parseTensor (scratchBytes (tables 0 1 []) 0x1FC0 64)).isSome = true ∧ parseTensor (scratchBytes (tables 0 5 []) 0x1FC0 64) = none := by decide +kernel

theorem witness_waits_for_images :
    TakesRegion (tables 0 1 [0, 1]).th ((tables 0 1 [0, 1]).getQ 1) square true true ∧ ImagesFit square ((tables 0 1 [0, 1]).getQ 1).boxes square.img (tables 0 1 [0, 1]).th ∧
    (∀ c ∈ [[(1 : Int), 2], [1, 3], [2, 2], [2, 3]], ∀ g ∈ granulesOf (scratchKey (tables 0 1 [0, 1]).th ((square.img : Int) + square.off c).toNat) square.size,
      isFull (tables 0 1 [0, 1]) g = true) ∧ isFull (tables 0 1 [0]) 16 = false ∧
    (valueOf (ownLens ((tables 0 1 []).getQ 1) square (tables 0 1 []))).map (fun x => (x.1, x.2 == tables 0 1 [])) = some ([], true) ∧
    countedCells ((tables 0 1 []).getQ 1) [] = [[1, 2], [1, 3], [2, 2], [2, 3]] ∧
    countedCells { (tables 0 1 []).getQ 1 with rag := true } [(1, 4), (2, 3)] = [[1, 2], [1, 3], [2, 2]] ∧
    (tables 0 1 []).th.cntRemote = 0 ∧ (tables 0 1 []).th.cntGlobal = 0 ∧ (tables 0 1 []).th.cntDevice = 0 ∧ (flushLines 1 (fun va => va = 0x100000) (tables 0 1 [])).isSome = true := by
  refine ⟨⟨by decide +kernel, fun _ => rfl, by decide +kernel, fun _ => by decide +kernel, ?_⟩, fits_square _ rfl _ (by decide), ?_⟩
  · unfold InExtents; decide +kernel
  · decide +kernel

theorem test_tensors :
    ((lookup 7 (after (.tset 7 3 0) (tables 0x1FC0 1 [])).th.tensors).map fun d => (d.format, d.rank, d.ext, d.pitch)) = some (2, 1, [16, 1, 1, 1], [4, 0, 0, 0]) ∧
    trapOf (.tset 7 3 0) (tables 0x1FC0 5 []) = some (0x1611, 0x1FC0) ∧ trapOf (.tget 1 3 0) (tables 0x1FD0 1 []) = some (0x500, 0x1FD0) ∧
    scratchNat (after (.tget 1 3 0) (tables 0 1 [])) 8 8 = 0x100000 ∧ waits (.rwait 1) (tables 0 1 [0]) = true ∧ (after (.rwait 1) (tables 0 1 [0, 1])).th.pc = 0x10004 ∧
    (after (.rprot 1 2) (tables 0 1 [])).mem.prots = [⟨7, 1, 2, [(0x10000A, 1), (0x10000B, 1), (0x100012, 1), (0x100013, 1)]⟩] := by decide +kernel

/-- d3 a record's place, d4 a request for a key; so many keys of the walk engine held. -/
def commands (core : Nat) (o request : Word) (keys : Nat) : State :=
  let s := with_ [(3, o), (4, request), (5, 0x100300000000)] (engine core)
  { s with eng := { s.eng with keys := (List.range keys).map fun k => ⟨0, 0, k + 1, 15, 7⟩ } }

/-- CommandsArePosted: records that end with the partition; a request in form, one that is not, and a full table. -/
theorem witness_commands :
    (∃ a b x, commandOf (commands 3 0x1FC0 0 0) (.mcmd 5 3 4) = some (2, a, b, x, 64)) ∧ (∃ a b x, commandOf (commands 0 0x1CC0 0 0) (.wcmd 5 3 4) = some (0, a, b, x, 832)) ∧
    coreOf (commands 3 0 0 0).th.num % 4 = 3 ∧ 0x1FC0 % 64 = 0 ∧ 0x1FC0 + 64 ≤ (commands 3 0 0 0).th.spsize.toNat ∧ 0x1CC0 % 64 = 0 ∧
    0x1CC0 + 832 ≤ (commands 0 0 0 0).th.spsize.toNat ∧ scratchPoisoned (commands 0 0 0 0) 0x1CC0 832 = false ∧
    (0x300000000 % 2 ^ 28 = 0 ∧ 0x300000000 / 2 ^ 30 % 4 = 0 ∧ 0x300000000 / 2 ^ 28 % 4 ≠ 3 ∧ 0x300000000 / 2 ^ 32 < 16) ∧ ¬ (0x400000001 % 2 ^ 28 = 0) ∧
    ((commands 3 0 0 16).eng.keys.filter fun k => k.tile = ownTile (commands 3 0 0 16) && k.engine = 0).length = 16 ∧
    ((commands 3 0 0 15).eng.keys.filter fun k => k.tile = ownTile (commands 3 0 0 15) && k.engine = 0).length < 16 := by
  refine ⟨⟨_, _, _, rfl⟩, ⟨_, _, _, rfl⟩, ?_⟩
  decide +kernel

theorem test_commands :
    (after (.wcmd 5 3 4) (commands 0 0x1CC0 9 0)).eng.commands.map (fun c => (c.engine, c.cap, c.target, c.record.length)) = [(0, 0x100300000000, 9, 832)] ∧
    (after (.wcmd 5 3 4) (commands 0 0x1CC0 9 0)).th.cntRemote = 1 ∧ trapOf (.ccmd 5 3) (commands 0 0x1D00 9 0) = some (0x500, 0x1D00) ∧
    trapOf (.mcap 6 4) (commands 3 0 0x400000001 0) = some (0x109, 0) ∧ (after (.mcap 6 4) (commands 3 0 0x300000000 16)).getD 6 = 0 ∧
    trapOf (.mcap 6 4) (commands 0 0 0x300000000 0) = some (0x104, 0) ∧ (after (.mrev 5) (commands 3 0 0 2)).eng.keys.length = 2 ∧
    (after (.mrev 5) (with_ [(5, 0x20F00000000)] (commands 3 0 0 2))).eng.keys.map (fun k => k.key) = [1] := by decide +kernel

/-! ### The matrix unit -/

/-- z0 of one row and one column of f32, z1 the same of s32; v4 and v8 groups of t8 ones; rows of ones at offsets 0x1FF0 and 0x1F00. -/
def matrices (x : Word) : State :=
  let s := with_ [(10, x), (12, 0x1F00), (3, 0x80101), (4, 0x80121), (5, 0x1FE0)] (engine 3)
  let th := (s.th.setZ 0 ⟨1, 1, true, [(0, 0x40000000)]⟩).setZ 1 ⟨1, 1, false, []⟩
  { s with th := (th.setV 4 (ramp 0x38383838 0)).setV 8 (ramp 0x38383838 0)
           mem := { s.mem with scratch := (List.range 32).map fun k => (3 * 327680 + 0x1FE0 + k, 0) } }

/-- ProductsCaptureTheirOperands: a scratch row that ends with the partition, vector groups, metadata in form and not, and both types of z. -/
theorem witness_products :
    (∃ p, productOf (.mma 0 false false 10 0 12 0 .t8 1) = some p ∧ (p.sideA (matrices 0x1FF0)).Ready (matrices 0x1FF0) 1 1 16 ∧
      (p.sideB (matrices 0x1FF0)).Ready (matrices 0x1FF0) 1 16 1 ∧ TakesOp (matrices 0x1FF0) (ownTile (matrices 0x1FF0)) (8 + p.stream) false ∧
      (matrices 0x1FF0).th.getZ p.z = ⟨1, 1, true, [(0, 0x40000000)]⟩) ∧
    (∃ p, productOf (.mma 1 true true 4 0 8 0 .t8 1) = some p ∧ (p.sideA (matrices 0)).Ready (matrices 0) 1 1 16 ∧ ((matrices 0).th.getZ p.z).f32 ≠ decide (p.ty ≠ 0) ∧
      isOk (useStreams none ((p.sideA (matrices 0)).regs 16 ++ (p.sideB (matrices 0)).regs (15 * 32 + 1)) (matrices 0)) = true) ∧
    Ascending 0x44444444 ∧ Ascending 0x4C4D4E49 ∧ ¬ Ascending 0x5 ∧ coreOf (matrices 0).th.num % 4 = 3 := by
  refine ⟨⟨_, rfl, Or.inr ?_, Or.inr ?_, ?_, ?_⟩, ⟨_, rfl, Or.inl rfl, ?_, ?_⟩, ?_, ?_, ?_, ?_⟩
  all_goals (try unfold TakesOp); (try unfold Ascending); decide +kernel

theorem test_products :
    (after (.mma 0 true true 4 0 8 0 .t8 1) (matrices 0)).eng.ops.map (fun o => (o.ctx, o.num, o.jobs)) = [(9, 1, [.tile 0])] ∧
    trapOf (.mma 1 true true 4 0 8 0 .t8 1) (matrices 0) = some (0x1900, 0) ∧ trapOf (.mma 0 true true 4 0 8 0 .t8 1) (engine 0) = some (0x104, 0) := by decide +kernel

/-- TileRegistersAreSetAndMoved: the smallest and the largest shape, shapes just outside, a register in use, and a range at the partition's end. -/
theorem witness_tile_registers :
    configOf (.zcfg 2 3) = some (false, 2, 3, 4) ∧ configOf (.zcfgKeepX 2 3) = some (true, 2, 3, 12) ∧ shapeOk 0x80101 ∧ shapeOk 0x22020 ∧ ¬ shapeOk 0x80121 ∧ ¬ shapeOk 0x80001 ∧
    ¬ shapeOk 0x30101 ∧ ¬ shapeOk 0x180101 ∧ tileMoveOf (matrices 0) (.zld .wrs 1 5 0) = some (1, 1, .wrs, 0x1FE0, 0, 4) ∧ 0x1FF0 % 16 = 0 ∧
    0x1FF0 + 4 * 4 ≤ (matrices 0).th.spsize.toNat ∧ tileMoveOf (matrices 0) (.zzero 1 3) = some (0, 1, .none, 0, 3, 4) := by
  refine ⟨rfl, rfl, ?_, ?_, ?_, ?_, ?_, ?_, rfl, by decide, by decide +kernel, rfl⟩
  all_goals unfold shapeOk; decide

/-- A product on z0 under way. -/
noncomputable def inUse : State := after (.mma 0 true true 4 0 8 0 .t8 1) (matrices 0)

theorem witness_tile_use : TileFree (matrices 0) 0 ∧ ¬ TileFree inUse 0 := by
  have busy : inUse.eng.ops.any (fun o => o.thread = inUse.th.num && o.home = inUse.th.taskid &&
      match o.kind with | .stream _ z _ _ => z = 0 | _ => false) = true := by decide +kernel
  refine ⟨fun o h => absurd h (by have : (matrices 0).eng.ops = [] := rfl; rw [this]; exact List.not_mem_nil), fun free => ?_⟩
  obtain ⟨o, ho, h⟩ := List.any_eq_true.mp busy
  have free := free o ho
  cases hk : o.kind <;> simp_all
  exact free _ 0 _ _ rfl rfl rfl rfl rfl

theorem test_tile_registers :
    (after (.zcfg 2 3) (matrices 0)).th.getZ 2 = ⟨1, 1, true, []⟩ ∧ (after (.zcfgKeep 0 3) (matrices 0)).th.getZ 0 = ⟨1, 1, true, [(0, 0x40000000)]⟩ ∧
    trapOf (.zcfg 2 4) (matrices 0) = some (0x109, 0) ∧ waits (.zcfg 0 3) inUse = true ∧ (after (.zmov 2 0) (matrices 0)).th.getZ 2 = (matrices 0).th.getZ 0 ∧
    (after (.zld .none 1 5 0) (matrices 0)).eng.ops.map (fun o => o.jobs) = [[.tile 0]] ∧ (after (.zzero 1 3) (matrices 0)).eng.ops.map (fun o => o.jobs.length) = [1024] := by decide +kernel

/-- An operation on z0, of one element, that is the oldest of its stream and can act. -/
def streamOp (k : StreamKind) : EngOp := { (issuerOf (matrices 0)).op 8 (.stream k 0 1 1) [.tile 0] [] with num := 1, flits := 0 }
@[inherit_doc streamOp] def streaming (k : StreamKind) : State := let s := matrices 0; { s with eng := { s.eng with ops := [streamOp k] } }

/-- The kinds: products of t8 and, of a sparse A, of s8; zeros; a word. -/
def kinds : List StreamKind :=
  [.product 11 false (List.replicate 16 0x40) (List.replicate 16 0x18) [], .product 0 true (List.replicate 16 3) (List.replicate 64 5) [0x44444444], .zero, .load [9]]

/-- TileElementsTakeTheirProducts: each kind, oldest of its stream, with the operands of its shape. -/
theorem witness_tile_actions :
    (∀ k ∈ kinds, CanAct (streaming k) (streamOp k) 0 (.tile 0) ∧ (streamOp k).kind = .stream k 0 1 1 ∧
      ((contextOf (streaming k) (streamOp k).thread (streamOp k).home).map fun t => t.num) = some 12 ∧ 8 ≤ (streamOp k).ctx ∧ (streamOp k).ctx < 12) ∧
    1 * (productDepth 11 false).2 = 16 ∧ 1 * (productDepth 0 true).2 = 16 := by
  refine ⟨fun k h => ?_, rfl, rfl⟩
  simp only [kinds, List.mem_cons, List.not_mem_nil, or_false] at h
  rcases h with rfl | rfl | rfl | rfl <;>
    exact ⟨⟨rfl, ⟨rfl, .inl rfl, rfl, rfl⟩, by decide +kernel, fun _ => rfl⟩, rfl, by decide +kernel, by decide +kernel, by decide +kernel⟩

/-- R130 to R133, R319, R329: 16 products of 1 by 1/8 added to 2, 16 of 3 by 5 to the same word, a zero and a loaded word. -/
theorem test_tile_actions :
    kinds.map (fun k => ((granuleStep (streamOp k) 0 (streaming k)).bind fun s => (contextOf s 12 7).map fun t => (t.getZ 0).get 0)) =
      [some 0x40800000, some 0x400000F0, some 0, some 9] := by decide +kernel

/-! ### Global memory -/

/-- d3 an address; bytes 0x01 to 0x08 at 0x40000 and 0xFF at 0x40010, an object's record at 0x40020; the given words in core 0's L1. -/
def globe (va : Word) (l1 : List L1Word) : State :=
  let s := with_ [(3, va), (4, 0x1122334455667788), (5, 2)] (onCore 0)
  { s with mem := { s.mem with
      dram := pages ++ ((List.range 8).map fun k => (0x40000 + k, .ofNat 8 (k + 1))) ++
        [(0x40010, 0xFF), (0x40022, 5), (0x40028, 0x80), (0x4002C, 1), (0x40038, 2)]
      l1 := l1 } }

/-- A clean word of core 0's L1. -/
def copy (va : Nat) (x : Lane) : L1Word := ⟨0, 1, va / 4, 0, x, false, false, false, 0, 0, false, false, false, false⟩

/-- GlobalAccessesComplete: each access at the end of its reach, misaligned, outside a lease, and an atomic with and without a destination. -/
theorem witness_global :
    (∃ x, globalOf (globe 0x40000 []) (.ldg .wgs .s64 6 3 0) = some (0, x) ∧ x.va % 8 = 0 ∧ WaitOver x.w (globe 0x40000 []).th ∧
      isOk (loadGlobal x.lvl x.cp x.va 8 (globe 0x40000 [])) = true) ∧
    (∃ x, globalOf (globe 0x3FFFFFF8 []) (.stgX .none .s64 4 3 0 .cluster .evictFirst none) = some (1, x) ∧ x.lvl = 3 ∧
      isOk (storeGlobal x.lvl x.cp x.va 8 5 (globe 0x3FFFFFF8 [])) = true) ∧
    (∃ x, globalOf (globe 0x40000 []) (.rsv .none .s32 6 3 0) = some (2, x) ∧ isOk (reserve x.lvl x.va 4 (globe 0x40000 [])) = true) ∧
    (∃ x, globalOf (globe 0x40000 []) (.cmt .none .s32 4 3 0) = some (3, x) ∧ isOk (commit x.lvl x.va 4 5 (globe 0x40000 [])) = true) ∧
    (∃ x, globalOf (globe 0x40001 []) (.ldg .none .s16 6 3 0) = some (0, x) ∧ x.va % 2 ≠ 0) ∧
    (∃ x, globalOf (globe (2 ^ 56) []) (.ldg .none .s8 6 3 0) = some (0, x) ∧ x.va % 1 = 0 ∧ leaseAllows (globe (2 ^ 56) []) (globe (2 ^ 56) []).th x.va 1 = false) ∧
    (∃ x, atomicOf (globe 0x40000 []) (.amoAdd .none .s32 .tile 0 3 0 5) = some (0, x, 5) ∧ x.reg = 0 ∧ 1 < x.lvl ∧ Allowed (globe 0x40000 []) true x.va 4) ∧
    isOk (amoInL1 0 0x40000 4 2 0 (globe 0x40000 [])) = true ∧
    (∃ x, atomicOf (globe 0x40000 []) (.amoCas .none .n64 .core 6 3 0 5) = some (9, x, 5) ∧ x.lvl ≤ 1 ∧
      isOk (amoNow 1 9 (typeCode x.ty) x.va 8 2 0 (globe 0x40000 [])) = true) := by
  refine ⟨⟨_, rfl, ?_, ?_, ?_⟩, ⟨_, rfl, ?_, ?_⟩, ⟨_, rfl, ?_⟩, ⟨_, rfl, ?_⟩, ⟨_, rfl, ?_⟩, ⟨_, rfl, ?_, ?_⟩, ⟨_, rfl, ?_, ?_, ?_⟩, ?_, ⟨_, rfl, ?_, ?_⟩⟩
  all_goals first | decide +kernel | (show (0 : Nat) = 0; rfl) | (unfold Allowed; decide +kernel)

theorem test_global :
    (after (.ldg .none .s64 6 3 0) (globe 0x40000 [])).getD 6 = 0x0807060504030201 ∧ (after (.ldg .none .s8 6 3 0) (globe 0x40010 [])).getD 6 = 0xFFFFFFFFFFFFFFFF ∧
    (after (.ldg .none .n8 6 3 0) (globe 0x40010 [])).getD 6 = 0xFF ∧ trapOf (.ldg .none .s16 6 3 0) (globe 0x40001 []) = some (0x402, 0x40001) ∧
    ((lookup 7 (after (.ldg .none .s8 6 3 0) (globe (2 ^ 56) [])).tasks).map fun k => k.stage) = some (.ending 7) ∧
    (after (.amoAdd .none .s32 .tile 0 3 0 5) (globe 0x40000 [])).th.cntGlobal = 1 ∧ (after (.amoAdd .none .s32 .core 6 3 0 5) (globe 0x40000 [])).getD 6 = 0x04030201 := by
  decide +kernel

/-- The two words of 0x40000 in the L1. -/
def heldState : State := globe 0x40000 [copy 0x40000 0x04030201, copy 0x40004 0x08070605]

/-- HeldWordsAreReadAndWritten: both words held, the last byte of them, and a store that is accepted. -/
theorem witness_held :
    Held heldState 0x40000 8 ∧ Allowed heldState false 0x40000 8 ∧ Allowed heldState true 0x40000 8 ∧ Held heldState 0x40007 1 ∧
    isOk (storeGlobal 5 .normal 0x40000 8 9 heldState) = true := by
  have held (va n : Nat) (h : isUnderWay heldState (l1Core heldState (coreOf heldState.th.num) va) heldState.th.asid (touched va n) = false ∧
      (touched va n).all (fun wa => match ownCopy heldState va wa with | some l => !l.poison | none => false) = true) : Held heldState va n :=
    ⟨h.1, fun wa hwa => by
      have := List.all_eq_true.mp h.2 wa hwa
      cases e : ownCopy heldState va wa with
      | none => rw [e] at this; cases this
      | some l => rw [e] at this; exact ⟨l, rfl, by simpa using this⟩⟩
  refine ⟨held _ _ (by decide +kernel), ?_, ?_, held _ _ (by decide +kernel), by decide +kernel⟩
  all_goals unfold Allowed; decide +kernel

/-- R256, R258: the thread reads what it holds; signed and unsigned atomics. -/
theorem test_held :
    (valueOf (loadGlobal 5 .normal 0x40000 8 heldState)).map Prod.fst = some 0x0807060504030201 ∧
    atomicResult .s32 1 0xFFFFFFFF 1 0 = some 0xFFFFFFFF ∧ atomicResult .n32 3 0xFFFFFFFF 1 0 = some 1 ∧ atomicResult .s32 9 5 7 6 = none ∧ atomicResult .s64 0 (2 ^ 64 - 1) 1 0 = some 0 ∧
    (valueOf (amoNow 1 9 (typeCode .n64) 0x40000 8 7 0x0807060504030201 heldState)).map (fun x => (x.1, x.2.mem.posted.length, x.2.mem.l1.map fun l => (l.wa, l.val))) =
      some (0x0807060504030201, 0, [(0x10001, 0), (0x10000, 7)]) := by
  decide +kernel

/-- Both words held in cluster-shared memory, the first at the home too. -/
def sharedState : State :=
  { heldState with mem := { heldState.mem with
      objects := [(1, ⟨1, 0x40000, 64, 1, 0, 1, 0⟩)]
      slices := [⟨0, 1, 0x10000, some 0x04030201, false, false, false, none, none, 3, 0, false, false, false⟩] } }

/-- The conditions of HeldWordsAreReadAndWritten for an atomic of class 1: its home has the line, and nothing meets it. -/
theorem witness_atomic_near :
    classAt sharedState sharedState.th.asid 0x40000 = 1 ∧ classAt heldState heldState.th.asid 0x40000 = 2 ∧ sharedState.th.acted = none ∧
    isBehind sharedState (coreOf sharedState.th.num) sharedState.th.asid 0x40000 sharedState.mem.posted = false ∧ weltAt sharedState sharedState.th.asid 0x40000 = none ∧
    protectedBy sharedState 0 sharedState.th.asid 0x40000 4 = false ∧ protectedBy sharedState 1 sharedState.th.asid 0x40000 4 = false ∧
    writeStalls sharedState sharedState.th.asid 0x40000 4 = false ∧ atomicResult .n32 0 0x04030201 7 0 = some 0x04030208 ∧
    (valueOf (amoNow 1 0 (typeCode .n32) 0x40000 4 7 0 sharedState)).map (fun x => (x.1, x.2.mem.posted.length, (homeFind x.2 0 1 0x10000).map fun h => h.owner)) =
      some (0x04030201, 0, some (some 0)) := by decide +kernel

/-- A one-byte store into a held word, before and after it is registered. -/
def storing (s : State) : State := leftBy (storeGlobal 3 .normal 0x40003 1 0x7F s) s
@[inherit_doc storing] def storedIn (s : State) : State :=
  match (storing s).mem.posted.getLast? with
  | some p => (arrivePosted ((storing s).mem.posted.length - 1) p (storing s)).getD s
  | none => s

/-- StoresReadBack: a store of one byte, posted, of shared memory of both classes, its read while it is posted and after it is registered. -/
theorem witness_read_back :
    [heldState, sharedState].all (fun s => isOk (storeGlobal 3 .normal 0x40003 1 0x7F s) &&
      isUnderWay (storing s) (l1Core (storing s) (coreOf (storing s).th.num) 0x40003) 1 (touched 0x40003 1) &&
      (storing s).mem.posted.any (fun p => isOk (checkHome p.agent true 0x40003 1 (storing s)) &&
        (match placeNarrow p.agent 0x40003 1 (storing s) with | .ok r => !isWelt r.1 | .error _ => false) && (arrivePosted 0 p (storing s)).isSome) &&
      !isUnderWay (storedIn s) (l1Core (storedIn s) 0 0x40003) 1 (touched 0x40003 1) &&
      (valueOf (loadGlobal 6 .normal 0x40003 1 (storedIn s))).map Prod.fst == some 0x7F) = true ∧
    Allowed (storing heldState) false 0x40003 1 ∧ Allowed (storedIn heldState) false 0x40003 1 ∧ 0x40003 % 1 = 0 ∧ 0x7F < 2 ^ (8 * 1) := by
  have allowed : Allowed (storing heldState) false 0x40003 1 := by unfold Allowed; decide +kernel
  have allowed' : Allowed (storedIn heldState) false 0x40003 1 := by unfold Allowed; decide +kernel
  exact ⟨by decide +kernel, allowed, allowed', by decide, by decide⟩

/-- A store into private memory posts nothing. -/
theorem witness_private :
    isOk (storeGlobal 3 .normal 0x40003 1 0x7F (globe 0x40000 [])) = true ∧
    (let s : State := { heldState with mem := { heldState.mem with objects := [(1, ⟨1, 0x40000, 64, 1, 0, 0, 0⟩)] } }
     isUnderWay (storing s) 0 1 (touched 0x40003 1) = false ∧ (valueOf (loadGlobal 6 .normal 0x40003 1 (storing s))).map Prod.fst = some 0x7F) := by decide +kernel

/-- m1 binds set 4 of this thread, m2 scope 3; counts and error bits as given. -/
def fencing (remote device : Nat) (rerr derr : Bool) : State :=
  let s := globe 0x40020 []
  { s with th := { s.th with cntRemote := remote, cntDevice := device, rerr := rerr, derr := derr, refused := 6
                             names := (s.th.names.set 1 { bound := .set 4, member := true }).set 2 { bound := .scope 3 } }
           sets := [(4, { e := 1 })] }

/-- One object of the space at 0x50000, or every number in use. -/
def objects (xs : List (Nat × ObjRec)) (va : Word) : State := let s := globe va []; { s with mem := { s.mem with objects := xs } }

/-- The object that the record at 0x40020 describes, and one that it does not meet. -/
def anObject : ObjRec := ⟨1, 0x50000, 128, 1, 0, 2, 0⟩
@[inherit_doc anObject] def another : ObjRec := ⟨1, 0x50080, 128, 1, 0, 2, 0⟩

/-- FencesWaitsAndObjects: every answer of a wait, each kind of name, a release that can be made, and each answer of objd. -/
theorem witness_fences :
    (fencing 0 0 true false).th.rerr = true ∧ (fencing 0 0 false true).th.derr = true ∧ (fencing 1 0 false false).th.cntRemote ≠ 0 ∧
    ((fencing 0 0 false false).th.getM 0).bound = .unbound ∧ ((fencing 0 0 false false).th.getM 1).bound = .set 4 ∧ ((fencing 0 0 false false).th.getM 2).bound = .scope 3 ∧
    isOk (releaseAt 6 (fencing 0 0 false false)) = true ∧ isOk (releaseAt (setLevel 4 (fencing 0 0 false false)) (fencing 0 0 false false)) = true ∧
    (valueOf (objectRecord 0x40020 (globe 0 []))).map (fun x => parseObject 1 x.1) = some (some anObject) ∧
    (valueOf (objectRecord 0x40060 (globe 0 []))).map (fun x => parseObject 1 x.1) = some none ∧
    anObject.meets anObject = true ∧ anObject.meets another = false ∧ isOk (settleObject anObject (objects [(1, another)] 0x40020)) = true := by decide +kernel

theorem witness_object_numbers :
    (∀ id, 1 ≤ id → id ≤ 4095 → (lookup id (objects (tableOf 4095 another) 0).mem.objects).isSome = true) ∧
    (∃ id, 1 ≤ id ∧ id ≤ 4095 ∧ lookup id (objects [(1, another)] 0).mem.objects = none) ∧ lookup 1 (objects [(1, another)] 0).mem.objects = some another ∧
    another.asid = (objects [] 0).th.asid ∧ { another with asid := 2 }.asid ≠ (objects [] 0).th.asid :=
  ⟨fun id h h2 => by simp only [objects, lookup_tableOf another h h2, Option.isSome_some], ⟨2, by decide +kernel⟩, by decide +kernel, by decide, by decide⟩

/-- Prefetches: a line that comes, a page that is absent, and a line that the cluster home holds whole. -/
theorem witness_prefetch :
    prefetchOf (.pref 3 0) = some (3, 0, 5, .normal, 4) ∧ isOk (bringLine 5 .normal 0x40000 (globe 0x40000 [])) = true ∧
    (match bringLine 5 .normal 0x40000000 (globe 0x40000000 []) with | .error (.endTask _) => true | _ => false) = true ∧
    (let s := globe 0x40000 []
     let s : State := { s with mem := { s.mem with slices := (List.range 32).map fun k => ⟨0, 1, 0x10000 + k, some 7, false, false, false, none, some (0x10000 + k), 3, 0, false, false, false⟩ } }
     (List.range 32).all fun k => match homeRead s 0 5 0 1 (0x10000 + k) with | .miss => false | _ => true) = true := by
  refine ⟨?_, ?_, ?_, ?_⟩ <;> decide +kernel

theorem test_fences :
    trapOf (.wcnt .wrs) (fencing 0 0 true false) = some (0x1700, 6) ∧ (after (.wcnt .wgs) (fencing 1 0 true true)).th.pc = 0x10004 ∧ waits (.wcnt .none) (fencing 0 1 true false) = true ∧
    trapOf (.fence (.named 0)) (fencing 0 0 false false) = some (0x1000, 0) ∧ trapOf (.acq (.named 2)) (fencing 0 0 false false) = some (0x1001, 0) ∧
    (after (.relX (.named 1)) (fencing 0 0 false false)).th.pc = 0x1000C ∧ (after (.objd 6 3) (globe 0x40060 [])).getD 6 = 0x800000000000000E ∧
    (after (.objd 6 3) (objects [(1, anObject)] 0x40020)).getD 6 = 0x800000000000000F ∧ trapOf (.objd 6 3) (globe 0x40010 []) = some (0x402, 0x40010) ∧
    (after (.objf 5) (objects [(2, another)] 0)).mem.objects = [] ∧ (after (.objf 5) (objects [(2, { another with asid := 2 })] 0)).mem.objects.length = 1 ∧
    (after (.pref 3 0) (globe 0x40000 [])).th.pc = 0x10004 := by decide +kernel

/-! ### Work, sets, messages and scopes -/

/-- d3 to d5 addresses: a card in form at 0x40000, one of no version at 0x40040, one out of form at 0x40080; scope 3 in a state. -/
def jobs (stage : Nat) (cards : List (Nat × Card)) : State :=
  let s := with_ [(3, 0x40000), (4, 0x40040), (5, 0x40080), (6, 0x40001)] (onCore 0)
  { s with mem := { s.mem with dram := pages ++ [(0x40000, 2), (0x40006, 16), (0x40008, 4), (0x4000C, 1), (0x40012, 4), (0x4001A, 1), (0x40022, 1),
             (0x40024, 1), (0x40080, 2)] }
           scopes := [(2, { parent := 0, state := 1, kind := 0 }), (3, { parent := 2, state := stage, kind := 1 })]
           cards := cards
           th := { s.th with names := s.th.names.set 1 { bound := .scope 3 } } }

/-- What the submission of a card at an address finds: the version, whether its form is right, the stage of its scope. -/
def cardAt (va : Nat) (s : State) : Option (List Nat) :=
  (valueOf (readAtBank va 64 (leftBy (releaseAt 5 s) s))).map fun x =>
    [natOfBytes (x.1.take 2), (cardFormOk x.1).toNat, scopeState x.2 (if (parseCard x.1).scope = 0 then x.2.th.scopeid else (parseCard x.1).scope)]

/-- WorkIsSubmittedTakenAndEnded, submission: every answer of R192 in its order, in and out of a cancel handler, and names. -/
theorem witness_submission :
    isOk (releaseAt 5 (jobs 1 [])) = true ∧ cardAt 0x40000 (jobs 1 []) = some [2, 1, 1] ∧ cardAt 0x40000 (jobs 3 []) = some [2, 1, 3] ∧ cardAt 0x40040 (jobs 1 []) = some [0, 0, 1] ∧
    cardAt 0x40080 (jobs 1 []) = some [2, 0, 1] ∧ cardAt 0x40000 (jobs 2 []) = some [2, 1, 2] ∧ isUnder (jobs 1 []) 3 3 = true ∧ ((jobs 1 []).getD 6).toNat % 64 ≠ 0 ∧
    ((jobs 1 []).th.getM 0).bound = .unbound ∧ ((jobs 1 []).th.getM 1).bound = .scope 3 ∧ (jobs 1 []).scope? 1 = none ∧ (jobs 1 []).cards.length < 4096 := by decide +kernel

theorem witness_queue_full : 4096 ≤ ((jobs 1 (tableOf 4096 card)).cards.filter fun x => x.2.isQueued).length := by
  have queued : card.isQueued = true := by decide +kernel
  have all : (tableOf 4096 card).filter (fun x => x.2.isQueued) = tableOf 4096 card :=
    List.filter_eq_self.mpr fun x hx => by
      obtain ⟨_, _, rfl⟩ := List.mem_map.mp hx
      exact queued
  have length : ((tableOf 4096 card).filter fun x => x.2.isQueued).length = 4096 := by rw [all, tableOf, List.length_map, List.length_range]
  simp only [jobs, length]
  exact Nat.le_refl 4096

theorem test_submission :
    (after (.jsub 7 3) (jobs 3 [])).getD 7 = 1 ∧ (after (.jsub 7 4) (jobs 1 [])).getD 7 = 2 ∧ (after (.jsub 7 5) (jobs 1 [])).getD 7 = 3 ∧ (after (.jsub 7 3) (jobs 2 [])).getD 7 = 4 ∧
    trapOf (.jsub 7 6) (jobs 1 []) = some (0x402, 0x40001) ∧ trapOf (.spawn 7 3 0) (jobs 1 []) = some (0x1000, 0) := by decide +kernel

/-- Task 7 of a card whose next record is given, with so many chunks taken. -/
def taking (next dealt flags : Nat) : State :=
  let s := onCore 0
  { s with cards := [(5, { card with next := next, flags := flags })], th := { s.th with dealt := dealt } }

/-- The rest: a task and none, a gang, a chunk dealt before and none; counts and a task that can end, of one thread and of two. -/
theorem witness_taking :
    { onCore 0 with tasks := [] }.taskOf (onCore 0).th = none ∧ (onCore 0).taskOf (onCore 0).th = some (task 0) ∧ lookup 5 (taking 2 0 1).cards = some { card with flags := 1 } ∧
    (task 0).deals[0 + 1]? = none ∧ (task 0).id = (onCore 0).th.taskid ∧ (onCore 0).th.live = true ∧ lookup 3 (task 0).record = none ∧
    (valueOf (releaseAt 5 (onCore 0))).map (fun u => decide (u.th = (onCore 0).th)) = some true ∧ (∀ n ∈ (task 0).live, n = (onCore 0).th.num) ∧
    ¬ (∀ n ∈ { task 0 with live := [0, 1] }.live, n = (onCore 0).th.num) ∧ (fencing 1 0 false false).th.cntRemote ≠ 0 := by decide +kernel

/-- A chunk dealt for the thread, a scope that is cancelling, and a card of a higher class that could take the slot. -/
theorem witness_jnext :
    ({ task 0 with deals := [(0, 2), (2, 1)] } : Task).deals[(taking 4 0 0).th.dealt + 1]? = some (2, 1) ∧ (taking 4 0 0).th.inHandler = false ∧ scopeState (taking 4 0 0) 3 = 1 ∧
    (let s := { onCore 0 with welt := { (onCore 0).welt with poolpages := 64 }, cards := [(5, { card with next := 4 }), (6, { card with id := 6, cls := 1, next := 0 })] };
      (s.cards.map fun d => (d.2.rank, mayPlace s d.2, couldTake s d.2 s.th.num))) = [(3, false, true), (1, true, true)] := by
  refine ⟨?_, ?_, ?_, ?_⟩ <;> decide +kernel

theorem test_taking :
    (after .jnext (taking 2 0 1)).getD 4 = 0 ∧
    waits .done (fencing 1 0 false false) = true ∧ (after .done (onCore 0)).th.live = false ∧ (after .done (onCore 0)).tasks = [] ∧
    (after .yield (onCore 0)).th.pc = 0x10004 := by decide +kernel

/-- m1 binds set 4 with a membership and an arrival; the set has E, A and P; d3 a number. -/
def gathering (e a p : Nat) (member : Bool) (arrived : Option Nat) (v : Word) : State :=
  let s := with_ [(3, v)] (onCore 0)
  { s with th := { s.th with names := (s.th.names.set 1 ⟨.set 4, member, arrived, none⟩).set 2 ⟨.scope 3, false, none, none⟩ }
           sets := [(4, { e := e, a := a, p := p })] }

/-- SetsGatherAndRelease: numbers at both ends, names of each kind, members and others, the last arrival and one before it, a released phase. -/
theorem witness_sets :
    16384 ≤ ((gathering 2 0 0 true none 16384).getD 3).toNat ∧ ((gathering 2 0 0 true none 16383).getD 3).toNat < 16384 ∧ lookup 16383 (gathering 2 0 0 true none 0).sets = none ∧
    lookup 4 (gathering 2 0 0 true none 0).sets ≠ none ∧ ((gathering 2 0 0 true none 0).th.getM 0) = ⟨.unbound, false, none, none⟩ ∧ ((gathering 2 0 0 true none 0).th.getM 1).bound = .set 4 ∧
    ((gathering 2 0 0 true none 0).th.getM 2).bound = .scope 3 ∧ lookup 1 (gathering 2 0 0 true none 0).sets = none ∧
    ((gathering 2 1 0 true none 0).set 4).a + 1 = ((gathering 2 1 0 true none 0).set 4).e ∧ ((gathering 2 0 0 true none 0).set 4).a + 1 ≠ ((gathering 2 0 0 true none 0).set 4).e ∧
    ((gathering 2 0 1 true (some 0) 0).th.getM 1).arrived = some 0 ∧ 0 < ((gathering 2 0 1 true (some 0) 0).set 4).p ∧ ((gathering 2 1 0 true (some 0) 0).set 4).p ≤ 0 ∧
    (valueOf (releaseAt (setLevel 4 (gathering 2 1 0 true none 0)) (gathering 2 1 0 true none 0))).map
      (fun u => decide (u.sets = (gathering 2 1 0 true none 0).sets ∧ u.th = (gathering 2 1 0 true none 0).th)) = some true := by decide +kernel

/-- A membership by a name, none, and an arrival that a `bar` at the PC has made. -/
theorem witness_members :
    MemberBy (gathering 2 0 0 true none 0).th 4 1 ∧ NoMember (gathering 2 0 0 false none 0).th 4 ∧ (gathering 2 0 0 true none 0).th.inHandler = false ∧
    (let n : NameEnt := { bound := .set 4, member := true, arrived := some 0, byBar := some 0x10000 }; n.byBar) = some (gathering 2 0 0 true none 0).th.pc := by
  have others : ∀ k : MReg, k ≠ 1 → (gathering 2 0 0 true none 0).th.names[k.toNat].member = false := by decide +kernel
  refine ⟨⟨by decide +kernel, fun j hj h => ?_⟩, fun k h => ?_, by decide +kernel, by decide +kernel⟩
  · have : j ≠ 1 := fun e => by subst e; exact absurd hj (by decide)
    exact absurd ((others j this).symm.trans h.1) (by decide)
  · have : ∀ k : MReg, ((gathering 2 0 0 false none 0).th.getM k).member = false := by decide +kernel
    exact absurd ((this k).symm.trans h.1) (by decide)

theorem witness_sets_full : ∀ id, 1 ≤ id → id ≤ 16383 → lookup id { gathering 1 0 0 true none 0 with sets := tableOf 16383 ({} : SetRec) }.sets ≠ none :=
  fun id h h' => by simp only [lookup_tableOf ({} : SetRec) h h']; exact nofun

theorem test_sets :
    trapOf (.mset 0 3) (gathering 2 0 0 true none 16384) = some (0x109, 0) ∧ trapOf (.mset 0 3) (gathering 2 0 0 true none 9) = some (0x1000, 0) ∧
    trapOf (.mset 1 3) (gathering 2 0 0 true none 0) = some (0x1003, 0) ∧ ((after (.mset 0 3) (gathering 2 0 0 true none 4)).th.getM 0).bound = .set 4 ∧
    trapOf (.join 1) (gathering 2 0 0 true none 0) = some (0x1004, 0) ∧ (after (.join 1) (gathering 2 0 0 false none 0)).set 4 = { e := 3 } ∧
    trapOf (.leave 1) (gathering 2 0 0 false none 0) = some (0x1005, 0) ∧ trapOf (.barA 2) (gathering 2 0 0 true none 0) = some (0x1001, 0) := by decide +kernel

theorem test_barriers :
    (after (.barA 1) (gathering 2 1 0 true none 0)).set 4 = { e := 2, a := 0, p := 1, last := [0] } ∧ (after (.barA 1) (gathering 2 0 0 true none 0)).set 4 = { e := 2, a := 1, here := [0] } ∧
    waits (.bar 1) (gathering 2 0 0 true none 0) = true ∧ waits (.bar 1) (gathering 2 1 0 true none 0) = false ∧ (after (.barW 1) (gathering 2 0 1 true (some 0) 0)).th.pc = 0x10004 ∧
    waits (.barW 1) (gathering 2 1 0 true (some 0) 0) = true ∧ trapOf (.barW 1) (gathering 2 0 0 true none 0) = some (0x1007, 0) ∧
    trapOf (.barA 1) (gathering 2 1 0 true (some 0) 0) = some (0x1006, 0) := by decide +kernel

/-- d3 a slot number; a queue, packets lost, and v1. -/
def mail (slot : Word) (queue : List Msg) (lost : Nat) : State := let s := with_ [(3, slot)] vecs; { s with th := { s.th with queue := queue, lost := lost } }
/-- A packet of slot 9. -/
def packet (topinf : Bool) : Msg := ⟨9, topinf, ramp 5 0⟩

/-- MessagesWatchesAndPhrases, messages: slot numbers at both ends; lost, empty, a packet of each mode. -/
theorem witness_messages :
    16384 ≤ ((mail 16384 [] 0).getD 3).toNat ∧ ((mail 16383 [] 0).getD 3).toNat < 16384 ∧ isOk (useStreams none [1] (mail 0 [] 0)) = true ∧
    isOk (useStreams (some 4) [] (mail 0 [] 0)) = true ∧ (mail 0 [] 1).th.lost ≠ 0 ∧ (mail 0 [] 0).th.queue = [] ∧ (mail 0 [packet true] 0).th.queue = packet true :: [] ∧
    (packet true).topinf ≠ (mail 0 [] 0).th.fmode.getLsbD 2 ∧ (packet false).topinf = (mail 0 [] 0).th.fmode.getLsbD 2 := by decide +kernel

theorem test_messages :
    trapOf (.snd 3 1) (mail 16384 [] 0) = some (0x109, 0) ∧ (after (.snd 3 1) (mail 16383 [] 0)).packets.map (fun p => (p.sender, p.target, lane p.msg.body 31)) = [(0, 16383, 31)] ∧
    trapOf (.rcv 4 6) (mail 0 [packet false] 2) = some (0x1200, 2) ∧ waits (.rcv 4 6) (mail 0 [] 0) = true ∧ trapOf (.rcv 4 6) (mail 0 [packet true] 0) = some (0x1500, 0) ∧
    (after (.rcv 4 6) (mail 0 [packet false] 0)).getD 6 = 9 ∧ laneAfter (.rcv 4 6) (mail 0 [packet false] 0) 4 31 = 5 ∧ (after (.rcvq 6) (mail 0 [packet false] 2)).getD 6 = 0x2000000000001 := by
  decide +kernel

/-- A watch of the words at an address, with a card in form at 0x40000 and some watches armed. -/
def watching (request : Word) (ws : List (Nat × WatchRec)) : State :=
  let s := with_ [(8, request), (9, 1)] (jobs 1 [])
  { s with mem := { s.mem with watches := ws } }
/-- A watch of card 5 in a scope. -/
def aWatch (scope home : Nat) : WatchRec := ⟨5, scope, 1, 0x50000, 1, 0, 0, home⟩

/-- The watches: the last word of a line, one past it, a card that is misaligned, a home with 16 watches and one with 15, and both scopes. -/
theorem witness_watches :
    ((0x50078 : Word).toNat % 128 + 8 * 1 ≤ 128 ∧ (0x50078 : Word).toNat / 2 ^ 56 % 16 = 0 ∧ (0x50078 : Word).toNat % 8 = 0) ∧ ¬ ((0x1000000000050078 : Word).toNat % 128 + 8 * 2 ≤ 128) ∧
    ((watching 0x50078 []).getD 6).toNat % 64 ≠ 0 ∧ ((valueOf (readAtBank 0x40000 64 (watching 0x50078 []))).map fun x => decide (16 ≤ (parseCard x.1).rsize)) = some true ∧
    ((valueOf (readAtBank 0x40040 64 (watching 0x50078 []))).map fun x => decide ((parseCard x.1).rsize < 16)) = some true ∧
    16 ≤ ((watching 0 (tableOf 16 (aWatch 3 2))).mem.watches.filter fun w => w.2.home = 2).length ∧ ((watching 0 (tableOf 15 (aWatch 3 2))).mem.watches.filter fun w => w.2.home = 2).length < 16 ∧
    (watching 0 [(1, aWatch 3 2)]).mem.watches.find? (fun w => w.1 = 1) = some (1, aWatch 3 2) ∧ (aWatch 3 2).scope = (watching 0 []).th.scopeid ∧
    (aWatch 2 2).scope ≠ (watching 0 []).th.scopeid := by decide +kernel

theorem test_watches :
    trapOf (.watch 7 3 8 9 5) (watching 0x1000000000050078 []) = some (0x109, 0) ∧ trapOf (.watch 7 6 8 9 5) (watching 0x50078 []) = some (0x402, 0x40001) ∧
    (after (.unwatch 9) (watching 0 [(1, aWatch 2 2)])).mem.watches.length = 1 ∧ (after (.unwatch 9) (watching 0 [(1, aWatch 3 2)])).mem.watches = [] := by decide +kernel

/-- Slot 0 of a core whose phrase role is given, with slot 0 of the next core in a role; d3 a number. -/
def row (core : Nat) (role next : PhraseRole) (v : Word) : State :=
  let s := with_ [(3, v)] (onCore core)
  { s with th := { s.th with phrase := role }, others := [{ user (core + 1) with phrase := next }] }

/-- Phrases: the widths at both ends, a row that ends, a dependent that waits and one that does not, and threads in a phrase. -/
theorem witness_phrases :
    rowPosition 0 + 16 ≤ 16 ∧ 16 < rowPosition 1 + 16 ∧ ((row 0 .none (.joining 0) 2).thread? 4).map (fun t => t.phrase) = some (.joining 0) ∧
    ((row 0 .none .none 2).thread? 4).map (fun t => t.phrase) = some .none ∧ (row 0 (.head 2) .none 2).th.phrase = .head 2 ∧ (row 1 (.dependent 0) .none 0).th.phrase = .dependent 0 ∧
    coreInRow 0 (rowPosition 1) = 1 ∧ rowPosition 0 < rowPosition 1 ∧ (row 1 .none .none 0).thread? 0 = none := by decide +kernel

/-- A head that waits for its dependents, the last of which the thread is; and a head whose phrase has formed without it. -/
theorem witness_joining :
    ((row 1 .none .none 0).thread? 0, rowPosition (coreOf (row 1 .none .none 0).th.num)) = (none, 1) ∧
    (let s := { row 1 .none .none 0 with others := [{ user 0 with phrase := .leading 2 }] }; (s.thread? 0).map (fun t => (t.phrase, memberSlot 0 1))) = some (.leading 2, 4) ∧
    (let s := { row 2 .none .none 0 with others := [{ user 0 with phrase := .head 2 }] }; (s.thread? 0).map (fun t => (t.phrase, rowPosition (coreOf s.th.num)))) = some (.head 2, 2) := by
  refine ⟨?_, ?_, ?_⟩ <;> decide +kernel

/-- R216: the last dependent completes the phrase; one that the head's phrase does not reach traps. -/
theorem test_joining :
    (let t := after (.phrJoin 3) { row 1 .none .none 0 with others := [{ user 0 with phrase := .leading 2, pc := 0x40 }] };
      (t.th.phrase, t.th.pc, (t.thread? 0).map fun h => (h.phrase, h.pc))) = (.dependent 0, 0x44, some (.head 2, 0x44)) ∧
    trapOf (.phrJoin 3) { row 2 .none .none 0 with others := [{ user 0 with phrase := .head 2 }] } = some (0x1101, 0) := by
  refine ⟨?_, ?_⟩ <;> decide +kernel

/-- A head on another slot of the core that a thread names, and a bar of a thread that is no member. -/
theorem test_other_slot :
    trapOf (.phrJoin 3) { row 1 .none .none 0 with others := [{ user 0 with num := 1, phrase := .leading 2 }] } = some (0x1101, 0) ∧
    waits (.phrJoin 3) { row 1 .none .none 0 with others := [{ user 0 with num := 1, phrase := .leading 2 }, user 0] } = true ∧
    trapOf (.bar 1) (gathering 2 0 0 false none 0) = some (0x1005, 0) ∧ ((gathering 2 0 0 false none 0).th.getM 1).arrived = none := by
  refine ⟨?_, ?_, ?_, ?_⟩ <;> decide +kernel

theorem test_phrases :
    trapOf (.phrLead 3) (row 0 .none .none 1) = some (0x109, 0) ∧ trapOf (.phrLead 3) (row 0 .none .none 17) = some (0x109, 0) ∧ trapOf (.phrLead 3) (row 1 .none .none 16) = some (0x1101, 0) ∧
    trapOf (.phrLead 3) (row 0 (.head 2) .none 2) = some (0x1100, 0) ∧ waits (.phrLead 3) (row 0 .none .none 2) = true ∧ (after (.phrLead 3) (row 0 .none (.joining 0) 2)).th.phrase = .head 2 ∧
    waits (.phrJoin 3) (row 1 .none .none 0) = true ∧ (after .phrEnd (row 0 (.head 2) .none 0)).th.phrase = .none := by decide +kernel

/-- m1 binds scope 4, which this thread's task opened, in a state (0: freed) and with an abnormal count; m2 binds a set; d3 a number. With a
child, scope 6 lies under scope 4. -/
def inScope (state abn : Nat) (child : Bool) (v : Word) : State :=
  let s := with_ [(3, v)] (onCore 0)
  { s with th := { s.th with names := (s.th.names.set 1 ⟨.scope 4, false, none, none⟩).set 2 ⟨.set 9, false, none, none⟩ }
           scopes := s.scopes ++ (if state = 0 then [] else [(4, { parent := 3, state := state, kind := 2, abn := abn, first := 17, owner := 7 })]) ++
             (if child then [(6, { parent := 4, state := 1, kind := 2, owner := 7 })] else []) }

/-- ScopesOpenCloseAndCancel: every kind of name; a scope freed, idle with and without failures, and one with something left; each stage of
a cancellation, by name and by number, of a descendant, a root, an unrelated scope and a number that is free or too large. -/
theorem witness_scopes :
    ((inScope 1 0 false 0).th.getM 0).bound = .unbound ∧ ((inScope 1 0 false 0).th.getM 1).bound = .scope 4 ∧ ((inScope 1 0 false 0).th.getM 2).bound = .set 9 ∧
    (inScope 1 0 false 0).scope? 1 = none ∧ (inScope 0 0 false 0).scope? 4 = none ∧ isScopeIdle (inScope 1 0 false 0) 4 = true ∧ isScopeIdle (inScope 1 0 true 0) 4 = false ∧
    ((inScope 4 1 false 0).scope? 4).map (fun r => (r.state, r.abn)) = some (4, 1) ∧ isOk (releaseAt 5 (inScope 1 0 false 0)) = true ∧ scopeState (inScope 2 0 false 0) 4 = 2 ∧
    isUnder (inScope 2 0 false 0) 3 4 = false ∧ scopeState (inScope 0 0 false 0) 4 = 0 ∧ scopeState (inScope 3 0 false 0) 4 = 3 ∧
    isUnder (inScope 1 0 true 6) 3 6 = false ∧ isUnder (inScope 1 0 true 6) 6 3 = true ∧ ((inScope 1 0 false 2).scope? 2).map (fun r => r.kind) = some 0 ∧
    (65536 : Word).toNat = 65536 ∧ (inScope 1 0 false 0).scope? 65535 = none := by decide +kernel

theorem witness_scopes_full (r : ScopeRec) : ∀ id, 1 ≤ id → id ≤ 65535 → { inScope 1 0 false 0 with scopes := tableOf 65535 r }.scope? id ≠ none :=
  fun id h h' => by simp only [State.scope?, lookup_tableOf r h h']; exact nofun

theorem test_scopes :
    trapOf (.scope 1) (inScope 1 0 false 0) = some (0x1003, 0) ∧ trapOf (.scopeClose 2) (inScope 1 0 false 0) = some (0x1001, 0) ∧ trapOf (.cancel 0) (inScope 1 0 false 0) = some (0x1000, 0) ∧
    (after (.scopeClose 1) (inScope 1 0 false 0)).scope? 4 = none ∧ ((after (.scopeClose 1) (inScope 1 0 false 0)).th.getM 1).bound = .unbound ∧
    (after (.scopeClose 1) (inScope 1 2 false 0)).th.queue.map (fun m => (lane m.body 0, lane m.body 2, lane m.body 4)) = [(4, 17, 2)] ∧
    waits (.scopeClose 1) (inScope 1 0 true 0) = true ∧ scopeState (after (.scopeClose 1) (inScope 1 0 true 0)) 4 = 2 := by decide +kernel

theorem test_cancellation :
    scopeState (after (.cancel 1) (inScope 1 0 true 0)) 4 = 3 ∧ scopeState (after (.cancel 1) (inScope 1 0 true 0)) 6 = 3 ∧ waits (.cancelW 1) (inScope 3 0 false 0) = true ∧
    (after (.cancelW 1) (inScope 4 0 false 0)).th.pc = 0x10004 ∧ trapOf (.cancelById 3) (inScope 1 0 false 65536) = some (0x109, 0) ∧ (after (.cancelById 3) (inScope 1 0 false 2)).getD 3 = 4 ∧
    (after (.cancelById 3) (inScope 1 0 false 99)).getD 3 = 4 ∧ (after (.cancelById 3) (inScope 1 0 true 6)).getD 3 = 0 ∧ (after (.cancelWById 3) (inScope 1 0 false 99)).getD 3 = 0 ∧
    trapOf (.onc 3) (inScope 1 0 false 2) = some (0x109, 0) ∧ (after (.onc 3) (inScope 1 0 false 8)).th.onc = 8 := by decide +kernel

/-! ### The exchange -/

/-- The bytes of a timetable of two entries: slot 3 to rank 1 at offset 32, two flits, and slot 0 to rank 0, the last. -/
def tableByte : Nat → Byte
  | 0 => 32 | 4 => 1 | 6 => 5 | 8 => 3 | 9 => 2 | 22 => 1 | 25 => 1 | 26 => 1
  | _ => 0

/-- A thread of a gang of two ranks, or of no gang; d3 an offset, d5 to d7 a request; the timetable's bytes at the partition's end. -/
def ganged (gang : Bool) (o : Word) (x : Exchange) : State :=
  let s := with_ [(3, o), (5, 1), (6, 0x1000000020), (7, 0x1FF8)] (onCore 0)
  { s with cards := [(5, { card with flags := if gang then 1 else 0, rcount := 2 })]
           th := { s.th with exch := x }
           mem := { s.mem with scratch := (List.range 32).map fun k => (0x1FE0 + k, tableByte k) } }

/-- ExchangesArePreparedAndCounted, the timetable: two entries that end with the partition. -/
theorem witness_timetable : Timetable (ganged true 0x1FE0 {}) 2 0x1FE0 [⟨32, 1, 5, 3, 2⟩, ⟨0, 0, 1, 0, 1⟩] ∧ gangOf (ganged false 0 {}) = none ∧
    (gangOf (ganged true 0 {})).map (fun x => (x.1.id, x.2.rcount, x.2.xbound)) = some (7, 2, 1) ∧ ((ganged true 0x1FE0 {}).getD 3).toNat % 16 = 0 := by
  refine ⟨?_, by decide +kernel, by decide +kernel, by decide +kernel⟩
  unfold Timetable EntryInForm; decide +kernel

/-- The same timetable breaks a rule at its first entry in a gang of one rank, and at none of its entries in a gang of two. -/
theorem witness_table_breaks :
    TableBreaksAt (ganged true 0x1FE0 {}) 1 0x1FE0 0 ∧ ¬ TableBreaksAt (ganged true 0x1FE0 {}) 2 0x1FE0 0 ∧ ¬ TableBreaksAt (ganged true 0x1FE0 {}) 2 0x1FE0 1 := by
  have far : (entryAt (ganged true 0x1FE0 {}) 0x1FE0).drank = 1 := by decide +kernel
  have first : EntryInForm (ganged true 0x1FE0 {}) 2 0x1FE0 := by simp only [EntryInForm]; decide +kernel
  have second : EntryInForm (ganged true 0x1FE0 {}) 2 (0x1FE0 + 16 * 1) := by simp only [EntryInForm]; decide +kernel
  have slots : (entryAt (ganged true 0x1FE0 {}) (0x1FE0 + 16 * 0)).slot ≠ (entryAt (ganged true 0x1FE0 {}) (0x1FE0 + 16 * 1)).slot := by decide +kernel
  refine ⟨⟨by decide, by decide +kernel, fun k h => ?_, fun k h => absurd h (by omega), .inl fun h => ?_⟩,
    fun h => h.2.2.2.2.elim (fun c => c ⟨first, fun j hj => absurd hj (by omega)⟩) fun c => absurd c.1 (by decide),
    fun h => h.2.2.2.2.elim (fun c => c ⟨second, fun j hj => ?_⟩) fun c => absurd c.1 (by decide)⟩
  · obtain rfl : k = 0 := by omega
    decide +kernel
  · have : (entryAt (ganged true 0x1FE0 {}) 0x1FE0).drank < 1 := h.1.2.2.2.1
    omega
  · obtain rfl : j = 0 := by omega
    exact slots

/-- An exchange with that timetable; posted so many packets, so many beyond; arrived, done; the end it is to report. -/
def exch (beyond : Nat) (arrived done topcode : Bool) (remote : Option Nat) : Exchange :=
  { table := [⟨32, 1, 5, 3, 2⟩, ⟨0, 0, 1, 0, 1⟩], beyond := beyond, arrived := arrived, done := done, topcode := topcode, remote := remote, flits := 65536 + 3, adds := 2 }

/-- The sources, requests and ends: a slot of the table and another; a range that ends with the partition and one that does not; the last
rank and one past it; each end of an exchange, packets beyond, and a first arrival. -/
theorem witness_exchange :
    (exch 0 false false false none).table.find? (fun e => e.slot = 3) = some ⟨32, 1, 5, 3, 2⟩ ∧ (∀ e ∈ (exch 0 false false false none).table, e.slot ≠ 4) ∧
    sourceOf (ganged true 0x1F00 {}) (.xsend 3 3 0) = some (3, 0x1F00, 4) ∧ 0x1F00 + 128 * 2 ≤ (ganged true 0 {}).th.spsize.toNat ∧
    (∃ r, requestOf (ganged true 0 {}) (.xreq 5 6 7) = some r ∧ r.owner < 2 ∧ r.words = 2 ∧ r.off % 4 = 0 ∧ r.loc + 4 * r.words ≤ (ganged true 0 {}).th.spsize.toNat) ∧
    (∃ r, requestOf (ganged true 0 {}) (.xaddX 7 6 7) = some r ∧ 2 ≤ r.owner) ∧ (exch 0 false true false (some 9)).done = true ∧ (exch 0 false true true none).topcode = true ∧
    (exch 3 false false false none).beyond ≠ 0 ∧ isOk (releaseAt (gangLevel (task 0)) (ganged true 0 (exch 0 false false false none))) = true := by
  refine ⟨?_, ?_, rfl, ?_, ⟨_, rfl, ?_, ?_, ?_, ?_⟩, ⟨_, rfl, ?_⟩, ?_, ?_, ?_, ?_⟩
  all_goals decide +kernel

theorem witness_request_forms :
    (∃ r, requestOf (ganged true 0 {}) (.xreq 5 6 7) = some r ∧ r.Good) ∧ (∃ r, requestOf (ganged true 0 {}) (.xadd 5 6 7) = some r ∧ ¬ r.Good) := by
  refine ⟨⟨_, rfl, ?_⟩, ⟨_, rfl, ?_⟩⟩ <;> · unfold Request.Good; decide +kernel

theorem test_exchange :
    trapOf (.xtt 3) (ganged false 0x1FE0 {}) = some (0x1304, 0) ∧ (after (.xtt 3) (ganged true 0x1FE0 {})).th.exch.table = [⟨32, 1, 5, 3, 2⟩, ⟨0, 0, 1, 0, 1⟩] ∧
    trapOf (.xtt 3) (ganged true 0x1FE8 {}) = some (0x400, 0x1FE8) ∧ trapOf (.xsend 4 3 0) (ganged true 0x1F00 (exch 0 false false false none)) = some (0x1301, 0) ∧
    (after (.xsend 3 3 0) (ganged true 0x1F00 (exch 0 false false false none))).th.exch.sources = [(3, 0x1F00)] ∧
    trapOf (.xsend 3 3 16) (ganged true 0x1F00 (exch 0 false false false none)) = some (0x500, 0x1F10) ∧ trapOf (.xadd 5 6 7) (ganged true 0 {}) = some (0x109, 0) ∧
    trapOf (.xreq 7 6 7) (ganged true 0 {}) = some (0x1302, 0) ∧ ((after (.xreq 5 6 7) (ganged true 0 {})).th.exch.posted.map fun c => (c.owner, c.ooff, c.words)) = [(1, 32, 2)] := by
  decide +kernel

theorem test_steps :
    trapOf .step (ganged false 0 {}) = some (0x1304, 0) ∧ trapOf .step (ganged true 0 (exch 3 false false false none)) = some (0x1400, 3) ∧
    trapOf .step (ganged true 0 (exch 0 false true false (some 9))) = some (0x1303, 9) ∧ trapOf .step (ganged true 0 (exch 0 false true true none)) = some (0x1501, 0) ∧
    (after .step (ganged true 0 (exch 0 false true false none))).th.pc = 0x10004 ∧ waits .step (ganged true 0 (exch 0 false false false none)) = true ∧
    (after (.xcnt 3) (ganged true 0 (exch 0 false false false none))).getD 3 = 0x200000003 := by decide +kernel

/-! ### System registers, traps and supervisor instructions -/

/-- Slot 0 with a STATUS, in supervisor mode where bit 0 is set; d3 a value. -/
def status (st v : Word) : State := let s := with_ [(3, v)] (onCore 0); { s with th := { s.th with status := st } }

/-- SystemRegistersAreReadAndWritten: an unlisted number, a supervisor one, a read-only one, those that user mode writes, and values at both
ends of their fields. -/
theorem witness_registers :
    readOf (status 0 0) 0x005 = none ∧ (readOf (status 0 0) 0x001).isSome = true ∧ (readOf (status 0 0) 0x029).isSome = true ∧ (readOf (status 1 0) 0x013).isSome = true ∧
    (status 1 0).th.status.getLsbD 0 = true ∧ (status 0 0).th.status.getLsbD 0 = false ∧ (writtenOf (status 1 0).th 0x018 4).isSome = true ∧ writtenOf (status 1 0).th 0x018 5 = none ∧
    (writtenOf (status 1 0).th 0x008 0x7F07).isSome = true ∧ writtenOf (status 1 0).th 0x008 8 = none ∧ (writtenOf (status 1 0).th 0x011 0x2000).isSome = true ∧
    writtenOf (status 1 0).th 0x011 0x4000 = none := by decide +kernel

theorem test_registers :
    trapOf (.srd 4 5) (status 1 0) = some (0x107, 0) ∧ trapOf (.srd 4 1) (status 0 0) = some (0x201, 0) ∧ trapOf (.swr 0x20 3) (status 1 0) = some (0x108, 0) ∧
    trapOf (.swr 4 3) (status 0 0) = some (0x201, 0) ∧ trapOf (.swr 8 3) (status 0 8) = some (0x109, 0) ∧ (after (.swr 4 3) (status 1 0x203FFF)).th.tvec = 0x200000 ∧
    (after (.swr 2 3) (status 1 7)).th.epc = 4 ∧ (after (.srd 4 0x28) (status 0 0)).getD 4 = 0x7C0200 ∧ (after (.swr 0 3) (status 1 4)).th.status = 5 := by decide +kernel

/-- The example of trap entry after R37: user mode, STATUS 4, level 2, TVEC 0x200000, a load at 0x102. -/
def trapExample : State :=
  let s := status 4 0
  { s with th := { (s.th.setD 6 0x100) with lvl := 2, tvec := 0x200000, pc := 0x4010 } }

theorem test_trap_example :
    let t := (after (.lds .none .plain .s32 5 6 2) trapExample).th
    t.status = 0x0219 ∧ t.cause = 0x0400 ∧ t.epc = 0x4010 ∧ t.eaddr = 0x102 ∧ t.pc = 0x200100 ∧
    (after .tret (after (.lds .none .plain .s32 5 6 2) trapExample)).th.status = 0x020C ∧ (after .tret (after (.lds .none .plain .s32 5 6 2) trapExample)).th.pc = 0x4010 := by
  decide +kernel

/-- TrapsSaveAndVector: trap entry with TIP clear at level 4, with TIP set in a running task; pending interrupts taken and not. -/
def interrupted (st : Word) (waiting : Bool) : State := let s := status st 0; { s with th := { s.th with intrs := [0x142], waiting := waiting } }

theorem witness_traps :
    (status 4 0).th.status.getLsbD 4 = false ∧ { (status 4 0).th with lvl := 4 }.lvl ≤ 4 ∧ (status 0x10 0).th.status.getLsbD 4 = true ∧ lookup 7 (status 0x10 0).tasks = some (task 0) ∧
    (task 0).stage = .running ∧ ((status 0 0).dieOf 0).ftm = false ∧ (interrupted 4 false).th.intrs = 0x142 :: [] ∧ (interrupted 4 false).th.status.getLsbD 2 = true ∧
    (interrupted 4 true).th.waiting = true ∧ isCommitted (interrupted 4 true) = false ∧ (status 0 0).th.intrs = [] ∧ (interrupted 0 false).th.status.getLsbD 2 = false := by decide +kernel

theorem test_traps :
    trapOf (.svc 0x305) (status 0 0) = some (0xF05, 0) ∧ trapOf (.brk 1) (status 0 0) = some (0xD01, 0) ∧ trapOf (.trap 0xFF) (status 0 0) = some (0xEFF, 0) ∧
    trapOf (.illegalWord .zero) (status 0 0) = some (0x106, 0) ∧ trapOf (.factoryTest 0xFC) (status 0 0) = some (0x105, 0) ∧ trapOf (.ifetchFault .absent 0x12345) (status 0 0) = some (0x300, 0x10000) ∧
    trapOf .intrEntry (interrupted 4 false) = some (0x1C42, 0) ∧ (after .intrEntry (interrupted 0 false)).th.pc = 0x10000 ∧
    ((lookup 7 (after (.svc 0) (status 0x10 0)).tasks).map fun k => k.stage) = some (.ending 12) ∧ (after (.svc 0) (status 0x10 0)).th.pc = 0x10000 := by decide +kernel

/-- The factory operation stops the model in factory test mode only. -/
theorem test_factory : exec (.factoryTest 0xFC) { status 0 0 with dies := Vector.replicate 8 { ftm := true } } = .fault .factoryOperation := by rfl

/-- A die's fault buffer of four records, two of them live, the newest of engine context 1 of tile 0; d3 an address or a number. -/
def supervisor (v : Word) : State :=
  let s := status 1 v
  { s with mem := { s.mem with dram := pages ++ [(0x60003, 1), (0x60043, 2)] }
           dies := Vector.replicate 8 { live := true, fenced := false, frbase := 0x60000, frslots := 4, frhead := 0, frtail := 2 } }

/-- SupervisorAndEventInstructionsAct: both modes; levels that match and do not; slots at both ends, held and empty, on a live die and a fenced one;
records of the context and none; a fault buffer's newest record first. -/
theorem witness_supervisor :
    (status 0 0).th.status.getLsbD 0 = false ∧ (supervisor 0).th.status.getLsbD 0 = true ∧ (supervisor 0).th.lvl = (supervisor 0).th.status.toNat / 256 % 8 ∧
    (status 0x101 0).th.lvl ≠ (status 0x101 0).th.status.toNat / 256 % 8 ∧ (supervisor 0).th.event = false ∧ 16384 ≤ ((supervisor 16384).getD 3).toNat ∧
    ((supervisor 0).dieOf 16383).fenced = false ∧ (State.reset.dieOf 16383).fenced = true ∧ State.reset.thread? 16383 = none ∧ (supervisor 0).thread? 0 = some (supervisor 0).th ∧
    (supervisor 9).thread? 9 = none ∧ isOk (releaseAt 5 (supervisor 0x40)) = true ∧ liveRecords ((supervisor 0).dieOf 0) = [0x60040, 0x60000] ∧
    readNat (supervisor 0).mem.dram (0x60040 + 3) 1 = 2 ∧ readNat (supervisor 0).mem.dram (0x60000 + 3) 1 = 1 ∧ readNat (supervisor 0).mem.dram (0x60000 + 4) 2 = 0 ∧
    (supervisor 0).th.micro = 0 ∧ streamsDrained (supervisor 0) = true ∧ (supervisor 0x10001).getD 3 ≠ 0 ∧ (0x10001 : Word).toNat % 65536 ≠ 0 := by decide +kernel

/-- A context that is not at rest, a preempt that has asked and one whose context has been saved, and a snapshot requested before and after. -/
theorem witness_waits :
    (let s := supervisor 0x10000; (streamsDrained s && { s with th := { s.th with cntGlobal := 1 } }.th.cntGlobal == 0) = false) ∧
    (let s := supervisor 1
     let other : Thread := { user 0 with num := 1 }
     let s : State := { s with others := [other], th := { s.th with micro := 1 } }
     s.th.micro = 1 ∧ s.thread? 1 = some other ∧ (1 : Nat) ≠ s.th.num ∧ 1 ∉ s.preempts ∧ (s.taskOf other).map (fun k => k.doomed) = some false ∧
       (1 : Nat) ∈ { s with preempts := [1] }.preempts ∧ (after (.preempt 3) s).th.pc = 0x10004 ∧ waits (.preempt 3) { s with preempts := [1] } = true) ∧
    (let s : State := { status 0 0 with snap := { latchAt := some 5 } }
     s.time < 5 ∧ ¬ ({ s with time := 5 }.time < 5) ∧ (after .snap s).snap.latchAt = some 5 ∧ (after .snap { s with time := 5 }).snap.latchAt = some 2053) := by
  decide +kernel

theorem test_supervisor :
    trapOf .tret (status 0 0) = some (0x200, 0) ∧ trapOf .tret (status 0x101 0) = some (0x702, 0) ∧ trapOf (.preempt 3) (supervisor 16384) = some (0x109, 0) ∧
    (after (.fltr 4 1) (supervisor 0)).getD 4 = 0x60000 ∧ (after (.fltr 4 3) (supervisor 0)).getD 4 = 0 ∧ waits .wfe (status 0 0) = true ∧ waits .idle (supervisor 0) = true ∧
    (after (.sev 3) (supervisor 0)).th.event = true ∧ trapOf (.sev 3) (status 0 16384) = some (0x109, 0) ∧ trapOf (.rsm 3) (supervisor 1) = some (0x402, 1) ∧
    (after (.rsm 3) (supervisor 0x40)).eng.resumes = [(0, 0x40)] ∧ trapOf (.ctxsave 3) (supervisor 0x100) = some (0x402, 0x100) ∧ (after .snap (status 0 0)).snap.latchAt = some 2048 := by
  decide +kernel

/-! A save area: the thread without a task, in an address space without objects. -/

/-- Nothing stands against the thread's stores. -/
def Free (s : State) : Prop := s.mem.objects = [] ∧ lookup s.th.taskid s.tasks = none

theorem free_onMem (f : Mem → Mem) (s : State) (h : Free s) (hf : ∀ m, (f m).objects = m.objects) : Free (s.onMem f) := ⟨(hf _).trans h.1, h.2⟩

theorem free_post (core va lvl : Nat) (kind : PostKind) (s : State) (h : Free s) : Free (breakAtL1 core s.th.asid va 8 (post va 8 lvl kind s)) := by
  have drop (p : Thread → Resv → Bool) (s : State) (h : Free s) : Free (dropResv p s) := by
    refine ⟨h.1, ?_⟩
    have : (dropResv p s).th.taskid = s.th.taskid := by
      show (if _ then _ else s.th : Thread).taskid = _
      split <;> rfl
    show lookup (dropResv p s).th.taskid s.tasks = none
    rw [this]; exact h.2
  exact drop _ _ h

theorem access_of_free (s : State) (va : Nat) (writes : Bool) (h : Free s) (hva : va + 8 ≤ 2 ^ 56) : checkAccess writes va 8 s = .ok () := by
  have lease : leaseAllows s s.th va 8 = true := by
    show (decide (va + 8 ≤ 2 ^ 56) && match lookup s.th.taskid s.tasks with | some k => _ | none => true) = true
    rw [h.2, decide_eq_true hva]; rfl
  have object (wa : Nat) : objectAllows s (coreOf s.th.num) s.th.asid (4 * wa) writes = true := by
    simp [objectAllows, objectAt, h.1]
  simp [checkAccess, lease, object]

theorem store_of_free (s : State) (va : Nat) (x : Word) (h : Free s) (hva : va + 8 ≤ 2 ^ 56) : ∃ u, writeArea va x s = .ok u ∧ Free u := by
  have cls : classAt s s.th.asid va = 2 := by simp [classAt, objectAt, h.1]
  exact ⟨_, by
    unfold writeArea storeGlobal putWords
    rw [access_of_free s va true h hva]
    simp only [bind, Except.bind, if_false, show ¬ (8 < 4) by omega, cls, show ¬ (2 = 0) by omega]
    rfl, free_post _ _ _ _ s h⟩

theorem storeWords_of_free : ∀ (ws : List Word) (va : Nat) (s : State), Free s → va + 8 * ws.length ≤ 2 ^ 56 → ∃ u, storeWords va ws s = .ok u
  | [], _, s, _, _ => ⟨s, rfl⟩
  | x :: ws, va, s, h, hva => by
    obtain ⟨u, hu, free⟩ := store_of_free s va x h (by simp only [List.length_cons] at hva; omega)
    obtain ⟨v, hv⟩ := storeWords_of_free ws (va + 8) u free (by simp only [List.length_cons] at hva; omega)
    exact ⟨v, by simp only [storeWords, hu, bind, Except.bind]; exact hv⟩

/-- A context at rest without a task. -/
def atRest : State := { supervisor 0x10000 with tasks := [] }

/-- The save area of ctxsave can be written. -/
theorem witness_ctxsave :
    (atRest.getD 3).toNat % 65536 = 0 ∧ atRest.th.cntRemote = 0 ∧ atRest.th.cntGlobal = 0 ∧ atRest.th.cntDevice = 0 ∧ streamsDrained atRest = true ∧
    ∃ u, storeWords 0x10000 (areaWords { atRest with th := { atRest.th with resv := none } } { atRest.th with resv := none } (atRest.th.pc + 4))
      { atRest with th := { atRest.th with resv := none } } = .ok u := by
  refine ⟨?_, ?_, ?_, ?_, ?_, storeWords_of_free _ _ _ ⟨rfl, rfl⟩ ?_⟩
  iterate 5 decide +kernel
  have length : (areaWords { atRest with th := { atRest.th with resv := none } } { atRest.th with resv := none } (atRest.th.pc + 4)).length ≤ 7104 := by
    decide +kernel
  omega

/-- A context of the same core that holds every generator. -/
def binder : Thread :=
  let hold (g : Nat) : Option Binding := some ⟨g, 0, 0, 1, 0⟩
  { user 0 with num := 1, binds := ⟨#[hold 0, hold 1, hold 2, hold 3, none, none, none, none], rfl⟩ }

/-- The values of the words of 4 bytes of a save area: version 1, the size of the partition, the task, one binding. -/
def areaLane (good : Bool) (k : Nat) : Lane := if good then if k = 0 then 1 else if k = 20 then 0x2000 else if k = 26 then 7 else if k = 266 then 1 else 0 else 0
@[inherit_doc areaLane] def heldWord (good : Bool) (k : Nat) : L1Word :=
  { core := 0, asid := 1, wa := 0x4000 + k, way := 0, val := areaLane good k, dirty := false, registered := false, narrow := false, writer := 0, task := 7 }
@[inherit_doc areaLane] def withArea (good crowded : Bool) : State :=
  { atRest with
    mem := { atRest.mem with l1 := (List.range 14208).map (heldWord good) }
    others := if crowded then [binder] else [] }
@[inherit_doc areaLane] def areaWord (good : Bool) (k : Nat) : Word :=
  .ofNat 64 (cutBytes (0x10000 + 8 * k) 8 [areaLane good (2 * k), areaLane good (2 * k + 1)])

theorem find_mapped {α : Type} (f : Nat → α) (p : α → Bool) (k : Nat) : ∀ l : List Nat, k ∈ l → (∀ j, p (f j) = true ↔ j = k) → (l.map f).find? p = some (f k)
  | [], h, _ => absurd h List.not_mem_nil
  | j :: l, h, hp => by
    simp only [List.map_cons, List.find?_cons]
    by_cases e : j = k
    · have := (hp j).mpr e
      subst e; rw [this]
    · rw [Bool.eq_false_iff.mpr fun c => e ((hp j).mp c)]
      exact find_mapped f p k l ((List.mem_cons.mp h).resolve_left fun h => e h.symm) hp

theorem held_find (good crowded : Bool) (k : Nat) (h : k < 14208) : l1Find (withArea good crowded) 0 1 (0x4000 + k) = some (heldWord good k) := by
  have words : (withArea good crowded).mem.l1 = (List.range 14208).map (heldWord good) := by simp only [withArea]
  rw [l1Find, words]
  refine find_mapped _ _ k _ (List.mem_range.mpr h) fun j => ?_
  simp only [heldWord]
  simp

theorem readArea_held (good crowded : Bool) (k : Nat) (h : k < 7104) : readArea (0x10000 + 8 * k) (withArea good crowded) = .ok (areaWord good k, withArea good crowded) := by
  have access : checkAccess false (0x10000 + 8 * k) 8 (withArea good crowded) = .ok () := access_of_free _ _ _ ⟨rfl, rfl⟩ (by omega)
  have words : wordsOf (0x10000 + 8 * k) 8 = [0x4000 + 2 * k, 0x4000 + (2 * k + 1)] := by
    have : (0x10000 + 8 * k) % 4 = 0 := by omega
    have e : (0x10000 + 8 * k) / 4 = 0x4000 + 2 * k := by omega
    simp only [wordsOf, this, e]; rfl
  have low := held_find good crowded (2 * k) (by omega)
  have high := held_find good crowded (2 * k + 1) (by omega)
  have core (va : Nat) : l1Core (withArea good crowded) (coreOf (withArea good crowded).th.num) va = 0 := by
    have : isFused (withArea good crowded) (clusterOfCore 0) = false := by cases good <;> cases crowded <;> decide +kernel
    have num : coreOf (withArea good crowded).th.num = 0 := by cases good <;> cases crowded <;> decide +kernel
    simp [l1Core, num, this]
  have space : (withArea good crowded).th.asid = 1 := rfl
  have cls (va : Nat) : classAt (withArea good crowded) 1 va = 2 := rfl
  have load (lvl : Nat) : loadWords lvl .normal (0x10000 + 8 * k) 8 (withArea good crowded) =
      .ok ([areaLane good (2 * k), areaLane good (2 * k + 1)], withArea good crowded) := by
    simp only [loadWords, words, core, space]
    have under (w : Nat) : awaitsPosted (withArea good crowded) (withArea good crowded).th 0 w = false := rfl
    simp [under, low, high, heldWord, needSound, bind, Except.bind]
  unfold readArea loadGlobal
  rw [access]
  simp only [bind, Except.bind, load]
  rfl

theorem loadedWords_held (good crowded : Bool) : ∀ n k, k + n ≤ 7104 →
    loadedWords (0x10000 + 8 * k) n (withArea good crowded) = .ok ((List.range' k n).map (areaWord good), withArea good crowded)
  | 0, _, _ => rfl
  | n + 1, k, h => by
    unfold loadedWords
    rw [readArea_held good crowded k (by omega)]
    simp only [bind, Except.bind]
    rw [show 0x10000 + 8 * k + 8 = 0x10000 + 8 * (k + 1) by omega, loadedWords_held good crowded n (k + 1) (by omega)]
    rfl

/-- A save area that ctxload takes, or that needs a generator where none is free, and one that it refuses. -/
theorem witness_ctxload (good crowded : Bool) : ∃ ws, loadedWords 0x10000 7104 (withArea good crowded) = .ok (ws, withArea good crowded) ∧
    ((areaOk (fun k => ws.getD k 0) = true ∧ ws.getD 9 0 = (withArea good crowded).th.spbase ∧ ws.getD 10 0 = (withArea good crowded).th.spsize ∧
      ws.getD 13 0 = .ofNat 64 (withArea good crowded).th.taskid ∧ (ws.getD 0 0).toNat / 2 ^ 32 % 256 = 0) ↔ good = true) ∧
    (good = true → (((List.range 8).filter fun k => (ws.getD (133 + 2 * k) 0).toNat % 2 ^ 32 ≠ 0).length ≤
      (generatorsFor (withArea good crowded) (withArea good crowded).th).length ↔ crowded = false)) := by
  refine ⟨_, loadedWords_held good crowded 7104 0 (by omega), ?_⟩
  have get : (fun k => ((List.range' 0 7104).map (areaWord good)).getD k 0) = fun k => if k < 7104 then areaWord good k else 0 := by
    funext k
    by_cases h : k < 7104
    · simp [h]
    · simp [h]
  have get' (k : Nat) : ((List.range' 0 7104).map (areaWord good)).getD k 0 = if k < 7104 then areaWord good k else 0 := congrFun get k
  simp only [get']
  cases good
  · refine ⟨?_, fun h => by cases h⟩
    have : areaOk (fun k => if k < 7104 then areaWord false k else 0) = false := by decide +kernel
    exact ⟨fun h => absurd (this.symm.trans h.1) (by decide), fun h => by cases h⟩
  · refine ⟨⟨fun _ => rfl, fun _ => ?_⟩, fun _ => ?_⟩
    · refine ⟨?_, ?_, ?_, ?_, ?_⟩ <;> cases crowded <;> decide +kernel
    · cases crowded <;> decide +kernel

/-! ### Work dealt, placed and moved -/

/-- A machine that deals: card 5 with records dealt up to a number, chunks to deal again and flags; task 8 at a stage on slot 5. -/
def dealing (next : Nat) (again : List (Nat × Nat)) (flags : Nat) (stage : TaskStage) : State :=
  let s := onCore 0
  let c : Card := { card with next := next, redeals := again, flags := flags, threads := 4, xbound := if flags = 1 then 4 else 1 }
  { s with
    welt := { s.welt with poolpages := 64 }
    cards := [(5, c)]
    tasks := (7, task 0) :: match stage with | .running => [] | x => [(8, { task 0 with id := 8, stage := x, slots := [5], live := [5], chunk := (2, 1), deals := [] })]
    nextId := 9 }

/-- The scope of the card in a state. -/
def inState (st : Nat) (s : State) : State := { s with scopes := [(2, { parent := 0, state := 1, kind := 0 }), (3, { parent := 2, state := st, kind := 1 })] }

/-- Card 5's task 7 away, with its context and a partition; where a card of a higher class waits, it keeps the slot. -/
def away (image : Nat) (doomed outranked : Bool) : State :=
  let s := dealing 4 [] 0 .running
  { s with
    th := Thread.empty
    parked := [{ user 0 with pimage := image }]
    tasks := [(7, { task 0 with parked := true, doomed := doomed })]
    cards := s.cards ++ if outranked then [(6, { card with id := 6, cls := 1, next := 0 })] else [] }

/-- A slot whose context is asked to leave. -/
def asked (doomed : Bool) : State :=
  let s := dealing 4 [] 0 .running
  { s with tasks := [(7, { task 0 with doomed := doomed })], preempts := [0] }

/-- WorkIsDealtPlacedAndMoved, dispatch and placement: the machine stopped, no card that fits, a chunk to deal again, new records, a gang, a
context that may come back; a launch doomed, one that fits and one whose slot is taken. -/
theorem witness_dealing :
    ({ dealing 2 [] 0 .running with welt := {} } : State).welt.run = false ∧ chooseCard (dealing 4 [] 0 .running) [4] = none ∧
    (chooseCard (dealing 2 [] 0 .running) [4]).map (fun c => c.redeals.length + c.watchDeals.length) = some 0 ∧
    (chooseCard (dealing 2 [(0, 1)] 0 .running) [4]).map (fun c => c.redeals) = some [(0, 1)] ∧
    (chooseCard (dealing 0 [] 1 .running) [4, 8, 12, 16]).map (fun c => c.gang) = some true ∧
    (chooseCard (away 0 false false) [0]).map (fun c => hasReturn (away 0 false false) c.id [0]) = some true ∧
    hasReturn (dealing 2 [] 0 .running) 5 [4] = false ∧ (dealing 2 [] 0 .running).welt.run = true ∧
    lookup 8 (dealing 2 [] 0 .requested).tasks = some { task 0 with id := 8, stage := .requested, slots := [5], live := [5], chunk := (2, 1), deals := [] } ∧
    scopeState (inState 3 (dealing 2 [] 0 .requested)) 3 = 3 ∧ scopeState (inState 2 (dealing 2 [] 0 .requested)) 3 = 2 ∧
    fitsUnit (dealing 2 [] 0 .requested) card [5] = true ∧ fitsUnit (dealing 2 [] 0 .requested) card [0] = false := by decide +kernel

/-- WorkIsDealtPlacedAndMoved, launch and start: a page and a partition for the slot; the contexts stand and the launch's steps are done. -/
theorem witness_launching :
    (∀ x ∈ (dealing 2 [] 0 .launching).threads, x.taskid ≠ 8) ∧ 1 ≤ freePages (dealing 2 [] 0 .launching) ∧
    (grantContexts { task 0 with id := 8, slots := [5] } card [(5, 0)] (dealing 2 [] 0 .launching)).isSome = true ∧
    (let s := after (.evLaunch 8) (dealing 2 [] 0 .launching);
      (s.thread? 5).map (fun x => x.taskid) = some 8 ∧ (lookup 8 s.tasks).map (fun k => k.record) = some [] ∧ s.eng.ops = [] ∧ card.mset = 0 ∧ scopeState s 3 < 3) ∧
    ((lookup 8 (after (.evTaskStart 8) (after (.evTaskStart 8) (after (.evLaunch 8) (dealing 2 [] 0 .launching)))).tasks).map (fun k => [(lookup 4 k.record).isSome, (lookup 5 k.record).isSome, decide (k.stage = .launching)]) = some [true, true, true]) := by
  decide +kernel

/-- WorkIsDealtPlacedAndMoved, leaving and coming back. -/
theorem witness_moving :
    0 ∉ (dealing 2 [] 0 .running).preempts ∧ 0 ∈ (asked true).preempts ∧ ((asked true).thread? 0).map (fun x => ((asked true).taskOf x).map fun k => k.doomed) = some (some true) ∧
    ((asked false).thread? 0).map (fun x => ((asked false).taskOf x).map fun k => (!k.doomed && decide (k.stage = .running))) = some (some true) ∧
    ((returnSlots (away 0 false false) { task 0 with parked := true }).map fun xs => xs.map Prod.snd) = some [0] ∧ returnSlots (dealing 2 [] 0 .running) (task 0) = none ∧
    isOutranked (away 0 false false) { task 0 with parked := true } [0] = false ∧ isOutranked (away 0 false true) { task 0 with parked := true } [0] = true ∧
    (away 0 false false).parked[0]? = some (user 0) ∧ (user 0).pimage = 0 ∧ (user 0).segCount ≠ 0 ∧ isPartitionQuiet (away 0 false false) (user 0) = true ∧
    (away 0x100000 false false).parked.map Thread.pimage = [0x100000] ∧ (away 0 false false).parked[1]? = none := by decide +kernel

/-- A partition that another context's launch needs, and one that nothing needs. -/
theorem witness_evicting :
    isCrowded (away 0 false false) 0 = false ∧
    (let s := { away 0 false false with parked := [user 0, { user 0 with num := 1, evicted := true, segCount := 40 }] }; (isCrowded s 0, isPartitionQuiet s (user 0), (user 0).evicted)) = (true, true, false) ∧
    unitTasks (away 0 false false) { task 0 with parked := true } = [{ task 0 with parked := true }] ∧ (user 0).marked = false := by
  refine ⟨?_, ?_, ?_, ?_⟩ <;> decide +kernel

/-- The contexts of a unit that can leave: nothing under way, no phrase. -/
theorem witness_leaving :
    ((asked false).threads.map fun y => ((y.cntRemote, y.cntGlobal, y.cntDevice), y.replies, y.acted, streamsDrained ((asked false).focus y.num), y.phrase)) =
      [((0, 0, 0), [], none, true, .none)] ∧
    ((asked false).threads.map Thread.num).Nodup ∧ lookup (task 0).id (asked false).gangs = none ∧
    (∀ x ∈ ((returnSlots (away 0 false false) { task 0 with parked := true }).getD []), x.1.evicted = false ∧ x.1.taskid = 7 ∧ x.1.live = true ∧ x.1.marked = false) := by
  refine ⟨?_, ?_, ?_, ?_⟩ <;> decide +kernel

theorem witness_moving_canonical : MemoryIsCanonical (away 0 false false) := by unfold MemoryIsCanonical; decide +kernel

/-- R193, R199, R350, R355: a chunk dealt, a slot taken back, a context in user mode at the entry, a running task, a context away and back. -/
theorem test_dealing :
    ((lookup 9 (after (.evDispatch [4]) { dealing 2 [(0, 1)] 0 .running with tasks := [] }).tasks).map fun k => k.chunk) = some (0, 1) ∧
    ((lookup 8 (after (.evPlacementRequest 8) (dealing 2 [] 0 .requested)).tasks).map fun k => decide (k.stage = .launching)) = some true ∧
    ((after (.evLaunch 8) (dealing 2 [] 0 .launching)).others.map fun x => [x.num, x.pc.toNat, (x.getD 3).toNat, (x.getD 4).toNat, x.segCount]) = [[5, 0x10000, 0x40020, 1, 1]] ∧
    ((lookup 8 (after (.evTaskStart 8) (after (.evTaskStart 8) (after (.evTaskStart 8) (after (.evLaunch 8) (dealing 2 [] 0 .launching))))).tasks).map fun k =>
      decide (k.stage = .running)) = some true := by decide +kernel

theorem test_moving :
    (after (.evPreemption 0) (asked false)).parked.map Thread.num = [0] ∧ (after (.evPreemption 0) (asked false)).threads = [] ∧
    (after (.evResumption 7) (away 0 false false)).threads.map Thread.num = [0] ∧ after (.evResumption 7) (away 0 false true) = away 0 false true := by decide +kernel

/-! ### Messages and stores that arrive -/

/-- Slot 0 has sent two packets to slot 1 and one to slot 5, which holds no context, and a task's stores are on their way to its partition. -/
def arriving : State :=
  let s := onCore 0
  let store (key : Nat) (full : Bool) : RemoteStore := ⟨0, 7, 1, key, [1, 2, 3], full, 0⟩
  { s with
    others := [{ user 0 with num := 1 }]
    packets := [⟨0, 7, 1, packet false⟩, ⟨0, 7, 1, packet true⟩, ⟨0, 7, 5, packet false⟩]
    stores := [store 0x100 false, store 0x110 true, ⟨9, 7, 1, 0x120, [4], true, 0⟩] }

/-- MessagesAndStoresArrive, packets and stores: first of their way and not, a slot that holds no context, both kinds of store. -/
theorem witness_arriving :
    (∃ q ∈ arriving.packets.take 1, q.sender = 0 ∧ q.target = 1) ∧ (∀ q ∈ arriving.packets.take 0, q.sender = 0 → q.target ≠ 1) ∧ arriving.packets[3]? = none ∧
    (∀ q ∈ arriving.packets.take 2, q.sender = 0 → q.target ≠ 5) ∧ arriving.thread? 5 = none ∧ (arriving.dies[dieOfCore (coreOf 5)]?).isSome = true ∧
    (arriving.stores.map fun r => [storeFirst arriving 0 r, storeFirst arriving 1 r, storeFirst arriving 2 r]) =
      [[true, false, false], [true, false, false], [true, true, true]] ∧
    (arriving.stores.map fun r => r.full) = [false, true, true] ∧ arriving.stores[3]? = none := by decide +kernel

theorem test_arriving :
    ((after (.evPacketArrival 0) arriving).thread? 1).map (fun x => x.queue) = some [packet false] ∧ (after (.evPacketArrival 1) arriving).packets.length = 3 ∧
    ((after (.evPacketArrival 2) arriving).dies[0]?).map DieRec.discard = some 1 ∧
    lookup 0x102 (after (.evRemoteScratchWrite 0) arriving).mem.scratch = some 3 ∧ (after (.evRemoteScratchWrite 1) arriving).stores.length = 3 ∧
    isFull (after (.evRemoteScratchWrite 2) arriving) 0x120 = true ∧ isFull (after (.evRemoteScratchWrite 0) arriving) 0x100 = false := by decide +kernel

/-- A flit of a gang to itself. -/
def flit : Flight := ⟨7, 0, 0, none, 0x40, 0x40, 0x80, [6], [], false, false, 3⟩

/-- A gang of one in its exchange: a flit to send with another at a cycle, packets in flight, and what the task is. -/
def exchanging (toSend : List (Nat × Flight)) (flights : List Flight) (stage : TaskStage) : State :=
  let s := ganged true 0 (exch 0 true false false none)
  { s with tasks := [(7, { task 0 with stage := stage })], flights := flights, gangs := [(7, { started := true, toSend := toSend, journal := [(tallyKey 0 0, 2), (tallyKey 0 2, 5)] })] }

/-- MessagesAndStoresArrive, exchanges: a flit behind another, the next one, a packet behind another of its pair, and the end. -/
theorem witness_exchanging :
    (∀ x ∈ (exchanging [(4, { flit with slot := 2 }), (5, flit)] [] .running).gangs, ∀ y ∈ x.2.toSend, y.2.sender = 0 → y.2.slot ≠ 9) ∧
    isOver (exchanging [] [] .running) 7 = false ∧ isOver (exchanging [] [] (.ending 8)) 7 = true ∧
    ((exchanging [(4, { flit with slot := 2 }), (5, flit)] [] .running).gangs.find? fun g => g.2.toSend.any fun x => x.2.sender = 0 && x.2.slot = 3).map Prod.fst = some 7 ∧
    [(4, { flit with slot := 2 }), (5, flit)].find? (fun x => x.2.sender = 0 && x.2.slot = 3) = some (5, flit) ∧
    [(4, { flit with slot := 2 }), (5, flit)].find? (fun x => x.2.sender = 0 && x.2.slot = 2) = some (4, { flit with slot := 2 }) ∧
    mayLand (task 0) 0 flit (exchanging [] [flit, flit] .running) = true ∧ mayLand (task 0) 1 flit (exchanging [] [flit, flit] .running) = false ∧
    ((lookup 7 (exchanging [] [] .running).gangs).map fun g => [decide (g.started = true), decide (g.toSend = []), decide (g.coords = [])]) = some [true, true, true] ∧
    (lookup 7 (exchanging [] [] .running).cards).isSome = false ∧ (lookup 5 (exchanging [] [] .running).cards).isSome = true ∧ (exchanging [] [] .running).flights = [] ∧
    ((exchanging [] [] .running).thread? 0).map (fun x => x.taskid) = some 7 ∧ lookup 7 (arriving).gangs = none := by decide +kernel

theorem test_exchanging :
    (after (.evTimetableFlitSend 0 3) (exchanging [(4, { flit with slot := 2 }), (5, flit)] [] .running)).flights = [] ∧
    (after (.evTimetableFlitSend 0 2) (exchanging [(4, { flit with slot := 2 }), (5, flit)] [] .running)).flights = [{ flit with slot := 2 }] ∧
    lookup 0x40 (after (.evExchangePacketArrival 0) (exchanging [] [flit] .running)).mem.scratch = some 6 ∧
    (let x := (after (.evExchangeEnd 7) (exchanging [] [] .running)).th.exch; [x.done.toNat, x.arrived.toNat, x.flits, x.adds]) = [1, 0, 2, 5] := by decide +kernel

/-- Posted stores of a thread: a wide one, one behind it on its slice, one into a narrow object and one there that keeps no copy, all of one
word; lines of the LLC that no slice holds and that one holds; a publish with the number that its die needs of die 1, a second of its line,
and one that carries the posted store. -/
def posting (needs : Nat) (refused : Bool) : State :=
  let s := globe 0x40000 []
  let store (va x : Nat) (cp : CachePolicy) (sent : Option (Nat × Nat)) : Posted := ⟨0, 7, 0, 1, va, 4, 5, .store [(.ofNat 32 x, false)] cp, false, false, 0, sent⟩
  let pub (seq pw : Nat) : Publish :=
    { die := 0, seq := seq, cluster := 0, words := [(pw, 0x77, false)], deps := [0, needs, 0, 0, 0, 0, 0, 0], refused := refused }
  { s with
    th := { s.th with cntGlobal := 5 }
    mem := { s.mem with
      objects := [(1, ⟨1, 0x50000, 512, 1, 0, 1, 0⟩)]
      posted := [store 0x40000 0x55 .normal none, store 0x40004 1 .normal none, store 0x50080 9 .normal none, store 0x50100 8 .noAlloc none,
        store 0x60180 7 .normal (some (0, 3))]
      llc := [(0x801, {}), (0x802, { present := 1, seqs := [(0, 3)] }), (0xC03, {})]
      pubs := [pub 1 0x10020, pub 2 0x10020, pub 3 0x18060] } }

/-- MessagesAndStoresArrive, homes: which posted stores are first of their core and slice, and the class of their objects. -/
theorem witness_posting :
    ((posting 0 false).mem.posted.map fun p => (sliceIndex p.va, classAt (posting 0 false) p.asid p.va)) = [(2, 2), (2, 2), (19, 1), (16, 1), (0, 2)] ∧
    ((List.range 4).zip (posting 0 false).mem.posted |>.map fun x => (arrivePosted x.1 x.2 (posting 0 false)).isSome) = [true, false, true, true] ∧
    ((posting 0 false).mem.posted.map fun p => decide (wordsOf p.va p.size = [p.va / 4])) = [true, true, true, true, true] ∧
    ((posting 0 false).mem.posted.map fun p => isOk (checkHome p.agent true p.va p.size (posting 0 false))) = [true, true, true, true, true] ∧
    ((posting 0 false).mem.posted.head?.map fun p => (valueOf (placeFor p.agent false true p.va p.size (posting 0 false))).map fun x => isRemote x.1) =
      some (some false) := by
  refine ⟨?_, ?_, ?_, ?_, ?_⟩ <;> decide +kernel

/-- Publishes that can and cannot apply, with and without a store of a thread, and lines that a slice holds or does not. -/
theorem witness_publishing :
    ((posting 0 false).mem.pubs.map fun p => (storeOf p (posting 0 false)).map Prod.fst) = [none, none, some 4] ∧
    ((List.range 3).zip (posting 0 false).mem.pubs |>.map fun x => (applyPublish x.1 x.2 (posting 0 false)).isSome) = [true, false, true] ∧
    ((posting 0 false).mem.pubs.map fun p => [depsMet (posting 0 false) p.die p.deps, depsMet (posting 1 false) 0 [0, 1, 0, 0, 0, 0, 0, 0]]) =
      [[true, false], [true, false], [true, false]] ∧
    ((posting 0 false).mem.pubs.map fun p => p.words.all fun w => (lookup (w.1 / 32) (posting 0 false).mem.llc).isSome) = [true, true, true] ∧
    (posting 0 false).mem.slices = [] ∧ (posting 0 false).mem.recalls = [] := by
  refine ⟨?_, ?_, ?_, ?_, ?_, ?_⟩ <;> decide +kernel

/-- R266, R391, R243: bytes at the bank, the count, refusals and recalls. -/
theorem test_posting :
    (let t := after (.evPublishApply 0) (posting 0 false); [(readByte t.mem.dram 0x40080).toNat, t.mem.pubs.length, t.mem.applied[0]?.getD 0]) = [0x77, 2, 1] ∧
    (after (.evPublishApply 1) (posting 0 false)).mem.pubs.length = 3 ∧ ((after (.evPublishApply 0) (posting 1 false)).mem.pubs.map fun p => p.buffered) = [true, false, false] ∧
    (let t := after (.evPublishApply 2) (posting 0 false); [t.mem.posted.length, t.th.cntGlobal]) = [4, 4] ∧
    ((after (.evPublishResend 0) (after .evSummaryExchange (posting 0 true))).mem.pubs.map fun p => (p.refused, p.due)) =
      [(false, false), (true, true), (true, true)] ∧ ((after (.evPublishResend 0) (posting 0 true)).mem.pubs.map fun p => p.refused) = [true, true, true] ∧
    ((after .evSummaryExchange (after (.evPublishApply 0) (posting 0 false))).mem.summary[0]?) = some 1 ∧
    ((after (.evLlcEvict 0x801) (posting 0 false)).mem.llc.map Prod.fst) = [0x802, 0xC03] ∧ (after (.evLlcEvict 0x802) (posting 0 false)).mem.recalls = [⟨0x802, 0, 3⟩] := by
  refine ⟨?_, ?_, ?_, ?_, ?_, ?_, ?_, ?_, ?_⟩ <;> decide +kernel

theorem test_registering :
    ((after (.evGlobalStoreRegister 0) (posting 0 false)).mem.pubs.map fun p => p.words) = [[(0x10020, 0x77, false)], [(0x10020, 0x77, false)], [(0x18060, 0x77, false)], [(0x10000, 0x55, false)]] ∧
    (let t := after (.evGlobalStoreRegister 2) (posting 0 false); [t.mem.posted.length, t.th.cntGlobal] ++ t.mem.l1.map fun w => w.val.toNat) = [4, 4, 9] ∧
    ((after (.evGlobalStoreRegister 3) (posting 0 false)).mem.slices.filter (fun h => h.val = some 8)).length = 1 := by
  refine ⟨?_, ?_, ?_⟩ <;> decide +kernel

/-! ### Engines, faults and cancellation -/

/-- An operation in flight: one granule of four bytes from a global address to core 1's array, halted or not; a fault ring of slots;
the task leases the first MiB and a streaming window. -/
def moving (va : Nat) (halted : Bool) (slots : Word) : State :=
  let s := engine 1
  let o : EngOp := { (issuerOf s).op 1 (.transfer none) [.granule [⟨.glob va, 4, .scr (327680 + 64), 4⟩] none] [] with
    num := 1, halt := if halted then some ⟨0x60000, 1, 0⟩ else none }
  { s with
    eng := { s.eng with ctxs := [(1, { issued := 1 })], ops := [o] }
    mem := { s.mem with dram := pages ++ [(0x40000, 9)] }
    tasks := [(7, { task 1 with leased := true, leases := [(0, 0x100000), (2 ^ 63 + 0x40000000, 0x10000)] })]
    dies := Vector.replicate 8 { live := true, fenced := false, frbase := 0x60000, frslots := slots, super := 0x50004 } }

/-- The element that the operation moves, another from there to global memory, and an operation of one of them. -/
def inward : Elem := ⟨.glob 0x40000, 4, .scr (327680 + 64), 4⟩
@[inherit_doc inward] def outward : Elem := ⟨.scr (327680 + 64), 4, .glob 0x40100, 4⟩
@[inherit_doc inward] def mover (e : Elem) : EngOp :=
  { (issuerOf (engine 1)).op 1 (.transfer none) [.granule [e] none] [] with num := 1 }
/-- The machine with that operation in flight, and what the operation has read, with the state that its reading leaves. -/
def moved (e : Elem) : State := let s := moving 0x40000 false 4; { s with eng := { s.eng with ops := [mover e] } }
@[inherit_doc moved] def gathered (e : Elem) : Option (List EngData × State) :=
  match gatherSources (mover e) [(e.src, e.ssize)] (moved e) with | .ok (.data ds, s) => some (ds, s) | _ => none

/-- GranulesMoveWhole: an action into a partition and one into local memory, that can be made and whose sources are read. -/
theorem witness_granules :
    (∀ e ∈ [inward, outward], CanAct (moved e) (mover e) 0 (.granule [e] none) ∧ (overwritten (mover e) 0).isNone = true ∧
      (gathered e).map (fun x => x.1.map fun d => d.bytes.length) = some [4]) ∧
    ((moved inward).dies[dieOfCore (327680 / 327680)]?).map DieRec.fenced = some false ∧
    ((gathered outward).map fun x => x.2.mem.watches.length) = some 0 ∧
    ((gathered outward).map fun x => match engTarget (mover outward) ⟨0x40100, [1, 2, 3, 4], false⟩ x.2 with | .ok (some pa, _) => pa | _ => 0) = some 0x40100 ∧
    (granuleStep (mover outward) 0 (moved outward)).isSome = true := by
  refine ⟨fun e h => ?_, ?_, ?_, ?_, ?_⟩
  · simp only [List.mem_cons, List.not_mem_nil, or_false] at h
    rcases h with rfl | rfl <;> exact ⟨⟨rfl, ⟨rfl, .inl rfl, rfl, rfl⟩, by decide +kernel, fun _ => rfl⟩, by decide +kernel, by decide +kernel⟩
  all_goals decide +kernel

/-- That operation with nothing left to do, and the status that it will complete with. -/
def spent (status : Option Nat) : State :=
  let s := moving 0x40000 false 4
  { s with eng := { s.eng with ops := s.eng.ops.map fun o => { o with jobs := [], status := status } } }

/-- A walk in flight on handle 5, with one step left, the slots that it needs ready, and the slot at which it will claim. -/
def claiming (need : Nat) (slot : SlotState) : State :=
  let s := walker
  let o : EngOp := { (issuerOf s).op 2 (.walk 5 false need [[⟨.glob 0x100000, 4, .scr 0, 4⟩]] []) [] [] with num := 1 }
  { s with eng := { s.eng with ops := [o], handles := [(5, ⟨7, 4, 1, 0, [slot, .free], 0, 0, 0, 0, some (2, 1), none⟩)] } }

/-- The halted operation, its record with a disposition, and a resume packet for it; the second GiB is a page that is moving. -/
def resumable (disp : Byte) : State :=
  let s := moving 0x40000 true 4
  { s with
    mem := { s.mem with dram := pages ++ [(0x3008, 0xBB), (0x300B, 0x40), (0x60003, 1), (0x60007, 1), (0x60008, disp), (0x60010, 1), (0x60030, 1)] }
    eng := { s.eng with resumes := [(4, 0x60000)] } }

/-- EnginesFaultsAndCancellationGoOn, operations: one that is spent, walks whose slot is free, whose slot is full and that need more slots; a page
that is not there, and the slots of a fault ring that has room and of one that has none. -/
theorem witness_operations :
    ((inFlight (spent none) 0 1).map fun o => (o.isSpent, o.halt, [o.sent, o.doneWord], decide (o.kind = .transfer none))) = [(true, none, [0, 0], true)] ∧
    ((inFlight (spent (some 5)) 0 1).map fun o => o.status) = [some 5] ∧
    ([claiming 1 .free, claiming 3 .free, claiming 1 .full].map fun s => (opAt s 0 2 1).map fun o => (o.halt, o.status)) = [some (none, none), some (none, none), some (none, none)] ∧
    ([claiming 1 .free, claiming 3 .free, claiming 1 .full].map fun s => (lookup 5 s.eng.handles).map fun e => (e.free, e.slots[e.prod]?)) =
      [some (2, some .free), some (2, some .free), some (1, some .full)] ∧
    (contextOf (claiming 1 .free) 4 7).isSome = true ∧
    (opAt (moving 0x40000000 false 4) 0 1 1).map (fun o => ([o.todo.length, o.flits], o.halt, o.status)) = some ([1, 0], none, none) ∧
    (opAt (moving 0x40000000 false 4) 0 1 1).map (fun o => o.todo.map fun j => match moveJob o j (moving 0x40000000 false 4) with | .error (.fault _ va) => va | _ => 0) = some [0x40000000] ∧
    (((moving 0 false 4).dies[0]).frslots, ((moving 0 false 1).dies[0]).frslots, ((moving 0 false 4).dies[0]).frtail, ((moving 0 false 4).dies[0]).super.toNat % 2 ^ 14) = (4, 1, 0, 4) := by
  refine ⟨?_, ?_, ?_, ?_, ?_, ?_, ?_, ?_⟩ <;> decide +kernel

/-- Nothing that the operation at fault overwrites waits to be read; the steps of a walk are not empty; a command of a lost task is accepted. -/
theorem witness_first_actions :
    ((opAt (moving 0x40000000 false 4) 0 1 1).map fun o => (overwritten o 0).isNone) = some true ∧
    ((opAt (claiming 1 .free) 0 2 1).map fun o => match o.kind with | .walk _ _ _ (step :: _) claimed => !step.isEmpty && claimed.all fun c => !c.2.isEmpty | _ => false) =
      some true ∧ (moving 0x40000000 false 4).fab.replies = [] ∧ (resumable 2).mem.moving = [] ∧
    ((resumable 2).eng.ops.map fun o => (o.tile, o.ctx % 16, o.num)).Nodup := by
  refine ⟨?_, ?_, ?_, ?_, ?_⟩ <;> decide +kernel

/-- A record that names the halted operation, and pages that stay and that move. -/
theorem witness_resuming :
    ((resumable 2).thread? 4).map (fun x => x.asid) = some 1 ∧ walk (resumable 2) 1 0x60000 = .page 0x60000 0 0x40000000 true true true false ∧
    walk (resumable 2) 1 0x40000000 = .page 0x40000000 0x40000000 0x40000000 true true true true ∧
    ([1, 2].map fun d => let f (k n : Nat) := readNat (resumable d).mem.dram (0x60000 + k) n; [f 3 1, f 4 2, f 7 1, f 8 1, f 16 8, f 48 8]) = [[1, 0, 1, 1, 1, 1], [1, 0, 1, 2, 1, 1]] ∧
    ((resumable 2).eng.ops.map fun o => (o.ctx, o.tile, o.num, o.halt.map Halt.seq)) = [(1, 0, 1, some 1)] := by
  refine ⟨?_, ?_, ?_, ?_, ?_⟩ <;> decide +kernel

theorem test_resuming :
    (let t := after (.evResumePacket 0) (resumable 1); ((t.eng.resumes, readNat t.mem.dram 0x60007 1), t.eng.ops.map fun o => (o.halt, o.status))) = (([], 2), [(none, none)]) ∧
    (let t := after (.evResumePacket 0) (resumable 2); (readNat t.mem.dram 0x60007 1, t.eng.ops.map fun o => (o.halt, o.status))) = (3, [(none, some 8)]) ∧
    (isOnTheMove (after (.evShootdown 1 0x40000000) (resumable 2)) 1 0x40000000, isOnTheMove (after (.evShootdown 1 0x60000) (resumable 2)) 1 0x60000) = (true, false) := by
  refine ⟨?_, ?_, ?_⟩ <;> decide +kernel

/-- R285, R343, R344: the bytes move; a fault's record says what failed, and interrupts the supervisor. -/
theorem test_operations :
    lookup (327680 + 64) (after (.evEngineOpComplete 0 1) (moving 0x40000 false 4)).mem.scratch = some 9 ∧ (after (.evEngineOpComplete 0 1) (moving 0x40000 false 4)).eng.ops = [] ∧
    (let t := after (.evEngineFault 0 1 1) (moving 0x40000000 false 4)
     [readNat t.mem.dram 0x60000 2, readNat t.mem.dram 0x60003 1, readNat t.mem.dram 0x60018 8, (t.dies[0]).frtail.toNat] ++ t.th.intrs) = [1, 1, 0x40000000, 1, 5] ∧
    (after (.evEngineFault 0 1 1) (moving 0x40000000 false 1)) = moving 0x40000000 false 1 ∧
    ((lookup 5 (after (.evWalkSlotClaim 0 2 1) (claiming 1 .free)).eng.handles).map fun e => e.slots) = some [.filling, .free] ∧
    after (.evWalkSlotClaim 0 2 1) (claiming 3 .free) = claiming 3 .free ∧ (engCtx (after (.evEngineOpComplete 0 1) (spent (some 5))) 0 1).abnStatus = 5 := by decide +kernel

/-- Two commands of one sender to the matrix unit of tile 0, by a key that allows its context or another; slot 12 holds a context or not. -/
def ordered (key : Nat) (there lost : Bool) : State :=
  let s := engine 1
  let c : Command := ⟨4, 7, 3, 1, 2, 0x10020000000, 0, [0xA6, 0x05, 0x0C, 0x01] ++ List.replicate 60 0, 0, false, false⟩
  { s with
    th := { s.th with cntRemote := 2 }
    others := if there then [{ user 3 with num := 12 }] else []
    eng := { s.eng with commands := [c, c], keys := [⟨0, 2, key, 15, 7⟩] }
    dies := Vector.replicate 8 { live := !lost, fenced := lost } }

/-- The first command, for an engine. -/
def theOrder (engine : Nat) : Command := ⟨4, 7, 3, 1, engine, 0x10020000000, 0, [0xA6, 0x05, 0x0C, 0x01] ++ List.replicate 60 0, 0, false, false⟩

/-- EnginesFaultsAndCancellationGoOn, packets and commands: first of their way and not, accepted and refused; a packet whose record's page is absent. -/
theorem witness_orders :
    (∃ q ∈ (ordered 1 true false).eng.commands.take 1, q.sender = 4 ∧ capTile q.cap = capTile 0x10020000000) ∧ isLostDie (ordered 1 true false) (16 * capTile 0x10020000000) = false ∧
    (settleCommand (theOrder 2) (acceptMatrix (theOrder 2) (ordered 1 true false)) (ordered 1 true false)).isSome = true ∧
    (settleCommand (theOrder 0) (acceptCommand (theOrder 0) { ordered 1 true false with eng := { (ordered 1 true false).eng with commands := [theOrder 0] } })
      (ordered 1 true false)).isSome = true ∧ (ordered 1 true false).eng.commands[2]? = none ∧
    (({ supervisor 0 with eng := { (supervisor 0).eng with resumes := [(0, 0x40000000)] } } : State).thread? 0).map (fun x => decide (walk (supervisor 0) x.asid 0x40000000 = .absent)) = some true ∧
    (∀ h ∈ (supervisor 0).mem.slices, h.asid ≠ 1) := by decide +kernel

/-- The first command when its sender's task is lost. -/
def lostOrder : Command := { theOrder 2 with lost := true }
@[inherit_doc lostOrder] def lostOrders : State := { ordered 1 true false with eng := { (ordered 1 true false).eng with commands := [lostOrder] } }

/-- A lost task's command that is accepted, and its operation that is cut. -/
theorem witness_lost_order :
    ((valueOf (acceptMatrix lostOrder lostOrders)).map fun u => u.eng.ops.map fun o => (o.num, o.status)) = some [(1, none)] ∧
    ((after (.evMatrixCommandArrival 0) lostOrders).eng.ops.map fun o => (o.num, o.status, o.todo)) = [(1, some 1, [])] := by
  refine ⟨?_, ?_⟩ <;> decide +kernel

/-- R310, R334, R346: a command that its key allows, one that it does not, and an engine that is lost; a resume packet without a record. -/
theorem test_orders :
    ((after (.evMatrixCommandArrival 0) (ordered 1 true false)).eng.ops.map fun o => [o.ctx, o.thread]) = [[11, 12]] ∧
    (let t := after (.evMatrixCommandArrival 0) (ordered 1 true false); [t.eng.commands.length, t.th.cntRemote, t.th.refused]) = [1, 1, 0] ∧
    (let t := after (.evMatrixCommandArrival 0) (ordered 2 true false); [t.eng.commands.length, t.th.cntRemote, t.th.refused, t.th.rerr.toNat]) = [1, 1, 1, 1] ∧
    (after (.evMatrixCommandArrival 0) (ordered 1 true true)).th.refused = 1 ∧ (after (.evMatrixCommandArrival 1) (ordered 1 true false)).eng.commands.length = 2 ∧
    (after (.evResumePacket 0) { supervisor 0 with eng := { (supervisor 0).eng with resumes := [(0, 0x40000000)] } }).eng.resumes = [] := by decide +kernel

/-- A thread with so many instructions behind it, since its reservation and in a cancel handler, of a task that is doomed or not. -/
def counted (n : Nat) (doomed handler : Bool) : State :=
  let s := onCore 0
  { s with th := { s.th with killCount := n, handlerCount := n, inHandler := handler, resv := some ⟨0x40000, 4, 3, none, n⟩, onc := 0x30000, marked := doomed },
           tasks := [(7, { task 0 with doomed := doomed })], marks := [0] }

/-- EnginesFaultsAndCancellationGoOn, counts: both sides of 64, 2,048 and 4,096; a mark for a thread and for none; a task that is not ending. -/
theorem witness_counts :
    ((counted 64 false false).th.resv.any fun r => decide (64 ≤ r.since)) = true ∧ ((counted 63 false false).th.resv.any fun r => decide (64 ≤ r.since)) = false ∧
    0 ∈ (counted 0 false false).marks ∧ 1 ∉ (counted 0 false false).marks ∧ (counted 4095 false false).th.killCount < 4096 ∧ 4096 ≤ (counted 4096 true false).th.killCount ∧
    isDoomed (counted 4096 true false) = true ∧ isDoomed (counted 4096 false false) = false ∧ ((counted 2048 true true).th.inHandler = true ∧ 2048 ≤ (counted 2048 true true).th.handlerCount) ∧
    (counted 2047 true true).th.handlerCount < 2048 ∧ (∀ k, lookup 7 (counted 0 false false).tasks = some k → k = task 0) ∧ (task 0).stage = .running := by
  refine ⟨?_, ?_, ?_, ?_, ?_, ?_, ?_, ?_, ?_, ?_, fun k h => (Option.some.inj h).symm, rfl⟩
  all_goals decide +kernel

/-- A killed task with an operation in flight, and one with nothing left. -/
theorem witness_killed :
    ((moving 0x40000 false 4).eng.ops.map fun o => (o.task, o.status)) = [(7, none)] ∧ (contextsOf (moving 0x40000 false 4) 7).map (fun x => [x.cntRemote, x.cntGlobal, x.cntDevice]) = [[0, 0, 0]] ∧
    contextsOf { onCore 0 with th := Thread.empty } 7 = [] ∧ lookup 7 (onCore 0).gangs = none ∧ lookup (task 0).card (onCore 0).cards = some card := by
  refine ⟨?_, ?_, ?_, ?_, ?_⟩ <;> decide +kernel

theorem test_killed :
    (after (.evEndKilled 7) { moving 0x40000 false 4 with tasks := [(7, { task 1 with stage := .ending 8 })] }).eng.ops.map (fun o => (o.status, o.todo)) = [(some 1, [])] ∧
    ((lookup 5 (after (.evEndKilled 7) { onCore 0 with th := Thread.empty, tasks := [(7, { task 0 with stage := .ending 8, live := [] })] }).cards).map fun c => (c.count, c.abn)) = some (0, 1) := by
  refine ⟨?_, ?_⟩ <;> decide +kernel

/-- R257, R365, R366, R369: what the counts do at their limits. -/
theorem test_counts :
    (after .reservationExpiry (counted 64 false false)).th.resv = none ∧ (after .reservationExpiry (counted 63 false false)).th.resv.isSome = true ∧
    (after (.evCancelMarkArrival 0) (counted 0 false false)).th.marked = true ∧ (after .killCountBoundary (counted 4096 false false)).th.killCount = 0 ∧
    (after .killCountBoundary (counted 4096 true false)).th.observed = true ∧ (after .cancelHandlerLimit (counted 2048 true true)).th.run = .draining ∧
    (after .cancelHandlerLimit (counted 2047 true true)).th.run = .running := by decide +kernel

/-- Scope 4, an opened one, or a root, in a stage, with nothing in it; its owner runs or is gone. -/
def ending (stage kind owner : Nat) : State :=
  let s := onCore 0
  { s with scopes := s.scopes ++ [(4, { parent := 2, state := stage, kind := kind, owner := owner })] }

theorem witness_ends :
    ((ending 3 2 7).scope? 4).map (fun r => [r.state, r.kind, (lookup r.owner (ending 3 2 7).tasks).toList.length]) = some [3, 2, 1] ∧
    ((ending 3 0 7).scope? 4).map (fun r => [r.state, r.kind]) = some [3, 0] ∧ (∀ x ∈ (ending 3 2 7).tasks, x.2.scope ≠ 4 ∧ x.2.scope ∉ subtree (ending 3 2 7) 4) ∧
    (ending 3 2 7).eng.ops = [] ∧ (ending 3 2 7).eng.commands = [] ∧ (ending 3 2 7).trailing = [] ∧ (∀ x ∈ subtree (ending 3 2 7) 4, x ≠ 4 → scopeState (ending 3 2 7) x = 4) ∧ (∀ c ∈ (ending 3 2 7).cards, c.2.scope = 4 → c.2.isPending = false) ∧
    ((ending 2 2 9).scope? 4).map (fun r => [r.state, (lookup r.owner (ending 2 2 9).tasks).toList.length]) = some [2, 0] ∧ isScopeIdle (ending 2 2 9) 4 = true ∧
    ((ending 1 2 9).scope? 4).map (fun r => r.state) = some 1 ∧ (ending 1 2 9).scope? 5 = none := by decide +kernel

/-- R362, R370, R375: a cancelled scope stays while its owner runs, else it is free; a killed task ends. -/
theorem test_ends :
    scopeState (after (.evScopeCancelled 4) (ending 3 2 7)) 4 = 4 ∧ scopeState (after (.evScopeCancelled 4) (ending 3 2 9)) 4 = 0 ∧ scopeState (after (.evScopeFreed 4) (ending 2 2 9)) 4 = 0 ∧
    scopeState (after (.evScopeFreed 4) (ending 2 2 7)) 4 = 2 ∧ scopeState (after (.evScopeCancelled 3) (ending 3 2 7)) 3 = 1 ∧
    (let t := after (.evEndKilled 7) { onCore 0 with tasks := [(7, { task 0 with stage := .ending 8, live := [], record := [(3, 1)] })] }; lookup 7 t.tasks) = none := by decide +kernel

/-! A posted store that goes to the Welt register space. -/

/-- A wide store posted to the first register of that space, from the address space that maps it. -/
def weltPosting : State :=
  let s := onCore 0
  let space := Config.lasterSpace
  { s with
    th := { s.th with asid := space, cntGlobal := 1 }
    welt := { s.welt with roots := [(space, 0x1001)] }
    mem := { s.mem with
      dram := [(0x1000, 0x01), (0x1001, 0x20), (0x2000, 0x01), (0x2001, 0x30), (0x3000, 0x1B), (0x3006, 0x08)]
      tlb := [{ unit := homeTile 0 0, asid := space, vbase := 0, pbase := 2 ^ 51, size := 2 ^ 30, perm := 3 }]
      posted := [⟨0, 7, 0, space, 0, 4, 5, .store [(1, false)] .normal, false, false, 0, none⟩] } }

theorem walk_welt : walk weltPosting Config.lasterSpace 0 = .page (2 ^ 51) (2 ^ 51) (2 ^ 30) true true false false := by
  have e1 : readNat weltPosting.mem.dram 0x1000 8 = 0x2001 := by decide +kernel
  have e2 : readNat weltPosting.mem.dram 0x2000 8 = 0x3001 := by decide +kernel
  have e3 : readNat weltPosting.mem.dram 0x3000 8 = 0x800000000001B := by decide +kernel
  have r : lookup Config.lasterSpace weltPosting.welt.roots = some 0x1001 := by simp [weltPosting, onCore, lookup]
  have no : resolvePhys weltPosting 0x8000000000000 = none := by decide +kernel
  simp [walk, r, walkFrom, walkIndex, bits, e1, e2, e3, tableSize, leafSize, no, isWelt]

/-- MessagesAndStoresArrive, the Welt register space: a page of it, and a store that is placed there. -/
theorem witness_welt_store : ∃ p, weltPosting.mem.posted[0]? = some p ∧ 2 ≤ classAt weltPosting p.asid p.va ∧ 5 ≤ p.scope ∧
    isBehind weltPosting p.core p.asid p.va (weltPosting.mem.posted.take 0) = false ∧
    placeFor p.agent false true p.va p.size weltPosting = .ok (2 ^ 51, 3, weltPosting) ∧ isWelt (2 ^ 51) = true := by
  let p : Posted := ⟨0, 7, 0, Config.lasterSpace, 0, 4, 5, .store [(1, false)] .normal, false, false, 0, none⟩
  have check : checkHome p.agent true 0 4 weltPosting = .ok () := rfl
  have hits : tlbHits weltPosting (homeTile p.agent.cluster 0) Config.lasterSpace 0 =
      [{ unit := homeTile 0 0, asid := Config.lasterSpace, vbase := 0, pbase := 2 ^ 51, size := 2 ^ 30, perm := 3 }] := by
    simp [tlbHits, weltPosting, p, Posted.agent]
    exact decide_eq_true rfl
  have placed : Machine.translate (homeTile p.agent.cluster 0) p.agent.tile Config.lasterSpace 0 weltPosting = (.page (2 ^ 51) true true false, weltPosting) := by
    simp [Machine.translate, hits]
  refine ⟨p, rfl, ?_, by decide, by simp [isBehind, isBehindAtWelt], ?_, by decide⟩
  · show 2 ≤ classAt weltPosting _ _
    decide +kernel
  simp only [placeFor, show p.va = 0 from rfl, show p.size = 4 from rfl, check, bind, Except.bind, show p.agent.asid = Config.lasterSpace from rfl, placed]
  rfl

/-! ### Dies, Welt, host and fabric -/

/-- The first die up and the last fenced; the management cluster at a stage, in a DEVSTATE, at a time with a trigger latched or not. -/
def device (stage devstate : Nat) (latch : Option Nat) : State :=
  let s := onCore 0
  { s with
    dies := (s.dies.set 7 { live := false, fenced := true, ftm := true }).set 0 { live := true, fenced := false, watchdog := true, hot := true, discard := 3 }
    mgmt := { stage := stage, devstate := devstate, recSvn := 5, floor := 4 }
    snap := { latchAt := latch, liveRetired := [(0, 9)], seq := 0xFFFFFFFF }
    time := 2048
    cards := [(5, card), (6, { card with id := 6, scope := 9, complete := true })] }

/-- DiesAndWeltRegistersAct: a die of each kind, and each flag; a trigger pending and not, due and not; each stage of the start and its
failure; bindings to a free slot, to a running card, to a card that is complete; registers at the ends of their ranges; the
last tile and power cap, and one past them. -/
theorem witness_device :
    ((device 0 0 none).dies[0]?).map (fun d => [d.live, d.fenced, d.watchdog, d.trip]) = some [true, false, true, false] ∧
    ((device 0 0 none).dies[7]?).map (fun d => [d.live, d.fenced, d.watchdog, d.trip]) = some [false, true, false, false] ∧ (device 0 0 none).dies[8]? = none ∧
    (device 0 0 none).snap.latchAt = none ∧ (device 0 0 (some 2048)).snap.latchAt = some 2048 ∧ (device 0 0 (some 2048)).time = 2048 ∧ (device 0 0 (some 2049)).time < 2049 ∧
    ((device 0 15 none).mgmt.devstate = 15 ∧ (device 8 0 none).mgmt.stage = 8 ∧ (device 7 2 none).mgmt.devstate ≠ 15) ∧
    (bits 0 29 28 = 0 ∧ bits 0x10000009 29 28 = 1 ∧ bits 0x20000009 29 28 = 2 ∧ bits 0x20000009 15 0 = 9) ∧
    (∃ c ∈ (device 0 0 none).cards, c.2.scope = 3 ∧ c.2.complete = false) ∧ (∀ c ∈ (device 0 0 none).cards, c.2.scope = 9 → c.2.complete = true) ∧
    (weltMask 0x18).isSome = true ∧ weltMask 0x19 = none ∧ (weltMask 0xF8).isSome = true ∧ weltMask 0x100 = none ∧ (weltMask 0x1000008).isSome = true ∧
    (weltMask 0x2700040).isSome = true ∧ weltMask 0x2700048 = none ∧ ((lookup 1023 (device 0 0 none).eng.tiles).getD {}).retired = false := by decide +kernel

/-- R386, R387, R390, R405, R412, R413, R420, R421: what each does. -/
theorem test_device :
    ((after (.evWatchdogExpiry 0) (device 0 0 none)).dies[0]?).map (fun d => [d.live, d.fenced]) = some [false, true] ∧ (after (.evThermalTrip 0) (device 0 0 none)).mgmt.fences = 0 ∧
    ((after (.evThermalThrottle 0) (device 0 0 none)).dies[0]?).map DieRec.throttled = some true ∧ ((after (.weltDiscard 0 1) (device 0 0 none)).dies[0]?).map DieRec.discard = some 2 ∧
    ((after (.weltDiectlReset 7 2 true) (device 0 0 none)).dies[7]?).map (fun d => [d.live, d.fenced, d.ftm]) = some [true, false, false] ∧
    (after (.weltDiectlReset 7 2 false) (device 0 0 none)).mgmt.replace = true ∧ (after (.weltDiectlReset 0 2 true) (device 0 0 none)) = device 0 0 none ∧
    (after .evSnaptrigEdge (device 0 0 none)).snap.latchAt = some 4096 ∧ (after .evSnapshotLatch (device 0 0 (some 2049))).snap.seq = 0xFFFFFFFF ∧
    (let x := (after .evSnapshotLatch (device 0 0 (some 2048))).snap; [x.seq, x.time, x.retired.length]) = [0, 2048, 1] := by decide +kernel

theorem test_welt :
    (after .evPowerGood (device 0 0 none)).mgmt.stage = 1 ∧ (let m := (after .evPowerGood { device 4 0 none with mgmt := { stage := 4, trainOk := false } }).mgmt; [m.devstate, m.code]) = [15, 4] ∧
    (let m := (after (.weltDistctl 2) (device 8 2 none)).mgmt; [m.devstate, m.floor]) = [3, 5] ∧ (after (.weltDistctl 0) (device 8 3 none)).mgmt.devstate = 2 ∧
    weltRegister (after (.weltRegisterWrite 0x18 0xFFFFFFFFFFFFFFFF) (device 0 0 none)) 0x18 = 0xFFFFFFFFFFE00000 ∧
    (after (.weltTilectl 1023 1) (device 0 0 none)).mgmt.replace = true ∧ (after (.weltTilectl 1024 1) (device 0 0 none)) = device 0 0 none ∧
    (after (.mgmtPowerCap 899) (device 0 0 none)).mgmt.powerCap = 1800 ∧ (after (.mgmtPowerCap 900) (device 0 0 none)).mgmt.powerCap = 900 ∧
    (after (.weltNodeBind 0 63 0x160000009) (device 0 0 none)).mgmt.interrupts = [5] := by decide +kernel

/-- A host queue 0 of four cards and entries that holds a completion entry or not; the device in a DEVSTATE; a session open or not, with the
debug key and the stage of an attestation; thread 0 halted with its area at 0x70000; a window at 0x40000. -/
def hosted (devstate stage spdm : Nat) (enabled session : Bool) (chead ctail : Nat) (held : List (List Byte)) : State :=
  let s := device stage devstate none
  { s with
    host := { s.host with
      queues := s.host.queues.set 0 { enabled := enabled, chead := chead, ctail := ctail, csize := 4, psize := 4, pbase := 0x100, error := true, held := held }
      chosen := 2, hmax := 2, hmin := 1, bar2base := 0x40000, bar2size := 0x100 }
    mem := { s.mem with dram := pages ++ [(0x40000, 1), (0x40001, 2), (0x70000, 7)] }
    mgmt := { s.mgmt with session := session, debugKey := true, spdm := spdm, halts := [(0, 0x10000, 0x70000)], transcript := [1] } }

/-- HostAndManagementAct, the link: a tail at the ring's end and one before it; a queue that is empty, one that is not, one that is off; the window's
last byte and one past it; versions that meet and that do not. -/
theorem witness_host :
    (hosted 3 8 4 true false 0 1 []).mgmt.devstate = 3 ∧ (((hosted 3 8 4 true false 0 1 []).host.queues[0]?).map fun h => [h.csize, h.chead, h.ctail, h.enabled.toNat, h.held.length]) = some [4, 0, 1, 1, 0] ∧
    (4 : Word).toNat % 2 ^ 32 = 4 ∧ (3 : Word).toNat % 2 ^ 32 < 4 ∧ (hosted 2 0 4 false false 0 0 []).mgmt.devstate ≠ 3 ∧ (hosted 2 0 4 false false 0 0 []).host.chosen ≠ 0 ∧
    (hosted 2 0 4 false false 0 0 []).mgmt.stage = 0 ∧ windowAddr (hosted 3 8 4 true false 0 1 []) 0xFF 1 = some 0x400FF ∧ windowAddr (hosted 3 8 4 true false 0 1 []) 0xFF 2 = none ∧
    (readPhys 0x40000 2 (hosted 3 8 4 true false 0 1 [])).isSome = true ∧ (writePhys 0x400FF [5] (hosted 3 8 4 true false 0 1 [])).isSome = true ∧
    (0x10002010000 : Word).getLsbD 40 = true ∧ (0x2010000 : Word).getLsbD 40 = false ∧ bits (0x10002010000 : Word).toNat 31 24 = 2 ∧ bits (0x10003030000 : Word).toNat 23 16 = 3 := by decide +kernel

theorem witness_host_canonical : MemoryIsCanonical (hosted 3 8 4 true true 0 1 []) := by unfold MemoryIsCanonical; decide +kernel

theorem test_host :
    ((after (.hostCtail 0 4) (hosted 3 8 4 true false 0 1 [])).host.queues[0]?).map (fun h => [h.ctail, h.enabled.toNat, h.error.toNat]) = some [4, 0, 1] ∧
    ((after (.hostCtail 0 3) (hosted 3 8 4 true false 0 1 [])).host.queues[0]?).map (fun h => [h.ctail, h.enabled.toNat]) = some [3, 1] ∧
    ((after (.hostQerror 1) (hosted 3 8 4 true false 0 1 [])).host.queues[0]?).map (fun h => h.error) = some false ∧
    (after (.hostVerNeg 0x10002010000) (hosted 3 8 4 true false 0 1 [])).host.chosen = 2 ∧ (after (.hostVerNeg 0x10003030000) (hosted 3 8 4 true false 0 1 [])).host.chosen = 0 ∧
    ((after (.evHostCardRead 0) (hosted 3 8 4 true false 0 1 [])).host.queues[0]?).map (fun h => h.chead) = some 1 ∧ after (.evHostCardRead 0) (hosted 3 8 4 true false 1 1 []) = hosted 3 8 4 true false 1 1 [] ∧
    ((after (.hostPhead 0 2) (hosted 3 8 4 true false 0 1 [List.replicate 16 7])).host.queues[0]?).map (fun h => [h.ptail, h.held.length]) = some [1, 0] ∧
    (after (.hostBar2Read 0 2) (hosted 3 8 4 true false 0 1 [])).host.reads = [[1, 2]] ∧ readByte (after (.hostBar2Write 0xFF [5]) (hosted 3 8 4 true false 0 1 [])).mem.dram 0x400FF = 5 := by
  decide +kernel

/-- HostAndManagementAct, management: a message before its turn, at its turn and before the start is far enough; the key without a fence and with one; a
session open, idle for long enough and not; an area's last bytes; lines of memory. -/
theorem witness_management :
    (messageOf (hosted 3 8 3 true false 0 1 []).mgmt .spdmGetDigests).map (fun x => (x.1, x.2.2.1)) = some (0x81, 3) ∧ (hosted 3 8 2 true false 0 1 []).mgmt.spdm = 2 ∧
    (hosted 3 5 3 true false 0 1 []).mgmt.stage < 6 ∧ (hosted 3 8 3 true false 0 1 []).mgmt.debugKey = true ∧ ((hosted 3 8 3 true false 0 1 []).dies[7]?).map DieRec.fenced = some true ∧
    ((hosted 3 8 3 true false 0 1 []).dies[0]?).map DieRec.fenced = some false ∧ (hosted 3 8 4 true true 0 1 []).mgmt.session = true ∧ (hosted 3 8 4 true false 0 1 []).mgmt.session = false ∧
    lookup 0 (hosted 3 8 4 true true 0 1 []).mgmt.halts = some (0x10000, 0x70000) ∧ 56831 + 1 ≤ 8 * areaSize ∧ ¬ 56832 + 1 ≤ 8 * areaSize ∧
    walk (hosted 3 8 4 true true 0 1 []) 1 0x4007F = .page 0x4007F 0 1073741824 true true true false ∧ isRemote 0x4007F = false ∧ 0x4007F % 128 + 1 ≤ 128 ∧
    (readPhys 0x4007F 1 (inCommand (hosted 3 8 4 true true 0 1 []))).isSome = true ∧ (writePhys 0x4007F [1] (inCommand (hosted 3 8 4 true true 0 1 []))).isSome = true ∧
    (hosted 3 8 4 true true 0 1 []).time < (hosted 3 8 4 true true 0 1 []).mgmt.idle + 60 * 10 ^ 9 ∧
    ({ hosted 3 8 4 true true 0 1 [] with time := 60 * 10 ^ 9 } : State).mgmt.idle + 60 * 10 ^ 9 ≤ 60 * 10 ^ 9 := by decide +kernel

theorem test_management :
    (after .spdmGetVersion (hosted 3 8 0 true false 0 1 [])).mgmt.transcript = [0x84] ∧ (after .spdmGetVersion (hosted 3 8 4 true false 0 1 [])).mgmt.spdm = 1 ∧
    (after .spdmGetDigests (hosted 3 8 2 true false 0 1 [])).mgmt.transcript = [1] ∧ (after .tapIdcode (hosted 3 8 0 true false 0 1 [])).mgmt.tapData = 0x18049D5B ∧
    ((after (.tapFtest 7) (hosted 3 8 0 true false 0 1 [])).dies[7]?).map DieRec.ftm = some true ∧ (after (.tapFtest 0) (hosted 3 8 0 true false 0 1 [])).mgmt.tap = 0 ∧
    (after .dbgOpen (hosted 3 8 4 true false 0 1 [])).mgmt.session = true ∧ (after .dbgOpen (hosted 3 8 3 true false 0 1 [])).mgmt.session = false ∧
    (after (.dbgReadctx 0 0 2) (hosted 3 8 4 true true 0 1 [])).mgmt.response = [7, 0] ∧ (after (.dbgReadmem 1 0x40000 2) (hosted 3 8 4 true true 0 1 [])).mgmt.response = [1, 2] ∧
    readByte (after (.dbgWritemem 1 0x4007F [9]) (hosted 3 8 4 true true 0 1 [])).mem.dram 0x4007F = 9 := by decide +kernel

/-- The window's first byte under a no-access protection: it reads as zero and is not written. -/
def guarded : State :=
  let s := hosted 3 8 4 true true 0 1 []
  { s with mem := { s.mem with prots := [⟨7, 1, 1, [(0x40000, 1)]⟩] } }

/-- HostAndManagementAct, memory: bytes that are protected and that are not, pages that are there and that are not, nothing else under way. -/
theorem witness_device_memory :
    isDenied guarded true 0x40000 1 = true ∧ isDenied guarded true 0x40001 1 = false ∧ protectsPhys guarded 1 0x40000 1 = true ∧
    ((readPhys 0x40000 2 guarded).map Prod.fst) = some [0, 2] ∧ (writePhys 0x40000 [9] guarded).map (fun s => readByte s.mem.dram 0x40000) = some 1 ∧
    placeAt guarded 1 0x40000000 = none ∧ guarded.mgmt.accesses = [] ∧ isOnTheMove guarded 1 0x40000 = false ∧ isWelt 0x4007F = false ∧
    (after (.dbgReadmem 1 0x40000000 2) (hosted 3 8 4 true true 0 1 [])).mgmt.response = [] := by decide +kernel

theorem witness_start :
    (let m := (after .evPowerGood (device 5 1 none)).mgmt; [m.stage, m.devstate, m.code]) = [5, 15, 5] ∧ (device 5 1 none).mgmt.seed = none ∧
    (let s : State := { device 6 2 none with mgmt := { stage := 6, diesOk := Vector.replicate 8 false } }; ∀ d, d < 8 → s.mgmt.diesOk[d]? ≠ some true) ∧
    (device 0 0 none).mgmt.nvme[3]?.isSome = true := by decide +kernel

/-- A packet from a device to this one, of version 2. -/
def letter (src : Nat) (seq ack aux : BitVec 32) (addr : Nat) (payload : List Byte) : FabPacket :=
  { ver := 2, flags := 0, src := src, dst := 0, seq := seq, ack := ack, tag := 9, aux := aux, addr := .ofNat 64 addr, payload := payload }

/-- A connection to device 1 under version 2, its last packet received the last before the number wraps: what it has sent, what it has
received early, and whether it owes an acknowledgement. -/
def linked (up : Bool) (tries : Nat) (early : List (Nat × FabPacket)) (owed : Bool) : State :=
  let s := onCore 0
  let sent (seq : BitVec 32) : Unacked := ⟨0x12, { letter 0 seq 0 0 0x40 [1] with dst := 1 }, tries⟩
  { s with fab := { s.fab with
      ports := (Vector.replicate 6 false).set 5 true
      conns := [(1, { up := up, ver := 2, recvSeq := 0xFFFFFFFF, sendSeq := 2, unacked := [sent 1, sent 2], early := early, owed := owed })] } }

/-- FabricEventsAct: a packet next in sequence, one received before and one that is not expected; an early one; one that can be applied; what a
NAK and an ACK name; the last device and one past it; the eighth try; the last port. -/
theorem witness_fabric :
    sequencedOf (.pktStore (letter 1 0 0 0 0x40000 [7])) = some (0x12, letter 1 0 0 0 0x40000 [7]) ∧ (letter 1 0 0 0 0 []).dst = (linked true 0 [] false).fab.device ∧
    (lookup 1 (linked true 0 [] false).fab.conns).map (fun c => [c.up.toNat, c.ver, c.recvSeq, c.early.length]) = some [1, 2, 0xFFFFFFFF, 0] ∧
    (lookup 1 (linked false 0 [] false).fab.conns).map (fun c => c.up) = some false ∧ lookup 2 (linked true 0 [] false).fab.conns = none ∧
    (0 : BitVec 32).toNat = (0xFFFFFFFF + 1) % 2 ^ 32 ∧ seqGe 0xFFFFFFFF 0xFFFFFFFF = true ∧ seqGe 0xFFFFFFFF 0 = false ∧
    (applyPacket 0x12 (letter 1 0 0 0 0x40000 [7]) (linked true 0 [] true)).isSome = true ∧
    (∀ e ∈ [(0x12, letter 1 1 0 0 0x40000 [7])], e.2.seq.toNat ≠ (0xFFFFFFFF + 1) % 2 ^ 32) ∧ (letter 63 0 0 0 0 []).src < 64 ∧ 64 ≤ (letter 64 0 0 0 0 []).src ∧
    ((lookup 1 (linked true 8 [] false).fab.conns).map fun c => (c.unacked.find? fun u => u.packet.seq.toNat = 2).map fun u => u.tries) = some (some 8) ∧
    ((lookup 1 (linked true 7 [] false).fab.conns).map fun c => (c.unacked.find? fun u => u.packet.seq.toNat = 2).map fun u => u.tries) = some (some 7) ∧
    (∀ k, k < 6 → k ≠ 5 → (linked true 0 [] false).fab.ports[k]? = some false) ∧ (linked true 0 [] false).fab.ports[5]? = some true := by decide +kernel

theorem witness_expected : (∃ c, Expected (linked true 0 [] false) (letter 1 0 0 0 0x40000 [7]) c) ∧ (∀ c, ¬ Expected (linked true 0 [] false) (letter 2 0 0 0 0x40000 [7]) c) :=
  ⟨⟨_, rfl, rfl, rfl, rfl⟩, fun c h => by unfold Expected at h; exact absurd h.2.1 (by rw [show lookup (letter 2 0 0 0 0x40000 [7]).src (linked true 0 [] false).fab.conns = none from rfl]; exact nofun)⟩

/-- R398, R399, R400, R403: a packet of another version is dropped; the last try, the last port and a port that fails. -/
theorem test_fabric :
    (after (.pktStore { letter 1 0 0 0 0x40000 [7] with ver := 1 }) (linked true 0 [] false)).fab.dropped = 1 ∧
    ((lookup 1 (after (.evRetransmitTimer 1 2) (linked true 8 [] false)).fab.conns).map fun c => c.up) = some false ∧
    ((lookup 1 (after (.evPortLinkDown 5) (linked true 0 [] false)).fab.conns).map fun c => c.up) = some false ∧
    (after (.evPortLinkTraining 0 false) (linked true 0 [] false)).mgmt.replace = true := by decide +kernel

/-! ### Steps -/

/-- Core 0 is to issue its slot 0, whose PC is given; the bytes of a word stand at 0x10000. -/
def issuing (pc : Word) (bs : List Byte) : State :=
  let s := with_ [(4, 7), (5, 8)] (onCore 0)
  { s with th := { s.th with pc := pc }, schedule := [.issue 0]
           mem := { s.mem with dram := pages ++ ((List.range bs.length).map fun k => (0x10000 + k, bs.getD k 0)).filter fun c => c.2 ≠ 0 } }

/-- The machine of that step with the slot's context in focus. -/
def focused (s : State) : State := State.focus { s with schedule := [] } 0

/-- AStepRunsTheDecodedInstruction: `add d6, d4, d5`, a word of zeros, and a page that is absent: the slot issues, and nothing comes before what it does. -/
theorem witness_step_premises (pc : Word) (bs : List Byte)
    (h : (pc, bs) ∈ ([(0x10000, [0x04, 0x86, 0x14, 0]), (0x10000, []), (0x40000000, [])] : List (Word × List Byte))) :
    IssuesNext (issuing pc bs) 0 (focused (issuing pc bs)) ∧ AtItsInstruction (focused (issuing pc bs)) := by
  refine ⟨⟨0, [], [], ?_⟩, ?_⟩
  · simp only [List.mem_cons, Prod.mk.injEq, List.not_mem_nil, or_false] at h
    rcases h with ⟨rfl, rfl⟩ | ⟨rfl, rfl⟩ | ⟨rfl, rfl⟩ <;> exact ⟨rfl, by decide +kernel, rfl, rfl, rfl⟩
  · simp only [List.mem_cons, Prod.mk.injEq, List.not_mem_nil, or_false] at h
    unfold AtItsInstruction
    rcases h with ⟨rfl, rfl⟩ | ⟨rfl, rfl⟩ | ⟨rfl, rfl⟩ <;> decide +kernel

/-- The words that the context in focus fetches, with the state that its fetch leaves, or its failure. -/
def fetched (s : State) : List Lane × State := match fetch (focused s) with | .ok r => r | .error _ => ([], focused s)
@[inherit_doc fetched] def fetchFailure (s : State) : Option (FetchFail × Word) := match fetch (focused s) with | .error (.fail why a) => some (why, a) | _ => none

theorem witness_step_words :
    (fetched (issuing 0x10000 [0x04, 0x86, 0x14, 0])).1 = [0x00148604] ∧ decodeWords [0x00148604] = .instr (.add 6 4 5) ∧
    fetchFailure (issuing 0x10000 [0x04, 0x86, 0x14, 0]) = none ∧ (fetched (issuing 0x10000 [])).1 = [0] ∧ decodeWords [0] = .reject .zero ∧
    fetchFailure (issuing 0x10000 []) = none ∧ fetchFailure (issuing 0x40000000 []) = some (.absent, 0x40000000) := by
  refine ⟨?_, ?_, ?_, ?_, ?_, ?_, ?_⟩ <;> decide +kernel

theorem witness_step_progress :
    (let s := issuing 0x10000 [0x04, 0x86, 0x14, 0]; isProgress (focused s) (run (.add 6 4 5) (fetched s).1 (fetched s).2)) = true ∧
    (let s := issuing 0x10000 []; isProgress (focused s) (run (.illegalWord .zero) (fetched s).1 (fetched s).2)) = true ∧
    (let s := issuing 0x40000000 []; isProgress (focused s) (run (.ifetchFault .absent 0x40000000) [] (focused s))) = true ∧
    (let s := issuing 0x10000 [0x04, 0x86, 0x14, 0]; ((after (.add 6 4 5) (fetched s).2.begin).th.waiting, isDoomed (fetched s).2,
      decide ((after (.add 6 4 5) (fetched s).2.begin).th.run = .draining))) = (false, false, false) := by
  refine ⟨?_, ?_, ?_, ?_⟩ <;> decide +kernel

/-- What a step leaves. -/
noncomputable def stepped (s : State) : State := match step s with | .next t => t | _ => s

/-- R16, R51, R73: the step adds and goes on; a word of zeros traps with its own subcode. -/
theorem test_step :
    (stepped (issuing 0x10000 [0x04, 0x86, 0x14, 0])).th.getD 6 = 15 ∧ (stepped (issuing 0x10000 [0x04, 0x86, 0x14, 0])).th.pc = 0x10004 ∧
    (stepped (issuing 0x10000 [])).th.cause = 0x106 ∧ (stepped (issuing 0x40000000 [])).th.eaddr = 0x40000000 := by decide +kernel

/-- The premises of ResetAllocatesNoContext, EveryStepKeepsMemoryCanonical and EncodingsRoundTrip. -/
theorem witness_machine :
    (∀ n ∈ [4, 5, 6, 7], (issuing 0x10000 []).thread? n = none) ∧ Memory.wf (issuing 0x10000 [0x04, 0x86, 0x14, 0]).mem.dram = true ∧ Memory.wf State.reset.mem.dram = true ∧
    (Instr.add 31 31 31).wf = true ∧ (Instr.addLit 31 0 0xFFFFFFFFFFFFFFFF).wf = true := by decide +kernel

theorem witness_machine_core (n : Nat) (h : coreOf n = 1) : (issuing 0x10000 []).thread? n = none := by
  have hn : n ∈ [4, 5, 6, 7] := by
    have : n / 4 = 1 := h
    simp only [List.mem_cons, List.not_mem_nil, or_false]; omega
  exact witness_machine.1 n hn

theorem witness_machine_steps : ∃ t, step (issuing 0x10000 [0x04, 0x86, 0x14, 0]) = .next t := by
  have : (match step (issuing 0x10000 [0x04, 0x86, 0x14, 0]) with | .next _ => true | _ => false) = true := by decide +kernel
  cases e : step (issuing 0x10000 [0x04, 0x86, 0x14, 0]) with
  | next t => exact ⟨t, rfl⟩
  | _ => rw [e] at this; cases this

end Sys2Proof.Tests
end

section
/-! SUPPORT. An instruction's checks in sequence, and what stands behind each of them (R33, R98, R369). -/

namespace Sys2Proof.Machine

@[simp] theorem run_ok_bind {α β : Type} (a : α) (f : α → Run β) : ((Except.ok a : Run α) >>= f) = f a := rfl

@[simp] theorem run_error_bind {α β : Type} (e : Stop) (f : α → Run β) : ((Except.error e : Run α) >>= f) = .error e := rfl

/-- A check, then the rest of the instruction. -/
theorem finishRun_require (s : State) (ok : Bool) (cls sub : Nat) (addr : Word) (f : Unit → Run State) :
    finishRun s (require ok cls sub addr >>= f) = if ok = true then finishRun s (f ()) else .next (takeTrap cls sub addr s) := by
  cases ok <;> rfl

/-- A blocking wait, then the rest of the instruction. -/
theorem finishRun_blockUntil (s : State) (ok : Bool) (f : Unit → Run State) :
    finishRun s (blockUntil ok >>= f) =
      if ok = true then finishRun s (f ()) else .next (if s.th.inHandler then killHere s else s.waitHere) := by
  cases ok <;> rfl

/-- A blocking wait outside a cancel handler. -/
theorem finishRun_block_waits {s : State} (h : s.th.inHandler = false) : finishRun s (.error .block) = .next s.waitHere := by
  rw [finishRun_block, if_neg (by simp [h])]

end Sys2Proof.Machine
end

section
/-! SUPPORT. The issue of one slot of a core: which slots issue, what a step of the next one comes to, and reset (R16, R38, R69). -/

namespace Sys2Proof.Machine

open Sys2Proof.Safety

/-! ### Outcomes in sequence -/

@[simp] theorem andThen_next (s : State) (f : State → Moved) : andThen (.next s) f = f s := rfl

theorem andThen_assoc (r : Moved) (f g : State → Moved) :
    andThen (andThen r f) g = andThen r fun s => andThen (f s) g := by
  cases r <;> rfl

/-! ### The slots of a core that may issue (R16, R38) -/

/-- The slots that the order of R16 goes through are the core's own. -/
theorem coreOf_of_mem_issueOrder {s : State} {core n : Nat} (h : n ∈ issueOrder s core) : coreOf n = core := by
  obtain ⟨i, -, rfl⟩ := List.mem_map.1 h
  unfold coreOf
  omega

theorem issuers_eq_nil_of_no_context {s : State} {core : Nat} (h : ∀ n, coreOf n = core → s.thread? n = none) :
    issuers s core = [] :=
  List.filter_eq_nil_iff.2 fun n hn => by simp [h n (coreOf_of_mem_issueOrder hn)]

theorem turn_issue_of_no_issuers {s : State} {core : Nat} (h : issuers s core = []) : turn (.issue core) s = .next s := by
  simp [turn, h, issueFrom]

theorem reset_thread? (n : Nat) : State.reset.thread? n = none := rfl

/-! ### The step of the slot that issues next (R16, R69) -/

/-- Under a schedule that names the core, the step of the next slot is its issue, where that makes progress, and time passing. -/
theorem step_of_issuesNext {s f : State} {num : Nat} {r : Moved} (hn : IssuesNext s num f) (hi : issue f = some r)
    (hp : isProgress f r = true) : step s = andThen r fun t => .next (tick t) := by
  obtain ⟨core, rest, slots, hs, hq, rfl, -, hy⟩ := hn
  simp [step, move, hs, turn, hq, issueFrom, hy, hi, hp]

/-- A context that leads no phrase, with nothing before its instruction, issues what its fetch gives it to execute. -/
theorem issue_eq_run {f u : State} {i : Instr} {ws : List Lane} (hphrase : f.th.phrase = .none) (hat : AtItsInstruction f)
    (hf : instrAt f = .ok (i, ws, u)) : issue f = some (run i ws u) := by
  obtain ⟨hhalt, hvec, hint⟩ := hat
  simp [issue, hphrase, issueThread, hhalt, hvec, hint, hf]

/-- What a thread is given to execute: the decoded instruction, an illegal word, or a failed fetch (R69, R341). -/
theorem instrAt_of_fetch {f u : State} {i : Instr} {ws : List Lane}
    (h : (fetch f = .ok (ws, u) ∧ decodeWords ws = .instr i) ∨
      (∃ why, fetch f = .ok (ws, u) ∧ decodeWords ws = .reject why ∧ i = .illegalWord why) ∨
      (∃ why addr, fetch f = .error (.fail why addr) ∧ i = .ifetchFault why addr ∧ ws = [] ∧ u = f)) :
    instrAt f = .ok (i, ws, u) := by
  rcases h with ⟨hf, hd⟩ | ⟨why, hf, hd, rfl⟩ | ⟨why, addr, hf, rfl, rfl, rfl⟩
  · simp [instrAt, hf, hd]
  · simp [instrAt, hf, hd]
  · simp [instrAt, hf]

/-- An instruction that goes on, with no wait, no end of its task and no cancellation to observe, retires. -/
theorem conclude_eq_retire {i : Instr} {ws : List Lane} {s t : State} (hw : t.th.waiting = false) (hr : t.th.run ≠ .draining)
    (hd : isDoomed s = false) : conclude i ws s t = retire i s t := by
  simp [conclude, hd, hr, hw]

end Sys2Proof.Machine

namespace Sys2Proof.Proofs

open Sys2Proof.Machine Sys2Proof.Safety

/-- Settles O57: the order of R16 names the core's own slots alone, and an issue over no slot is the identity. -/
theorem resetAllocatesNoContext : Obligations.ResetAllocatesNoContext := by
  refine ⟨rfl, rfl, reset_thread?, fun core => issuers_eq_nil_of_no_context fun n _ => reset_thread? n, Memory.wf_nil, ?_⟩
  intro s core h
  have hi := issuers_eq_nil_of_no_context h
  exact ⟨hi, turn_issue_of_no_issuers hi⟩

/-- Settles O58: the next slot's issue is the run of what its fetch gave it; a run is `exec` and the boundary. -/
theorem aStepRunsTheDecodedInstruction : Obligations.AStepRunsTheDecodedInstruction := by
  intro s f u num i ws hn hat hf hp
  obtain ⟨-, -, -, -, -, -, hphrase, -⟩ := id hn
  have hstep : step s = andThen (run i ws u) fun t => .next (tick t) :=
    step_of_issuesNext hn (issue_eq_run hphrase hat (instrAt_of_fetch hf)) hp
  refine ⟨hstep, fun t he hw hr hd => ?_⟩
  rw [hstep, run, he, andThen_next, conclude_eq_retire hw hr hd]

end Sys2Proof.Proofs
end

section
/-! SUPPORT. The scalar file: what a name reads, and what a write through a name does to what every name reads (R19, R20). -/

namespace Sys2Proof.Machine

open Sys2Proof.Safety

/-! ### Which word a name reaches (R20) -/

/-- d0 reads as zero, and another name reads the word that it reaches at the level. -/
theorem Thread.getD_of_ne_zero {t : Thread} {n : DReg} (h : n ≠ 0) : t.getD n = (t.d[physD t.lvl n.toNat]?).getD 0 := if_neg h

@[simp] theorem Thread.getD_zero (t : Thread) : t.getD 0 = 0 := rfl

theorem Thread.setD_zero (t : Thread) (x : Word) : t.setD 0 x = t := rfl

theorem Thread.setD_d {t : Thread} {n : DReg} (h : n ≠ 0) (x : Word) :
    (t.setD n x).d = t.d.setIfInBounds (physD t.lvl n.toNat) x := by rw [Thread.setD, if_neg h]

theorem physD_of_lt_16 {lvl n : Nat} (h : n < 16) : physD lvl n = n := if_pos h

/-- d16 to d23 reach the bank at level 0 and the frame of the level below at another. -/
theorem physD_lower {lvl j : Nat} (h : j < 8) : physD lvl (16 + j) = if lvl = 0 then 16 + j else 24 + 8 * (lvl - 1) + j := by
  unfold physD
  rw [if_neg (by omega), if_pos (by omega)]
  split <;> omega

/-- d24 to d31 reach the frame of the level. -/
theorem physD_upper {lvl j : Nat} : physD lvl (24 + j) = 24 + 8 * lvl + j := by
  unfold physD
  rw [if_neg (by omega), if_neg (by omega)]
  omega

/-! ### Reads after writes (R19, R20) -/

theorem DReg.ne_zero_of_toNat {n : DReg} {k : Nat} (h : n.toNat = k) (hk : 0 < k) : n ≠ 0 := by
  rintro rfl
  simp at h
  omega

/-- A physical word after a write through a name: the written value at the word that the name reaches. -/
theorem Thread.word_setD {t : Thread} {n : DReg} (h : n ≠ 0) (x : Word) {k : Nat} (hk : k < 64) :
    ((t.setD n x).d[k]?).getD 0 = if physD t.lvl n.toNat = k then x else (t.d[k]?).getD 0 := by
  rw [Thread.setD_d h, Vector.getElem?_setIfInBounds]
  split
  · next he => subst he; simp [hk]
  · rfl

/-- What a name reads after a write through a name of the same level. -/
theorem Thread.getD_setD {t : Thread} (hl : t.lvl ≤ 4) (n m : DReg) (x : Word) :
    (t.setD n x).getD m = if m = n ∧ n ≠ 0 then x else t.getD m := by
  by_cases hn : n = 0
  · rw [if_neg fun h => h.2 hn, hn, Thread.setD_zero]
  by_cases hm : m = 0
  · subst hm
    rw [if_neg fun h => h.2 h.1.symm]
    rfl
  rw [Thread.getD_of_ne_zero hm, Thread.getD_of_ne_zero hm, Thread.setD_lvl, Thread.word_setD hn x (physD_lt hl m.isLt)]
  by_cases h : m = n
  · rw [h, if_pos rfl, if_pos ⟨rfl, hn⟩]
  · have hne : physD t.lvl n.toNat ≠ physD t.lvl m.toNat := fun he => h (BitVec.eq_of_toNat_eq (physD_inj n.isLt m.isLt he).symm)
    rw [if_neg hne, if_neg fun hmn => h hmn.1]

/-- A write at a deeper level leaves the level-0 bank. -/
theorem bankWordOf_setD {t : Thread} (h0 : t.lvl ≠ 0) (n : DReg) (x : Word) {j : Nat} (hj : j < 8) :
    bankWordOf (t.setD n x) j = bankWordOf t j := by
  by_cases hn : n = 0
  · subst hn; rfl
  have hne : physD t.lvl n.toNat ≠ 16 + j := by
    have := physD_not_bank h0 n.isLt
    omega
  rw [bankWordOf, bankWordOf, Thread.word_setD hn x (by omega), if_neg hne]

/-- What d16 to d23 read. -/
theorem Thread.getD_lower (t : Thread) {n : DReg} {j : Nat} (hn : n.toNat = 16 + j) (hj : j < 8) :
    t.getD n = if t.lvl = 0 then bankWordOf t j else frameWordOf t (t.lvl - 1) j := by
  rw [Thread.getD_of_ne_zero (DReg.ne_zero_of_toNat hn (by omega)), hn, physD_lower hj]
  split <;> rfl

/-- What d24 to d31 read. -/
theorem Thread.getD_upper (t : Thread) {n : DReg} {j : Nat} (hn : n.toNat = 24 + j) : t.getD n = frameWordOf t t.lvl j := by
  rw [Thread.getD_of_ne_zero (DReg.ne_zero_of_toNat hn (by omega)), hn, physD_upper]
  rfl

/-- What d0 to d15 read, at every level. -/
theorem Thread.getD_of_lt_16 (t : Thread) {n : DReg} (hn : n.toNat < 16) :
    t.getD n = if n = 0 then 0 else (t.d[n.toNat]?).getD 0 := by
  rw [Thread.getD, physD_of_lt_16 hn]

end Sys2Proof.Machine

namespace Sys2Proof.Proofs

open Sys2Proof.Machine Sys2Proof.Safety

/-- Settles O3: a name reaches one physical word, different names of a level different words, and none of them the bank at a
deeper level. -/
theorem scalarNamesFollowTheLoopLevel : Obligations.ScalarNamesFollowTheLoopLevel := by
  intro t hl
  refine ⟨fun n hn => t.getD_of_lt_16 hn, fun n j hn hj => t.getD_lower hn hj, fun n j hn _ => t.getD_upper hn,
    Thread.getD_setD hl, fun n x h0 j hj => ⟨bankWordOf_setD h0 n x hj, fun m hm => ?_⟩⟩
  rw [Thread.getD_lower _ hm hj, if_pos rfl]
  exact bankWordOf_setD h0 n x hj

end Sys2Proof.Proofs
end

section
/-! SUPPORT. The system registers: that what the model reads and writes in them is what the tables of R24 to R31 say, and the outcomes
of `srd` and `swr` (R25, R106). -/

namespace Sys2Proof.Machine

open Sys2Proof.Safety

/-! ### What a register reads (R24, R31) -/

theorem foldl_add_eq_sum {α : Type} (f : α → Nat) (l : List α) (n : Nat) : l.foldl (fun n u => n + f u) n = n + (l.map f).sum := by
  induction l generalizing n with
  | nil => rfl
  | cons x l ih => rw [List.foldl_cons, ih, List.map_cons, List.sum_cons, Nat.add_assoc]

theorem sum_map_filter {α : Type} (p : α → Bool) (f : α → Nat) (l : List α) :
    ((l.filter p).map f).sum = (l.map fun u => if p u then f u else 0).sum := by
  induction l with
  | nil => rfl
  | cons x l ih =>
    rw [List.map_cons, List.sum_cons, ← ih, List.filter_cons]
    split <;> simp

theorem energyOf_eq_taskEnergy (s : State) : energyOf s = taskEnergy s s.th := by
  unfold energyOf taskEnergy otherEnergy
  rw [foldl_add_eq_sum, sum_map_filter]
  simp

/-- The model reads what the table says, in every number. -/
theorem readOf_eq_sysValue (s : State) (n : Nat) : readOf s n = sysValue s s.th n := by
  unfold readOf
  split
  case h_17 => rw [energyOf_eq_taskEnergy]; rfl
  case h_18 => simp [sysValue, *]
  all_goals rfl

/-! ### What a write leaves (R25 to R27) -/

/-- The numbers that some mode may write (R24). -/
def writableNumbers : List Nat := [0, 1, 2, 3, 4, 8, 0x10, 0x11, 0x12, 0x13, 0x18]

theorem mem_writableNumbers {s : State} {n : Nat} {v : Word} (h : sysValue s s.th n = some v) (hr : isReadOnly n = false) :
    n ∈ writableNumbers := by
  unfold sysValue at h
  split at h
  case h_18 => cases h
  all_goals first | decide | simp [isReadOnly] at hr

theorem bits_63_eq_zero_iff (v : Word) {lo : Nat} (h : lo ≤ 63) : bits v.toNat 63 lo = 0 ↔ v.toNat < 2 ^ lo := by
  have hlt : v.toNat / 2 ^ lo < 2 ^ (63 + 1 - lo) := by
    rw [Nat.div_lt_iff_lt_mul (Nat.two_pow_pos lo), ← Nat.pow_add, show 63 + 1 - lo + lo = 64 by omega]
    exact v.isLt
  rw [bits, Nat.mod_eq_of_lt hlt, Nat.div_eq_zero_iff_lt (Nat.two_pow_pos lo)]

/-- The model accepts the values that the table accepts, and writes what it says. -/
theorem writtenOf_eq (t : Thread) {n : Nat} (h : n ∈ writableNumbers) (v : Word) :
    writtenOf t n v = if sysFits t n v = true then some (sysPut n v t) else none := by
  have h12 := bits_63_eq_zero_iff v (lo := 12) (by decide)
  have h16 := bits_63_eq_zero_iff v (lo := 16) (by decide)
  have h15 := bits_63_eq_zero_iff v (lo := 15) (by decide)
  simp only [writableNumbers, List.mem_cons, List.not_mem_nil, or_false] at h
  rcases h with rfl | rfl | rfl | rfl | rfl | rfl | rfl | rfl | rfl | rfl | rfl
  case inl =>
    refine ite_congr (propext ?_) (fun _ => rfl) (fun _ => rfl)
    simp only [sysFits, Bool.and_eq_true, decide_eq_true_eq, h12, and_assoc]
    simp [bits]
  case inr.inl =>
    exact ite_congr (propext (h16.symm.trans decide_eq_true_iff.symm)) (fun _ => rfl) (fun _ => rfl)
  case inr.inr.inr.inr.inr.inl =>
    refine ite_congr (propext ?_) (fun _ => rfl) (fun _ => rfl)
    simp only [sysFits, Bool.and_eq_true, decide_eq_true_eq, h15]
    simp [bits]
  case inr.inr.inr.inr.inr.inr.inl => exact ite_congr (propext (by simp [sysFits, and_assoc])) (fun _ => rfl) (fun _ => rfl)
  case inr.inr.inr.inr.inr.inr.inr.inl => exact ite_congr (propext (by simp [sysFits])) (fun _ => rfl) (fun _ => rfl)
  case inr.inr.inr.inr.inr.inr.inr.inr.inr.inr => exact ite_congr (propext (by simp [sysFits])) (fun _ => rfl) (fun _ => rfl)
  all_goals rfl

/-! ### The checks of `srd` and `swr` (R24, R106) -/

theorem isSupervisorOnly_iff (n : Nat) : isSupervisorOnly n = true ↔ n ∈ [1, 2, 3, 4] := by
  simp [isSupervisorOnly]
  omega

theorem isReadOnly_iff (n : Nat) : isReadOnly n = true ↔ n ∈ [0x20, 0x21, 0x22, 0x23, 0x28, 0x29] := by
  simp [isReadOnly, or_assoc]

theorem isUserWritable_iff (n : Nat) : isUserWritable n = true ↔ n = 8 ∨ n = 0x13 := by
  simp [isUserWritable]

end Sys2Proof.Machine

namespace Sys2Proof.Proofs

open Sys2Proof.Machine Sys2Proof.Safety

/-- Settles O48: the two instructions make their checks in order, over the values of the tables. -/
theorem systemRegistersAreReadAndWritten : Obligations.SystemRegistersAreReadAndWritten := by
  intro s a n
  have srd : exec (.srd a n) s = execSrd a n s := rfl
  have swr : exec (.swr n a) s = execSwr n a s := rfl
  have hsup : (s.th.status.getLsbD 0 = true) = (isSupervisor s.th.status = true) := rfl
  simp only [readOf_eq_sysValue, ← isReadOnly_iff, ← isSupervisorOnly_iff, hsup, srd, swr]
  refine ⟨fun h => ⟨by simp [execSrd, h, clsIll], by simp [execSwr, h, clsIll]⟩, fun v h => ⟨?_, ?_, ?_, ?_, ?_⟩⟩
  · intro hs ho
    simp [execSrd, h, hs, ho, clsPriv]
  · intro ho
    have hok : (isSupervisor s.th.status || !isSupervisorOnly n.toNat) = true := by simpa using ho
    simp [execSrd, h, hok]
  · intro hr
    simp [execSwr, h, hr, clsIll]
  · intro hr hs h8 h13
    have hu : isUserWritable n.toNat = false := by simp [isUserWritable, h8, h13]
    simp [execSwr, h, hr, hs, hu, clsPriv]
  · intro hr ho
    have hok : (isSupervisor s.th.status || isUserWritable n.toNat) = true := by simpa [isUserWritable_iff] using ho
    rw [writtenOf_eq s.th (mem_writableNumbers h (by simpa using hr))]
    cases hf : sysFits s.th n.toNat (s.th.getD a) <;> simp [execSwr, h, hr, hok, hf, clsIll, illValue]

end Sys2Proof.Proofs
end

section
/-! SUPPORT. Vector operands: lanes and the bytes behind them, registers that are not bound, and the one pop of a bound source (R22,
R134, R137, R156). -/

namespace Sys2Proof.Machine

open Sys2Proof.Safety

/-! ### Lanes and bytes (R7, R134) -/

theorem lane_lanesFrom (f : Nat → Lane) {k : Nat} (hk : k < 32) : lane (lanesFrom f) k = f k := by
  simp [lane, lanesFrom, hk]

/-- Some of the bytes read from a key up are the bytes read from further on. -/
theorem scratchBytes_drop_take (s : State) (key : Nat) {i m n : Nat} (h : i + m ≤ n) :
    ((scratchBytes s key n).drop i).take m = scratchBytes s (key + i) m := by
  apply List.ext_getElem?
  intro k
  simp only [scratchBytes, List.getElem?_take, List.getElem?_drop, List.getElem?_map]
  by_cases hk : k < m
  · simp [hk, show i + k < n by omega, Nat.add_assoc]
  · simp [hk]

/-- A lane of a vector value that the array holds is the number in its four bytes. -/
theorem lane_lanesOfBytes_scratch (s : State) (key : Nat) {k : Nat} (hk : k < 32) :
    (lane (lanesOfBytes (scratchBytes s key 128)) k).toNat = scratchNat s (key + 4 * k) 4 := by
  rw [lanesOfBytes, lane_lanesFrom _ hk, scratchBytes_drop_take s key (by omega), BitVec.toNat_ofNat, scratchNat]
  refine Nat.mod_eq_of_lt (Nat.lt_of_lt_of_le (natOfBytes_lt _) ?_)
  simp [scratchBytes]

/-! ### Operands that are not bound (R22) -/

theorem readVec_of_unbound {s : State} {n : VReg} (h : bindingOf s.th n = none) : readVec s n = s.th.getV n := by
  rw [readVec, h]

/-- A write to an unbound register changes the lanes of the mask in it. -/
theorem writeVec_of_unbound {s : State} {n : VReg} (h : bindingOf s.th n = none) (mask : Lane) (x : Nat → Lane) :
    writeVec n mask x s =
      { s with th := s.th.setV n (lanesFrom fun i => if mask.getLsbD i then x i else lane (s.th.getV n) i) } := by
  rw [writeVec, h]

theorem streamUses_of_unbound {t : Thread} {dst : Option VReg} {srcs : List VReg}
    (h : ∀ r ∈ dst.toList ++ srcs, bindingOf t r = none) : streamUses t dst srcs = [] := by
  refine List.append_eq_nil_iff.2 ⟨?_, List.flatMap_eq_nil_iff.2 fun r hr => ?_⟩
  · cases dst with
    | none => rfl
    | some d => simp [h d (by simp)]
  · have hm : r ∈ srcs := List.mem_eraseDups.1 (List.mem_filter.1 hr).1
    simp [h r (List.mem_append_right _ hm)]

theorem useStreams_of_unbound {s : State} {dst : Option VReg} {srcs : List VReg}
    (h : ∀ r ∈ dst.toList ++ srcs, bindingOf s.th r = none) : useStreams dst srcs s = .ok s := by
  rw [useStreams, streamUses_of_unbound h]
  rfl

/-! ### The pop of a bound source (R22, R156) -/

theorem streamUses_pop {t : Thread} {r : VReg} {b : Binding} (h : bindingOf t r = some b) :
    streamUses t none [r] = [⟨r, b, b.pos, false⟩] := by
  simp [streamUses, h, List.eraseDups_cons]

/-- A position is popped from where the binding stands. -/
theorem stepBinding_of_bound {s : State} {r : VReg} {b : Binding} (h : bindingOf s.th r = some b) :
    stepBinding r s = { s with th := { s.th with
      binds := s.th.binds.setIfInBounds (r.toNat - 24) (some { b with pos := b.pos + 1 }) } } := by
  have hb : s.th.binds[r.toNat - 24]? = some (some b) := by
    unfold bindingOf at h
    split at h
    · cases hx : s.th.binds[r.toNat - 24]? with
      | none => simp [hx] at h
      | some x => simpa [hx] using h
    · cases h
  simp [stepBinding, onVec, hb]

/-- The checks that the pop of a bound source makes, in order. -/
theorem useStreams_pop {s : State} {r : VReg} {b : Binding} (h : bindingOf s.th r = some b) :
    let o : Int := b.base + b.pos * b.stride
    let key := scratchKey s.th o.toNat
    useStreams none [r] s = (do
      require (decide (b.count ≤ b.pos) || (decide (0 ≤ o) && decide (o + 128 ≤ s.th.spsize.toNat))) clsScratch 0 (.ofInt 64 o)
      require (decide (b.pos < b.count)) clsStreamEnd b.gen
      blockUntil ((granulesOf key 128).all fun g => isFull s g)
      if scratchPoisoned s key 128 then .error (.endTask statusPoison) else .ok ()
      .ok (stepBinding r s)) := by
  rw [useStreams, streamUses_pop h]
  cases hp : scratchPoisoned s (scratchKey s.th (b.base + b.pos * b.stride : Int).toNat) 128 <;>
    simp [checkStreams, waitPops, poisonPops, takePops, StreamUse.bound, StreamUse.ends, StreamUse.key, Binding.offset, hp] <;> rfl

end Sys2Proof.Machine

namespace Sys2Proof.Proofs

open Sys2Proof.Machine Sys2Proof.Safety

/-- Settles O13: unbound operands need nothing and are the registers; a bound source makes its checks in order and is popped. -/
theorem vectorOperandsAreRegistersOrStreams : Obligations.VectorOperandsAreRegistersOrStreams := by
  refine ⟨fun s dst srcs h => ⟨useStreams_of_unbound h, fun r hr => ?_, fun a ha mask x => ?_⟩, fun s r b h => ?_⟩
  · exact readVec_of_unbound (h r (List.mem_append_right _ hr))
  · exact ⟨_, writeVec_of_unbound (h a (List.mem_append_left _ ha)) mask x, fun k hk => lane_lanesFrom _ hk⟩
  intro o inside key
  have hpop := useStreams_pop h
  simp only [show (b.base : Int) + b.pos * b.stride = o from rfl, show scratchKey s.th o.toNat = key from rfl] at hpop
  have hbound (hc : b.pos < b.count) :
      (decide (b.count ≤ b.pos) || (decide (0 ≤ o) && decide (o + 128 ≤ s.th.spsize.toNat))) = decide inside := by
    rw [decide_eq_false (Nat.not_le.2 hc), Bool.false_or, ← Bool.decide_and]
  refine ⟨fun hc hi => ?_, fun hc => ?_, fun hc hi hf => ?_, fun hc hi hf hp => ?_, fun hc hi hf hp => ⟨?_, fun k hk => ?_⟩⟩
  · rw [hpop, hbound hc]
    simp [hi, clsScratch]
  · simp [hpop, hc, Nat.not_lt.2 hc, clsStreamEnd]
  · have hw : ((granulesOf key 128).all fun g => isFull s g) = false := by
      obtain ⟨g, hg, he⟩ := hf
      exact List.all_eq_false.2 ⟨g, hg, by simp [he]⟩
    rw [hpop, hbound hc]
    simp [hi, hc, hw]
  · have hw : ((granulesOf key 128).all fun g => isFull s g) = true := List.all_eq_true.2 hf
    rw [hpop, hbound hc]
    simp [hi, hc, hw, hp, statusPoison]
  · have hw : ((granulesOf key 128).all fun g => isFull s g) = true := List.all_eq_true.2 hf
    rw [hpop, hbound hc, ← stepBinding_of_bound h]
    simp [hi, hc, hw, hp]
  · rw [readVec, h]
    exact lane_lanesOfBytes_scratch s key hk

end Sys2Proof.Proofs
end

section
/-! SUPPORT. Traps: the status that entry leaves, the end of a task in a double trap, and the block of an address (R33, R34, R341,
R370). -/

namespace Sys2Proof.Machine

open Sys2Proof.Safety

/-! ### The status at trap entry (R26, R33) -/

/-- Bit `j` of STATUS at trap entry, from its bits SV, IE and FT before and the level. -/
def trapStatusBit (sv ie ft : Bool) (lvl j : Nat) : Bool :=
  match j with
  | 0 => true | 1 => sv | 3 => ie | 4 => true
  | 8 => lvl.testBit 0 | 9 => lvl.testBit 1 | 10 => lvl.testBit 2 | 11 => ft | _ => false

theorem getLsbD_trapStatus : ∀ (lvl : Fin 5) (sv ie ft : Bool) (j : Fin 64),
    (BitVec.ofNat 64 (1 + 16 + 256 * lvl.val + (if sv then 2 else 0) + (if ie then 8 else 0) + (if ft then 2048 else 0))).getLsbD j.val =
      trapStatusBit sv ie ft lvl.val j.val := by
  decide +kernel

theorem getLsbD_statusAtTrap (status : Word) {lvl j : Nat} (hl : lvl ≤ 4) (hj : j < 64) :
    (statusAtTrap status lvl).getLsbD j =
      trapStatusBit (status.getLsbD 0) (status.getLsbD 2) (status.getLsbD 11) lvl j :=
  getLsbD_trapStatus ⟨lvl, by omega⟩ _ _ _ ⟨j, hj⟩

/-! ### The end of a running task (R34, R370) -/

/-- A running task ends with the status. -/
theorem endTask_of_running {s : State} {id : Nat} {k : Task} (h : lookup id s.tasks = some k) (hk : k.stage = .running) (st : Nat) :
    endTask id st s = (s.onTask id fun t => { t with stage := .ending st, live := [] }).onThreads (fun u => u.live && u.taskid = id)
      fun u => { u with run := .draining, waiting := true } := by
  simp [endTask, h, hk]

/-- The context in focus at the end of its task drains; its other fields stay. -/
theorem endHere_th (st : Nat) (s : State) : (endHere st s).th = { s.th with run := .draining, waiting := true } := by
  unfold endHere endTask
  split
  · rfl
  · split
    · rfl
    · simp [State.onThreads]

/-- A running task in focus ends with the status. -/
theorem stage_endHere {s : State} {k : Task} (h : lookup s.th.taskid s.tasks = some k) (hk : k.stage = .running) (st : Nat) :
    (lookup s.th.taskid (endHere st s).tasks).map Task.stage = some (.ending st) := by
  have he := endTask_of_running (s := { s with th := { s.th with run := .draining, waiting := true } }) h hk st
  rw [endHere, he, onThreads_tasks, lookup_onTask]
  simp [h]

/-! ### The 64 KiB block of an address (R341) -/

theorem and_block (x : Word) : x &&& 0xFFFFFFFFFFFF0000 = .ofNat 64 (x.toNat / 65536 * 65536) := by
  have hmask : ∀ i : Fin 64, (0xFFFFFFFFFFFF0000 : Word).getLsbD i.val = decide (16 ≤ i.val) := by decide
  have hshift : BitVec.ofNat 64 (x.toNat / 65536 * 65536) = x >>> 16 <<< 16 := by
    apply BitVec.eq_of_toNat_eq
    simp [Nat.shiftLeft_eq, Nat.shiftRight_eq_div_pow]
  rw [hshift]
  refine BitVec.eq_of_getLsbD_eq fun i hi => ?_
  rw [BitVec.getLsbD_and, hmask ⟨i, hi⟩]
  by_cases h : 16 ≤ i
  · simp [h, hi, Nat.not_lt.2 h]
  · simp [h, Nat.lt_of_not_le h]

end Sys2Proof.Machine

namespace Sys2Proof.Proofs

open Sys2Proof.Machine Sys2Proof.Safety

/-- Settles O49: the fields of trap entry, the end of the task in a double trap, and the traps that instructions always take. -/
theorem trapsSaveAndVector : Obligations.TrapsSaveAndVector := by
  intro s
  refine ⟨fun cls sub addr htip hl => ?_, fun cls sub addr k htip hk hr => ?_, fun i => ⟨rfl, rfl, rfl⟩, fun why n h => ?_, fun w => rfl,
    fun addr => ⟨rfl, fun why n h => ?_⟩, fun h => ?_, fun v rest hi hie hw => ?_⟩
  · have hn : trapInProgress s.th.status = false := htip
    obtain ⟨hepc, hcause, headdr, hstatus, hpc, hd, hv, hp, hq, hz, hlvl, hloops, hbinds, hfmode⟩ := takeTrap_th hn cls sub addr
    refine ⟨hepc, hcause, headdr, hpc, fun j hj => ?_, hd, hv, hp, hq, hz, hlvl, hloops, hbinds, ?_⟩
    · rw [hstatus, getLsbD_statusAtTrap _ hl hj]
      rfl
    · simp [takeTrap, hn]
  · have hd : takeTrap cls sub addr s = endHere 12 s := takeTrap_double htip cls sub addr
    intro t
    have hth : t.th = { s.th with run := .draining, waiting := true } := by rw [show t = endHere 12 s from hd, endHere_th]
    refine ⟨?_, by rw [hth], by rw [hth], by rw [hth], by rw [hth], by rw [hth], by rw [hth], ?_⟩
    · rw [show t = endHere 12 s from hd, stage_endHere hk hr]
    · rw [show t = endHere 12 s from hd, endHere, endTask_mem]
  · simp only [List.mem_cons, Prod.mk.injEq, List.not_mem_nil, or_false] at h
    rcases h with ⟨rfl, rfl⟩ | ⟨rfl, rfl⟩ | ⟨rfl, rfl⟩ | ⟨rfl, rfl⟩ | ⟨rfl, rfl⟩ | ⟨rfl, rfl⟩ <;> rfl
  · simp only [List.mem_cons, Prod.mk.injEq, List.not_mem_nil, or_false] at h
    rw [← and_block]
    rcases h with ⟨rfl, rfl⟩ | ⟨rfl, rfl⟩ | ⟨rfl, rfl⟩ <;> rfl
  · have hx : exec .intrEntry s = execIntrEntry s := rfl
    rw [hx, execIntrEntry]
    cases hi : s.th.intrs with
    | nil => rfl
    | cons v rest =>
      refine if_pos ?_
      simpa [hi, interruptsOn] using h
  · have hx : exec .intrEntry s = execIntrEntry s := rfl
    rw [hx, execIntrEntry, hi]
    refine if_neg ?_
    rcases hw with hw | hw <;> simp [interruptsOn, hie, hw]

end Sys2Proof.Proofs
end

section
/-! SUPPORT. What the memory system's own actions, up to a release, leave of the context in focus: everything but its reservation, its
remote-device count and error bit, and whether it runs and waits (R243, R257, R261, R370, R400). -/

namespace Sys2Proof.Machine

/-- A context without what the memory system may change of it. -/
@[irreducible] def Thread.lasting (t : Thread) : Thread :=
  { t with resv := none, derr := false, cntDevice := 0, run := .running, waiting := false }

theorem Thread.num_of_lasting {t u : Thread} (h : u.lasting = t.lasting) : u.num = t.num := by
  unfold Thread.lasting at h
  have hn := congrArg Thread.num h
  exact hn

theorem Thread.lasting_resv (t : Thread) : { t with resv := none }.lasting = t.lasting := by
  unfold Thread.lasting; rfl

theorem Thread.lasting_drain (t : Thread) : { t with run := .draining, waiting := true }.lasting = t.lasting := by
  unfold Thread.lasting; rfl

theorem Thread.lasting_device (t : Thread) (n : Nat) : { t with cntDevice := n }.lasting = t.lasting := by
  unfold Thread.lasting; rfl

theorem Thread.lasting_deviceError (t : Thread) (n : Nat) : { t with derr := true, cntDevice := n }.lasting = t.lasting := by
  unfold Thread.lasting; rfl

/-! ### Repeated actions -/

theorem foldl_lasting {α : Type} {f : State → α → State} (h : ∀ s a, (f s a).th.lasting = s.th.lasting) (l : List α) (s : State) :
    (l.foldl f s).th.lasting = s.th.lasting := by
  induction l generalizing s with
  | nil => rfl
  | cons a l ih => rw [List.foldl_cons, ih, h]

/-- A fold that stops at the first failure keeps what each of its steps keeps. -/
theorem foldlM_some_induct {α β : Type} {P : β → Prop} {f : β → α → Option β} (h : ∀ b a b', f b a = some b' → P b → P b')
    {l : List α} {b b' : β} (hf : l.foldlM f b = some b') (hb : P b) : P b' := by
  induction l generalizing b with
  | nil => cases hf; exact hb
  | cons a l ih =>
    rw [List.foldlM_cons] at hf
    obtain ⟨c, hc, hf⟩ := Option.bind_eq_some_iff.1 hf
    exact ih hf (h b a c hc hb)

theorem foldlM_lasting {α : Type} {f : State → α → Option State} (h : ∀ s a t, f s a = some t → t.th.lasting = s.th.lasting)
    {l : List α} {s t : State} (hf : l.foldlM f s = some t) : t.th.lasting = s.th.lasting :=
  foldlM_some_induct (P := fun u => u.th.lasting = s.th.lasting) (fun b a b' hb hk => (h b a b' hb).trans hk) hf rfl

theorem firstRoom_mem {α β : Type} {xs : List α} {f : α → Option β} {s : State} {b : β} (h : firstRoom xs f s = some b) :
    ∃ a, f a = some b := by
  obtain ⟨a, -, ha⟩ := List.exists_of_findSome?_eq_some h
  exact ⟨a, ha⟩

/-! ### Changes to contexts -/

theorem onThreads_lasting {s : State} {p : Thread → Bool} {f : Thread → Thread} (h : ∀ t, (f t).lasting = t.lasting) :
    (s.onThreads p f).th.lasting = s.th.lasting := by
  change (if p s.th then f s.th else s.th).lasting = _
  split
  · exact h s.th
  · rfl

@[simp] theorem dropResv_lasting (p : Thread → Resv → Bool) (s : State) : (dropResv p s).th.lasting = s.th.lasting :=
  onThreads_lasting Thread.lasting_resv

@[simp] theorem breakAtL1_lasting (core asid va n : Nat) (s : State) : (breakAtL1 core asid va n s).th.lasting = s.th.lasting :=
  dropResv_lasting _ s

@[simp] theorem breakAtHome_lasting (cluster asid va n : Nat) (s : State) :
    (breakAtHome cluster asid va n s).th.lasting = s.th.lasting := dropResv_lasting _ s

@[simp] theorem breakAtBank_lasting (pa n : Nat) (s : State) : (breakAtBank pa n s).th.lasting = s.th.lasting := by
  rw [breakAtBank, State.onFab_th, dropResv_lasting]

@[simp] theorem endTask_lasting (id st : Nat) (s : State) : (endTask id st s).th.lasting = s.th.lasting := by
  unfold endTask
  split
  · rfl
  · split
    · rfl
    · rw [onThreads_lasting Thread.lasting_drain, onTask_th]

@[simp] theorem sendStore_lasting (who : Counter) (topinf : Bool) (pa : Nat) (bs : List Byte) (s : State) :
    (sendStore who topinf pa bs s).th.lasting = s.th.lasting := by
  unfold sendStore
  dsimp only
  split
  · simp only [fabSend, countSent, countPacket, State.onFab_th]
    split <;> rfl
  · split
    · exact onThreads_lasting fun t => t.lasting_deviceError _
    · rfl

/-! ### The watches (R233) -/

@[simp] theorem watchWrite_lasting (sel : WatchRec → Nat → Option Word) (s : State) :
    (watchWrite sel s).th.lasting = s.th.lasting := by
  refine foldl_lasting (fun s w => foldl_lasting (fun s a => ?_) _ s) _ s
  split
  · unfold watchMatch
    split
    · rw [onCard_th]
    · rfl
  · rfl

@[simp] theorem watchWords_lasting (all : Bool) (pws : List Nat) (s : State) : (watchWords all pws s).th.lasting = s.th.lasting := by
  unfold watchWords
  split
  · rfl
  · refine foldl_lasting (fun s k => ?_) _ s
    unfold watchBank
    split
    · rfl
    · exact watchWrite_lasting _ s

@[simp] theorem watchHome_lasting (cluster asid va n : Nat) (s : State) : (watchHome cluster asid va n s).th.lasting = s.th.lasting := by
  unfold watchHome
  split
  · rfl
  · exact watchWrite_lasting _ s

/-! ### Homes and banks (R242, R243) -/

theorem markPublished_lasting (h : SliceWord) (v : Lane) (s : State) : (markPublished h v s).th.lasting = s.th.lasting := by
  unfold markPublished
  dsimp only
  split <;> rfl

theorem dropHomes_lasting (hs : List SliceWord) (s : State) : (dropHomes hs s).th.lasting = s.th.lasting := by
  refine foldl_lasting (fun s h => ?_) hs s
  dsimp only
  rw [breakAtHome_lasting]
  split
  · exact breakAtL1_lasting _ _ _ _ _
  · rfl

theorem refuseWord_lasting (h : SliceWord) (st : Nat) (s : State) : (refuseWord h st s).th.lasting = s.th.lasting := by
  rw [refuseWord, endTask_lasting, dropHomes_lasting]

theorem leaveSlice_lasting (cluster asid line : Nat) (s : State) : (leaveSlice cluster asid line s).th.lasting = s.th.lasting := by
  rw [leaveSlice, clearNarrow, State.onMem_th, State.onMem_th, dropHomes_lasting]

theorem bankApply_lasting (die seq : Nat) (words : List BankWord) (s : State) : (bankApply die seq words s).th.lasting = s.th.lasting := by
  refine foldl_lasting (fun s w => ?_) words s
  rw [State.onMem_th, bankPut, breakAtBank_lasting, onLlc, State.onMem_th, State.onMem_th]

theorem takeSeq_th {die n : Nat} {deps : List Nat} {s t : State} (h : takeSeq die s = some (n, deps, t)) : t.th = s.th := by
  unfold takeSeq at h
  dsimp only at h
  split at h
  · cases h
  · cases h
    rfl

theorem publishWords_lasting {die : Nat} {words : List BankWord} {s t : State} (h : publishWords die words s = some t) :
    t.th.lasting = s.th.lasting := by
  unfold publishWords at h
  split at h
  · cases h; rfl
  · split at h
    · cases h
    · next hseq =>
      split at h
      · cases h
        rw [markApplied, State.onMem_th, bankApply_lasting, takeSeq_th hseq]
      · cases h

theorem written_lasting (isOwned : Bool) (h h' : SliceWord) (v : Lane) (s : State) :
    (if isOwned then homePut h s else markPublished h' v s).th.lasting = s.th.lasting := by
  split
  · rfl
  · exact markPublished_lasting h' v s

theorem writeKnown_lasting {own : Bool} {h : SliceWord} {pw : Nat} {s t : State} (hw : writeKnown own h pw s = some t) :
    t.th.lasting = s.th.lasting := by
  unfold writeKnown at hw
  split at hw
  · cases hw; rfl
  · split at hw
    · cases hw
    · split at hw
      · cases hw
        exact refuseWord_lasting _ _ _
      · dsimp only at hw
        split at hw
        · cases hw
          rw [written_lasting, sendStore_lasting]
        · split at hw
          · cases hw
          · obtain ⟨u, hu, rfl⟩ := Option.map_eq_some_iff.1 hw
            rw [setPresent, onLlc, State.onMem_th, written_lasting, publishWords_lasting hu]

theorem recallLine_lasting {cluster asid line pline : Nat} {s t : State} (h : recallLine cluster asid line pline s = some t) :
    t.th.lasting = s.th.lasting := by
  unfold recallLine at h
  split at h
  · cases h
  · obtain ⟨u, hu, ht⟩ := Option.bind_eq_some_iff.1 h
    cases ht
    rw [watchWords_lasting, leaveSlice_lasting]
    exact foldlM_lasting (fun s h t ht => writeKnown_lasting ht) hu

theorem evictBank_lasting {line : Nat} {s t : State} (h : evictBank line s = some t) : t.th.lasting = s.th.lasting := by
  obtain ⟨u, hu, ht⟩ := Option.bind_eq_some_iff.1 h
  cases ht
  exact (breakAtBank_lasting _ _ u).trans (foldlM_lasting (fun s h t ht => recallLine_lasting ht) hu)

theorem roomBank_lasting {line : Nat} {s t : State} (h : roomBank line s = some t) : t.th.lasting = s.th.lasting := by
  unfold roomBank at h
  dsimp only at h
  split at h
  · cases h; rfl
  · split at h
    · cases h; rfl
    · obtain ⟨l, hl⟩ := firstRoom_mem h
      exact evictBank_lasting hl

theorem bankMiss_lasting {tile line : Nat} {s t : State} (h : bankMiss tile line s = some t) : t.th.lasting = s.th.lasting := by
  unfold bankMiss at h
  split at h
  · cases h
  · split at h
    · cases h; rfl
    · obtain ⟨u, hu, rfl⟩ := Option.map_eq_some_iff.1 h
      rw [← roomBank_lasting hu]
      dsimp only
      split
      · split <;> rfl
      · rfl

theorem roomFor_lasting {pws : List Nat} {s t : State} (h : roomFor pws s = some t) : t.th.lasting = s.th.lasting :=
  foldlM_lasting (fun _ _ _ ht => roomBank_lasting ht) h

theorem translate_lasting (unit tile asid va : Nat) (s : State) : (translate unit tile asid va s).2.th.lasting = s.th.lasting := by
  unfold translate
  split
  · split
    · rfl
    · split
      · rfl
      · next u hu =>
        have hk := foldlM_lasting (fun s l t ht => bankMiss_lasting ht) hu
        split
        · exact hk
        · exact hk
        · split <;> exact hk
  · dsimp only
    split <;> rfl

theorem backingOf_lasting (h : SliceWord) (s : State) : (backingOf h s).2.th.lasting = s.th.lasting := by
  have ht := translate_lasting (homeTile h.cluster (4 * h.wa)) (homeTile h.cluster (4 * h.wa)) h.asid (4 * h.wa) s
  unfold backingOf
  dsimp only
  split <;> (next he => rw [he] at ht; exact ht)

theorem writeBack_lasting {own : Bool} {h : SliceWord} {s t : State} {ps : List Nat} (hw : writeBack own h s = some (t, ps)) :
    t.th.lasting = s.th.lasting := by
  have hb := backingOf_lasting h s
  by_cases hn : (if own then sliceDirty h else homeDirty s h).isNone = true
  · rw [writeBack, if_pos hn] at hw
    cases hw
    rfl
  · rw [writeBack, if_neg hn] at hw
    split at hw
    · cases hw
    · next he =>
      cases hw
      rw [refuseWord_lasting, ← hb, he]
    · next u he =>
      rw [he] at hb
      obtain ⟨v, hv, hw⟩ := Option.bind_eq_some_iff.1 hw
      obtain ⟨x, hx, he⟩ := Option.map_eq_some_iff.1 hw
      cases he
      exact (writeKnown_lasting hx).trans ((roomFor_lasting hv).trans hb)

theorem writeBackAll_lasting {own : Bool} {hs : List SliceWord} {s t : State} (h : writeBackAll own hs s = some t) :
    t.th.lasting = s.th.lasting := by
  obtain ⟨r, hr, ht⟩ := Option.bind_eq_some_iff.1 h
  cases ht
  rw [watchWords_lasting]
  refine foldlM_some_induct (P := fun r : State × List Nat => r.1.th.lasting = s.th.lasting) (fun b h b' hb hk => ?_) hr rfl
  split at hb
  · obtain ⟨⟨u, ps⟩, hu, rfl⟩ := Option.map_eq_some_iff.1 hb
    exact (writeBack_lasting hu).trans hk
  · cases hb
    exact hk

theorem evictSlice_lasting {cluster asid line : Nat} {s t : State} (h : evictSlice cluster asid line s = some t) :
    t.th.lasting = s.th.lasting := by
  unfold evictSlice at h
  dsimp only at h
  split at h
  · cases h
  · obtain ⟨u, hu, rfl⟩ := Option.map_eq_some_iff.1 h
    rw [leaveSlice_lasting, writeBackAll_lasting hu]

theorem roomSlice_lasting {cluster asid wa : Nat} {s t : State} (h : roomSlice cluster asid wa s = some t) :
    t.th.lasting = s.th.lasting := by
  unfold roomSlice at h
  dsimp only at h
  split at h
  · cases h; rfl
  · obtain ⟨l, hl⟩ := firstRoom_mem h
    exact evictSlice_lasting hl

/-! ### L1s and the release (R240, R261) -/

theorem putBack_lasting {w : L1Word} {s t : State} (h : putBack w s = some t) : t.th.lasting = s.th.lasting := by
  obtain ⟨u, hu, rfl⟩ := Option.map_eq_some_iff.1 h
  rw [← roomSlice_lasting hu]
  dsimp only
  split
  · rfl
  · exact breakAtHome_lasting _ _ _ _ _

theorem l1WriteBack_lasting {ws : List L1Word} {s t : State} (h : l1WriteBack ws s = some t) : t.th.lasting = s.th.lasting := by
  obtain ⟨r, hr, ht⟩ := Option.bind_eq_some_iff.1 h
  cases ht
  rw [foldl_lasting fun s k => watchHome_lasting _ _ _ _ s]
  refine foldlM_some_induct (P := fun r : State × List (Nat × Nat × Nat) => r.1.th.lasting = s.th.lasting)
    (fun b w b' hb hk => ?_) hr rfl
  split at hb
  · obtain ⟨u, hu, rfl⟩ := Option.map_eq_some_iff.1 hb
    exact (putBack_lasting hu).trans hk
  · cases hb
    exact hk

theorem sendFar_lasting (cluster : Nat) (s : State) : (sendFar cluster s).th.lasting = s.th.lasting := by
  refine foldl_lasting (fun s h => ?_) _ s
  split
  · dsimp only
    split
    · rw [homePut, State.onMem_th, sendStore_lasting]
      exact Thread.lasting_device _ _
    · rw [markPublished_lasting, sendStore_lasting]
      exact Thread.lasting_device _ _
  · rfl

theorem orWait_eq_ok {α : Type} {r : Option α} {a : α} (h : orWait r = .ok a) : r = some a := by
  cases r with
  | none => cases h
  | some b => cases h; rfl

theorem await_eq_ok {ok : Bool} {u : Unit} (h : await ok = .ok u) : ok = true := by
  cases ok with
  | false => cases h
  | true => rfl

/-- A release that does not wait leaves what lasts of the context in focus. -/
theorem releaseAt_lasting {lvl : Nat} {s t : State} (h : releaseAt lvl s = .ok t) : t.th.lasting = s.th.lasting := by
  obtain ⟨-, -, h⟩ := run_bind_ok.1 h
  split at h
  · cases h; rfl
  · obtain ⟨u, hu, h⟩ := run_bind_ok.1 h
    have hk := l1WriteBack_lasting (orWait_eq_ok hu)
    split at h
    · cases h
      exact hk
    · obtain ⟨v, hv, h⟩ := run_bind_ok.1 h
      have hv := writeBackAll_lasting (orWait_eq_ok hv)
      dsimp only at h
      split at h
      · cases h
        exact hv.trans ((sendFar_lasting _ u).trans hk)
      · cases h

end Sys2Proof.Machine
end

section
/-! SUPPORT. Handles: the checks of an operand, the word that reports an entry, and the slots that `adv.c` and `adv.p` move (R23, R297
to R300). -/

namespace Sys2Proof.Machine

open Sys2Proof.Safety

/-! ### The checks of R23 -/

theorem handleEntry_of_undefined {s : State} {h : Nat} (hl : lookup (handleKey s.th h) s.eng.handles = none) (need : Nat) :
    handleEntry h need s = .error (.trap 8 0 (.ofNat 64 h)) := by
  rw [handleKey] at hl
  rw [handleEntry, handleEntryAt, hl]
  rfl

theorem handleEntry_of_short {s : State} {h : Nat} {e : HandleEnt} (hl : lookup (handleKey s.th h) s.eng.handles = some e) {need : Nat}
    (hn : e.slots.length < need) : handleEntry h need s = .error (.trap 8 1 (.ofNat 64 h)) := by
  rw [handleKey] at hl
  simp [handleEntry, handleEntryAt, hl, hn, clsHandle]

theorem handleEntry_of_foreign {s : State} {h : Nat} {e : HandleEnt} (hl : lookup (handleKey s.th h) s.eng.handles = some e) {need : Nat}
    (hn : need ≤ e.slots.length) (ht : e.task ≠ s.th.taskid) : handleEntry h need s = .error (.trap 8 2 (.ofNat 64 h)) := by
  rw [handleKey] at hl
  simp [handleEntry, handleEntryAt, hl, Nat.not_lt.2 hn, ht, clsHandle]

theorem handleEntry_of_own {s : State} {h : Nat} {e : HandleEnt} (hl : lookup (handleKey s.th h) s.eng.handles = some e) {need : Nat}
    (hn : need ≤ e.slots.length) (ht : e.task = s.th.taskid) : handleEntry h need s = .ok e := by
  rw [handleKey] at hl
  simp [handleEntry, handleEntryAt, hl, Nat.not_lt.2 hn, ht]

/-- An operand that fails its checks with its need traps in the instructions that name a need. -/
theorem exec_needing_bad_handle {s : State} {h : HReg} {n : BitVec 4} {cls sub : Nat} {x : Word}
    (hbad : handleEntry h.toNat n.toNat s = .error (.trap cls sub x)) :
    ∀ i ∈ [Instr.hwait h n, .advC h n, .advP h n], exec i s = .next (takeTrap cls sub x s) := by
  have hwait : exec (.hwait h n) s = execHwait h n s := rfl
  have advC : exec (.advC h n) s = execAdvC h n s := rfl
  have advP : exec (.advP h n) s = execAdvP h n s := rfl
  simp [hwait, advC, advP, execHwait, execAdvC, execAdvP, waitHandle, hbad, Except.map]

/-- An operand that fails its checks traps in the instructions that name no need. -/
theorem exec_bad_handle {s : State} {h : HReg} {a : DReg} {cls sub : Nat} {x : Word}
    (hbad : handleEntry h.toNat 0 s = .error (.trap cls sub x)) :
    ∀ i ∈ [Instr.hfree h, .hstat a h], exec i s = .next (takeTrap cls sub x s) := by
  have hfree : exec (.hfree h) s = execHfree h s := rfl
  have hstat : exec (.hstat a h) s = execHstat a h s := rfl
  simp [hfree, hstat, execHfree, execHstat, hbad, Except.map]

/-- The five instructions that name a defined handle, from those without and those with a need. -/
theorem forall_handle_instructions {h : HReg} {a : DReg} {n : BitVec 4} {p : Instr → Prop}
    (hno : ∀ i ∈ [Instr.hfree h, .hstat a h], p i) (hneed : ∀ i ∈ [Instr.hwait h n, .advC h n, .advP h n], p i) :
    ∀ i ∈ [Instr.hfree h, .hwait h n, .hstat a h, .advC h n, .advP h n], p i := by
  simp at hno hneed ⊢
  exact ⟨hno.1, hneed.1, hno.2, hneed.2⟩

/-! ### The state word (R299) -/

/-- The code of a slot, by its place in the ring. -/
def slotCode (x : Option SlotState) : Nat :=
  match x with | some .filling => 1 | some .full => 2 | some .draining => 3 | _ => 0

theorem slotCodes_sum (ss : List SlotState) :
    ((ss.zip (List.range ss.length)).map fun x => x.1.code * 2 ^ (32 + 2 * x.2)).foldl (· + ·) 0 =
      ((List.range ss.length).map fun k => 2 ^ (32 + 2 * k) * slotCode ss[k]?).sum := by
  rw [← List.sum_eq_foldl]
  congr 1
  refine List.ext_getElem (by simp) fun k hk hk' => ?_
  have hks : k < ss.length := by simpa using hk'
  simp only [List.getElem_map, List.getElem_zip, List.getElem_range, List.getElem?_eq_getElem hks]
  cases ss[k] <;> simp [SlotState.code, slotCode, Nat.mul_comm]

/-- The word that `hstat` reads. -/
theorem handleWord_eq (e : HandleEnt) :
    e.word = .ofNat 64 (e.free + 2 ^ 8 * e.full + 2 ^ 16 * (e.slots.length - 1) + 2 ^ 20 * e.prod + 2 ^ 24 * e.cons + 2 ^ 28 * e.fail +
      ((List.range e.slots.length).map fun k => 2 ^ (32 + 2 * k) * slotCode e.slots[k]?).sum) := by
  rw [← slotCodes_sum]
  rfl

/-! ### The ring (R300) -/

theorem slotsAre_ringSlots {e : HandleEnt} {first n : Nat} {x : SlotState}
    (h : ∀ k ∈ (List.range n).map fun k => (first + k) % e.slots.length, e.slots[k]? = some x) :
    slotsAre e (ringSlots e first n) x = true :=
  List.all_eq_true.2 fun k hk => decide_eq_true (h k hk)

theorem onHandle_of_defined {k : Nat} {f : HandleEnt → HandleEnt} {s : State} {e : HandleEnt} (h : lookup k s.eng.handles = some e) :
    onHandle k f s = { s with eng := { s.eng with handles := insert k (f e) s.eng.handles } } := by
  rw [onHandle, h]
  rfl

/-- A release leaves the slot of the context in focus, so that its handles keep their keys. -/
theorem handleKey_releaseAt {lvl h : Nat} {s u : State} (hu : releaseAt lvl s = .ok u) : handleKey u.th h = handleKey s.th h := by
  rw [handleKey, handleKey, Thread.num_of_lasting (releaseAt_lasting hu)]

end Sys2Proof.Machine

namespace Sys2Proof.Proofs

open Sys2Proof.Machine Sys2Proof.Safety

/-- Settles O32: the operand checks once for all instructions, then each instruction on an entry that passes them; `adv.p` finds its entry
again after the release, which leaves the slot of the thread. -/
theorem handlesKeepTheirRing : Obligations.HandlesKeepTheirRing := by
  intro s h a n key set v slots ssize num
  have hdef : exec (.hdef h a) s = execHdef h a s := rfl
  have hfree : exec (.hfree h) s = execHfree h s := rfl
  have hwait : exec (.hwait h n) s = execHwait h n s := rfl
  have hstat : exec (.hstat a h) s = execHstat a h s := rfl
  have advC : exec (.advC h n) s = execAdvC h n s := rfl
  have advP : exec (.advP h n) s = execAdvP h n s := rfl
  refine ⟨fun t hl hv60 hv48 hss ht hhold hal hfit => ?_, fun hl => ?_, fun e hl => ?_⟩
  · have hb60 : bits v 63 60 = 0 := by rw [bits, hv60, Nat.zero_mod]
    have hb48 : bits v 51 48 = 0 := by simpa [bits] using hv48
    have hbs : bits v 47 32 = ssize := rfl
    have hnum : 16 * tileOfCore (coreOf s.th.num) + 4 * bits v 57 56 + bits v 59 58 = num := rfl
    have hbase : bits v 31 0 = v % 2 ^ 32 := by simp [bits]
    have hslots : bits v 55 52 + 1 = slots := rfl
    have hkey : 64 * tileOfCore (coreOf s.th.num) + h.toNat = key := rfl
    have hv : (s.getD a).toNat = v := rfl
    rw [hdef, execHdef]
    simp only [hv, hb60, hb48, hbs, hnum, hbase, hslots, hkey, hl, ht, hhold, handleState, needAligned, hss, hal, hfit,
      ne_eq, not_false_eq_true, decide_true, if_true, run_ok_bind]
    rfl
  · have hbad := handleEntry_of_undefined hl
    have hneed := exec_needing_bad_handle (n := n) (hbad n.toNat)
    have hno := exec_bad_handle (a := a) (hbad 0)
    exact forall_handle_instructions hno hneed
  have hl : lookup (handleKey s.th h.toNat) s.eng.handles = some e := hl
  intro full free ring
  refine ⟨fun hn => exec_needing_bad_handle (handleEntry_of_short hl hn), fun hn ht => ?_,
    fun ht hn => ⟨fun hp hc => ?_, fun hf => ?_, fun hf hfail hh => ?_, ?_, fun hc hr => ?_, fun hp hr u hu hk => ?_⟩⟩
  · have hneed := exec_needing_bad_handle (handleEntry_of_foreign hl hn ht)
    have hno := exec_bad_handle (a := a) (handleEntry_of_foreign hl (Nat.zero_le _) ht)
    exact forall_handle_instructions hno hneed
  · have he := handleEntry_of_own hl (Nat.zero_le _) ht
    simp [hfree, execHfree, he, handleState, hp, hc]
    rfl
  · have he := handleEntry_of_own hl hn ht
    have hful : n.toNat ≤ e.full := hf
    simp [hwait, execHwait, waitHandle, he, handleWait, hful, Except.map]
  · have he := handleEntry_of_own hl hn ht
    have hful : ¬ n.toNat ≤ e.full := Nat.not_le.2 hf
    have hw : waitHandle true (some (h, n)) s = .error .block := by
      simp [waitHandle, he, handleWait, hful, hfail, Except.map]
    rw [hwait, execHwait, hw]
    exact finishRun_block_waits hh
  · have he := handleEntry_of_own hl (Nat.zero_le _) ht
    rw [hstat, execHstat, he]
    refine congrArg (fun w => Host.Outcome.next ((s.setD a w).advance 4)) ((handleWord_eq e).trans ?_)
    rfl
  · have he := handleEntry_of_own hl hn ht
    have hok : (e.consumer.isNone && slotsAre e (ringSlots e e.cons n.toNat) .full) = true := by simp [hc, slotsAre_ringSlots hr]
    rw [advC, execAdvC, he]
    simp only [run_ok_bind, handleState, hok, require_true, onHandle_of_defined hl, finishRun_ok]
    rfl
  · have he := handleEntry_of_own hl hn ht
    have hu' : releaseAt (scopeLevel .tile) s = .ok u := hu
    have hlu : lookup (handleKey s.th h.toNat) u.eng.handles = some e := by rw [hk]; exact hl
    have hok : (e.producer.isNone && slotsAre e (ringSlots e e.prod n.toNat) .free) = true := by simp [hp, slotsAre_ringSlots hr]
    rw [advP, execAdvP, he]
    simp only [run_ok_bind, handleState, hok, require_true, hu', handleKey_releaseAt hu, onHandle_of_defined hlu, finishRun_ok]
    rfl

end Sys2Proof.Proofs
end

section
/-! SUPPORT. The supervisor and event instructions: the status that trap return leaves, the snapshot, the fault records, and the words
of a save area as they are written and read (R37, R108 to R111, R345, R350, R360, R405). -/

namespace Sys2Proof.Machine

open Sys2Proof.Safety

/-! ### Checks -/

theorem needSupervisor_of_user {s : State} (h : s.th.status.getLsbD 0 = false) : needSupervisor s = .error (.trap 2 0 0) := by
  rw [needSupervisor, isSupervisor, h]
  rfl

theorem needSupervisor_of_supervisor {s : State} (h : s.th.status.getLsbD 0 = true) : needSupervisor s = .ok () := by
  rw [needSupervisor, isSupervisor, h]
  rfl

theorem needGlobalAligned_of_misaligned {x : Word} {n : Nat} (h : x.toNat % n ≠ 0) :
    needGlobalAligned x.toNat n = .error (.trap 4 2 x) := by
  rw [needGlobalAligned, decide_eq_false h, BitVec.ofNat_toNat, BitVec.setWidth_eq]
  rfl

theorem needGlobalAligned_of_aligned {va n : Nat} (h : va % n = 0) : needGlobalAligned va n = .ok () := by
  rw [needGlobalAligned, decide_eq_true h]
  rfl

/-! ### Trap return (R37) -/

theorem getLsbD_returnMask : ∀ j : Fin 64,
    (0xFFFFFFFFFFFFFFEA : Word).getLsbD j.val = decide (j.val ≠ 0 ∧ j.val ≠ 2 ∧ j.val ≠ 4) := by
  decide

theorem getLsbD_ite_one : ∀ (b : Bool) (j : Fin 64), (if b then (1 : Word) else 0).getLsbD j.val = (b && decide (j.val = 0)) := by
  decide

theorem getLsbD_ite_four : ∀ (b : Bool) (j : Fin 64), (if b then (4 : Word) else 0).getLsbD j.val = (b && decide (j.val = 2)) := by
  decide

/-- Bit `j` of STATUS after trap return, from its bits PSV and PIE and the bit before. -/
def returnStatusBit (psv pie old : Bool) (j : Nat) : Bool :=
  match j with | 0 => psv | 2 => pie | 4 => false | _ => old

theorem getLsbD_statusAtReturn (status : Word) {j : Nat} (hj : j < 64) : (statusAtReturn status).getLsbD j =
    returnStatusBit (status.getLsbD 1) (status.getLsbD 3) (status.getLsbD j) j := by
  rw [statusAtReturn, BitVec.getLsbD_or, BitVec.getLsbD_or, BitVec.getLsbD_and, getLsbD_returnMask ⟨j, hj⟩,
    getLsbD_ite_one _ ⟨j, hj⟩, getLsbD_ite_four _ ⟨j, hj⟩]
  unfold returnStatusBit
  split <;> simp_all

/-! ### The snapshot (R405) -/

theorem latchSnapshot_of_none {s : State} (h : s.snap.latchAt = none) : latchSnapshot s = s := by
  rw [latchSnapshot, h]

theorem latchSnapshot_of_early {s : State} {n : Nat} (h : s.snap.latchAt = some n) (ht : s.time < n) : latchSnapshot s = s := by
  rw [latchSnapshot, h]
  exact if_pos ht

theorem latchAt_latchSnapshot {s : State} {n : Nat} (h : s.snap.latchAt = some n) (ht : ¬ s.time < n) :
    (latchSnapshot s).snap.latchAt = none := by
  rw [latchSnapshot, h]
  simp only [if_neg ht]

/-- The snapshot requested at a time. -/
def requestSnapshot (time : Nat) (s : State) : State := { s with snap := { s.snap with latchAt := some (time + 2048) } }

theorem time_latchSnapshot (s : State) : (latchSnapshot s).time = s.time := by
  unfold latchSnapshot
  split
  · rfl
  · split <;> rfl

/-- A trigger requests a snapshot, or joins the one requested where its time has not come. -/
theorem triggerSnapshot_eq (s : State) : triggerSnapshot s = match s.snap.latchAt with
    | none => requestSnapshot s.time s
    | some n => if s.time < n then s else requestSnapshot s.time (latchSnapshot s) := by
  unfold triggerSnapshot
  cases h : s.snap.latchAt with
  | none => simp [latchSnapshot_of_none h, h, requestSnapshot]
  | some n =>
    by_cases ht : s.time < n
    · simp [latchSnapshot_of_early h ht, h, ht]
    · simp [latchAt_latchSnapshot h ht, ht, requestSnapshot, time_latchSnapshot]

/-! ### The words of a save area (R350, R360) -/

theorem foldlM_writeArea (va k : Nat) (ws : List Word) (s : State) :
    (ws.zip (List.range' k ws.length)).foldlM (fun s x => writeArea (va + 8 * x.2) x.1 s) s = storeWords (va + 8 * k) ws s := by
  induction ws generalizing k s with
  | nil => rfl
  | cons x ws ih =>
    simp only [List.length_cons, List.range'_succ, List.zip_cons_cons, List.foldlM_cons, storeWords, ih, Nat.mul_add, Nat.add_assoc]

theorem foldlM_readArea (va k n : Nat) (xs : List Word) (s : State) :
    (List.range' k n).foldlM (fun (r : List Word × State) i => do
      let (x, s) ← readArea (va + 8 * i) r.2
      .ok (x :: r.1, s)) (xs, s) = (do
      let (ws, s) ← loadedWords (va + 8 * k) n s
      .ok (ws.reverse ++ xs, s) : Run (List Word × State)) := by
  induction n generalizing k xs s with
  | zero => rfl
  | succ n ih =>
    rw [List.range'_succ, List.foldlM_cons, loadedWords]
    cases readArea (va + 8 * k) s with
    | error e => rfl
    | ok r =>
      have h8 : va + 8 * (k + 1) = va + 8 * k + 8 := by omega
      simp only [run_ok_bind, ih, h8]
      cases loadedWords (va + 8 * k + 8) n r.2 with
      | error e => rfl
      | ok q => simp

/-- Word `k` of an area that has been read. -/
def areaWord (ws : List Word) (k : Nat) : Word := ws.getD k 0

theorem toArray_getD_eq_areaWord (ws : List Word) (i : Nat) : (ws.reverse.reverse.toArray[i]?).getD 0 = areaWord ws i := by
  simp [areaWord, List.getD_eq_getElem?_getD]

/-- What `ctxload` makes of an area that has been read: its checks, the wait for generators, and the context. -/
theorem execCtxload_of_read {s u : State} {a : DReg} {ws : List Word} (hs : s.th.status.getLsbD 0 = true)
    (ha : (s.getD a).toNat % 65536 = 0) (hw : loadedWords (s.getD a).toNat 7104 s = .ok (ws, u)) :
    execCtxload a s = finishRun s (do
      require (areaOk (areaWord ws) && areaWord ws 9 = u.th.spbase && areaWord ws 10 = u.th.spsize &&
        areaWord ws 13 = .ofNat 64 u.th.taskid) clsIll illValue
      require (bits (areaWord ws 0).toNat 39 32 = 0 || bits (areaWord ws 15).toNat 15 0 / 4 = tileOfCore (coreOf u.th.num)) clsIll illValue
      blockUntil (((List.range 8).filter fun i => (areaWord ws (133 + 2 * i)).toNat % 4294967296 ≠ 0).length ≤ (generatorsFor u u.th).length)
      .ok (loadContext (areaWord ws) u)) := by
  have hread := foldlM_readArea (s.getD a).toNat 0 7104 [] s
  rw [Nat.mul_zero, Nat.add_zero, hw] at hread
  simp only [run_ok_bind, List.append_nil] at hread
  simp only [execCtxload, needSupervisor_of_supervisor hs, needGlobalAligned_of_aligned ha, run_ok_bind, areaSize, List.range_eq_range',
    hread, toArray_getD_eq_areaWord]

/-- An area in form that belongs to the context of a state. -/
def AreaGood (w : Nat → Word) (u : State) : Prop :=
  areaOk w = true ∧ w 9 = u.th.spbase ∧ w 10 = u.th.spsize ∧ w 13 = .ofNat 64 u.th.taskid ∧
    ((w 0).toNat / 2 ^ 32 % 256 = 0 ∨ (w 15).toNat % 2 ^ 16 / 4 = u.th.num / 16)

theorem tileOfCore_coreOf (n : Nat) : tileOfCore (coreOf n) = n / 16 := by
  rw [tileOfCore, coreOf, Nat.div_div_eq_div_mul]

/-- The two checks of an area that has been read, in one. -/
theorem areaGood_iff (w : Nat → Word) (u : State) : AreaGood w u ↔
    ((areaOk w && w 9 = u.th.spbase && w 10 = u.th.spsize && w 13 = BitVec.ofNat 64 u.th.taskid) = true ∧
      (bits (w 0).toNat 39 32 = 0 || bits (w 15).toNat 15 0 / 4 = tileOfCore (coreOf u.th.num)) = true) := by
  simp only [AreaGood, Bool.and_eq_true, Bool.or_eq_true, decide_eq_true_eq, tileOfCore_coreOf, and_assoc]
  simp [bits]

/-- A change to the registers of the context in focus leaves the slots held that are held. -/
theorem isNone_thread?_advance (s : State) (n num : Nat) : ((s.advance n).thread? num).isNone = (s.thread? num).isNone := by
  unfold State.thread?
  change (if s.th.live = true ∧ s.th.num = num then some (s.advance n).th else _).isNone = _
  split <;> rfl

/-- `sev` is discarded where the slot holds no context on a fenced die, and else sets the event bit. -/
theorem execSev_of_slot {s : State} {a : DReg} (h : (s.getD a).toNat < 16384) :
    execSev a s = .next (if (s.dieOf (s.getD a).toNat).fenced = true ∧ s.thread? (s.getD a).toNat = none then
      onDie (dieOfCore (coreOf (s.getD a).toNat)) (fun d => { d with discard := d.discard + 1 }) (s.advance 4)
    else setEvent (s.getD a).toNat (s.advance 4)) := by
  have hd : (s.advance 4).dieOf (s.getD a).toNat = s.dieOf (s.getD a).toNat := rfl
  simp only [execSev, decide_eq_true h, require_true, run_ok_bind, finishRun_ok, hd, isNone_thread?_advance, Bool.and_eq_true,
    Option.isNone_iff_eq_none]

/-- The context in focus without its reservation. -/
def withoutReservation (s : State) : State := { s with th := { s.th with resv := none } }

/-- `ctxsave` of a context at rest: its reservation goes, the words are written, and its flits are caught. -/
theorem execCtxsave_of_rest {s u : State} {a : DReg} (hs : s.th.status.getLsbD 0 = true) (ha : (s.getD a).toNat % 65536 = 0)
    (hcnt : (s.th.cntRemote = 0 && s.th.cntGlobal = 0 && s.th.cntDevice = 0) = true) (hst : streamsDrained s = true)
    (hu : storeWords (s.getD a).toNat (areaWords (withoutReservation s) (withoutReservation s).th (s.th.pc + 4)) (withoutReservation s) =
      .ok u) :
    execCtxsave a s = .next ((catchFlits u.th u).advance 4) := by
  have hstore := foldlM_writeArea (s.getD a).toNat 0 (areaWords (withoutReservation s) (withoutReservation s).th (s.th.pc + 4))
    (withoutReservation s)
  rw [Nat.mul_zero, Nat.add_zero, hu, ← List.range_eq_range'] at hstore
  rw [execCtxsave, needSupervisor_of_supervisor hs, run_ok_bind]
  dsimp only
  rw [needGlobalAligned_of_aligned ha, hcnt, hst]
  simp only [run_ok_bind, blockUntil_true]
  simp only [withoutReservation] at hstore
  rw [hstore]
  rfl

/-- `ctxsave` waits for the counts of its context and for its streams. -/
theorem execCtxsave_of_busy {s : State} {a : DReg} (hs : s.th.status.getLsbD 0 = true) (ha : (s.getD a).toNat % 65536 = 0)
    (hbusy : ¬ (s.th.cntRemote = 0 ∧ s.th.cntGlobal = 0 ∧ s.th.cntDevice = 0 ∧ streamsDrained s = true)) (hh : s.th.inHandler = false) :
    execCtxsave a s = .next { s with th := { s.th with waiting := true } } := by
  rw [execCtxsave, needSupervisor_of_supervisor hs, run_ok_bind]
  dsimp only
  rw [needGlobalAligned_of_aligned ha, run_ok_bind, finishRun_blockUntil, finishRun_blockUntil, ← finishRun_block, finishRun_block_waits hh]
  by_cases hcnt : (s.th.cntRemote = 0 && s.th.cntGlobal = 0 && s.th.cntDevice = 0) = true
  · have hst : ¬ streamsDrained s = true := fun hst => by
      simp only [Bool.and_eq_true, decide_eq_true_eq, and_assoc] at hcnt
      obtain ⟨hremote, hglobal, hdevice⟩ := hcnt
      exact hbusy ⟨hremote, hglobal, hdevice, hst⟩
    rw [if_pos hcnt, if_neg hst]
    rfl
  · rw [if_neg hcnt]
    rfl

/-- Whether a fault record is one of a context of the thread's tile. -/
def isRecordOf (s : State) (e : EReg) (p : Nat) : Bool :=
  readNat s.mem.dram (p + 3) 1 = e.toNat && readNat s.mem.dram (p + 4) 2 = s.th.num / 16

@[simp] theorem isRecordOf_iff (s : State) (e : EReg) (p : Nat) :
    isRecordOf s e p = true ↔ readNat s.mem.dram (p + 3) 1 = e.toNat ∧ readNat s.mem.dram (p + 4) 2 = s.th.num / 16 := by
  simp [isRecordOf]

theorem execFltr_eq {s : State} {a : DReg} {e : EReg} (hs : s.th.status.getLsbD 0 = true) : execFltr a e s =
    .next ((s.setD a (.ofNat 64 (((liveRecords (s.dieOf s.th.num)).find? (isRecordOf s e)).getD 0))).advance 4) := by
  simp only [execFltr, needSupervisor_of_supervisor hs, run_ok_bind, finishRun_ok, tileOfCore_coreOf]
  rfl

/-- `preempt` of a slot, after its checks. -/
theorem execPreempt_of_slot {s : State} {a : DReg} (hs : s.th.status.getLsbD 0 = true) (h : (s.getD a).toNat < 16384) :
    execPreempt a s = finishRun s (
      let n := (s.getD a).toNat
      let finish (s : State) : State := { s with th := { s.th with micro := 0 } }.advance 4
      if n = s.th.num then .ok (askPreempt n (s.advance 4))
      else match s.thread? n with
        | none => .ok (finish s)
        | some t =>
          if s.th.micro = 1 then
            if s.preempts.contains n || (s.taskOf t).any fun k => k.doomed then .error .block else .ok (finish s)
          else if s.th.inHandler then .error .block
          else .error (.waitIn { askPreempt n s with th := { (askPreempt n s).th with micro := 1 } })) := by
  simp only [execPreempt, needSupervisor_of_supervisor hs, decide_eq_true h, require_true, run_ok_bind] <;> rfl

end Sys2Proof.Machine

namespace Sys2Proof.Proofs

open Sys2Proof.Machine Sys2Proof.Safety

/-- Settles O50, instruction by instruction: each begins with its checks, and what stands behind them is said once by a lemma
above. A save area is written and read word by word, so that the loops of `ctxsave` and `ctxload` are `storeWords` and
`loadedWords`. -/
theorem supervisorAndEventInstructionsAct : Obligations.SupervisorAndEventInstructionsAct := by
  intro s a e
  dsimp only
  have htret : exec .tret s = execTret s := rfl
  have hidle : exec .idle s = execIdle s := rfl
  have hrsm : exec (.rsm a) s = execRsm a s := rfl
  have hfltr : exec (.fltr a e) s = execFltr a e s := rfl
  have hctxsave : exec (.ctxsave a) s = execCtxsave a s := rfl
  have hctxload : exec (.ctxload a) s = execCtxload a s := rfl
  have hpreempt : exec (.preempt a) s = execPreempt a s := rfl
  have hwfe : exec .wfe s = execWfe s := rfl
  have hsev : exec (.sev a) s = execSev a s := rfl
  have hsnap : exec .snap s = execSnap s := rfl
  refine ⟨fun hu => ?_, fun hs hl => ⟨statusAtReturn s.th.status, fun j hj => getLsbD_statusAtReturn _ hj, ?_⟩, fun hs hl => ?_,
    fun he => ?_, fun he hh => ?_, fun hva => ?_, fun hva hlive => ?_, fun hva hf hn => ?_, fun requested hreq => ⟨fun hn => ?_, fun n hn => ?_⟩,
    fun hs => ?_⟩
  · have hu : needSupervisor s = .error (.trap 2 0 0) := needSupervisor_of_user (by simpa using hu)
    simp [htret, hidle, hrsm, hfltr, hctxsave, hctxload, hpreempt, execTret, execIdle, execRsm, execFltr, execCtxsave, execCtxload,
      execPreempt, hu]
  · rw [htret, execTret, needSupervisor_of_supervisor hs]
    have hlvl : s.th.lvl = trapLevel s.th.status := hl
    simp [trapReturn, hlvl]
  · rw [htret, execTret, needSupervisor_of_supervisor hs]
    have hlvl : s.th.lvl ≠ trapLevel s.th.status := hl
    simp [trapReturn, hlvl, clsLoop]
  · simp [hwfe, execWfe, he]
  · have hblock : execWfe s = finishRun s (.error .block) := by
      rw [execWfe, he]
      rfl
    exact hblock.trans (finishRun_block_waits hh)
  · have hva' : ¬ (s.th.getD a).toNat < 16384 := Nat.not_lt.2 hva
    simp [hsev, execSev, hva', clsIll, illValue]
  · rw [hsev, execSev_of_slot hva, if_neg]
    · rfl
    · rintro ⟨hf, hn⟩
      rcases hlive with hl | hl
      · rw [hl] at hf
        cases hf
      · exact hl hn
  · rw [hsev, execSev_of_slot hva, if_pos ⟨hf, hn⟩]
    exact ⟨_, rfl⟩
  · rw [hsnap, execSnap, triggerSnapshot_eq, State.advance_snap, hn, hreq]
    rfl
  · rw [hsnap, execSnap, triggerSnapshot_eq, State.advance_snap, hn, hreq, finishRun_ok]
    rfl
  have hsup := needSupervisor_of_supervisor hs
  refine ⟨fun hi => ?_, fun hi hh => ?_, fun hva => ?_, fun u hva hu => ?_, ⟨fun hno => ?_, fun k hk ho hb => ?_⟩, fun hva => ?_,
    fun hva hr hg hd hst u hu => ?_, fun hva hn hh => ?_, fun ws u hva hw => ⟨fun hg => ?_, fun hg hb => ?_, fun hg hb hh => ?_⟩,
    fun hva => ?_, fun hva hown => ?_, fun hva hne hno => ?_, fun t hva hne ht hm hh => ?_, fun t hva hne ht hm => ⟨fun hk hh => ?_, fun hk => ?_⟩⟩
  · have he : s.th.intrs.isEmpty = false := by simpa using hi
    simp [hidle, execIdle, hsup, he]
  · rw [hidle, execIdle, hsup, run_ok_bind]
    dsimp only
    rw [if_pos (by rw [hi]; rfl), if_neg (by simp [hh])]
    rfl
  · simp only [hrsm, execRsm, hsup, run_ok_bind, needGlobalAligned_of_misaligned hva, run_error_bind, finishRun_trap]
  · have hu' : releaseAt (scopeLevel .device) s = .ok u := hu
    simp only [hrsm, execRsm, hsup, needGlobalAligned_of_aligned hva, hu', run_ok_bind]
    rfl
  · rw [hfltr, execFltr_eq hs, List.find?_eq_none.2 fun p hp => by simpa using hno p hp]
    rfl
  · have hfound : (liveRecords (s.dieOf s.th.num)).find? (isRecordOf s e) = some (liveRecords (s.dieOf s.th.num))[k] :=
      List.find?_eq_some_iff_getElem.2 ⟨by simpa using ho, k, hk, rfl, fun j hj => ?_⟩
    · rw [hfltr, execFltr_eq hs, hfound]
      rfl
    · rw [Bool.not_eq_true', Bool.eq_false_iff]
      exact fun h => hb j hj (by omega) ((isRecordOf_iff ..).1 h)
  · simp only [List.forall_mem_cons, List.not_mem_nil, hctxsave, hctxload, execCtxsave, execCtxload, hsup, run_ok_bind,
      needGlobalAligned_of_misaligned hva, run_error_bind, finishRun_trap, true_and, false_implies, implies_true]
  · have hcnt : (s.th.cntRemote = 0 && s.th.cntGlobal = 0 && s.th.cntDevice = 0) = true := by simp [hr, hg, hd]
    exact execCtxsave_of_rest hs hva hcnt hst hu
  · exact execCtxsave_of_busy hs hva hn hh
  · rw [hctxload, execCtxload_of_read hs hva hw]
    have hg : ¬ AreaGood (areaWord ws) u := hg
    rw [areaGood_iff, Classical.not_and_iff_not_or_not, Bool.not_eq_true, Bool.not_eq_true] at hg
    rw [finishRun_require, finishRun_require]
    rcases hg with hg | hg
    · simp [hg, clsIll, illValue]
    · simp [hg, clsIll, illValue]
  · have hg : AreaGood (areaWord ws) u := hg
    obtain ⟨hform, htile⟩ := (areaGood_iff _ u).1 hg
    have hb : ((List.range 8).filter fun i => (areaWord ws (133 + 2 * i)).toNat % 4294967296 ≠ 0).length ≤ (generatorsFor u u.th).length := hb
    rw [hctxload, execCtxload_of_read hs hva hw, hform, htile, decide_eq_true hb]
    rfl
  · have hg : AreaGood (areaWord ws) u := hg
    obtain ⟨hform, htile⟩ := (areaGood_iff _ u).1 hg
    have hb : ¬ ((List.range 8).filter fun i => (areaWord ws (133 + 2 * i)).toNat % 4294967296 ≠ 0).length ≤ (generatorsFor u u.th).length :=
      Nat.not_le.2 hb
    rw [hctxload, execCtxload_of_read hs hva hw, hform, htile, decide_eq_false hb, blockUntil_false]
    exact finishRun_block_waits hh
  · have hva' : ¬ (s.th.getD a).toNat < 16384 := Nat.not_lt.2 hva
    simp [hpreempt, execPreempt, hsup, hva', clsIll, illValue]
  · rw [hpreempt, execPreempt_of_slot hs hva, if_pos hown]
    rfl
  · rw [hpreempt, execPreempt_of_slot hs hva, if_neg hne, hno]
    rfl
  · rw [hpreempt, execPreempt_of_slot hs hva, if_neg hne, ht]
    dsimp only
    rw [if_neg (by simp [hm]), if_neg (by simp [hh])]
    rfl
  · have hk : (s.preempts.contains (s.getD a).toNat || (s.taskOf t).any fun k => k.doomed) = true := by simpa [Option.any_eq_true] using hk
    rw [hpreempt, execPreempt_of_slot hs hva, if_neg hne, ht]
    dsimp only
    rw [if_pos hm, if_pos hk]
    exact finishRun_block_waits hh
  · have hk : ¬ (s.preempts.contains (s.getD a).toNat || (s.taskOf t).any fun k => k.doomed) = true := by
      simpa [Option.any_eq_true] using hk
    rw [hpreempt, execPreempt_of_slot hs hva, if_neg hne, ht]
    dsimp only
    rw [if_pos hm, if_neg hk]
    rfl

end Sys2Proof.Proofs
end

section
/-! SUPPORT. A state of the model whose list of tasks holds one key twice, with the card and the scope that its tasks name. -/

namespace Sys2Proof.Machine

/-- A card of one record whose scope is number 3. -/
def cardOfScopeThree : Card :=
  { id := 5, flags := 0, pwidth := 1, cls := 3, chunkf := 1, xbound := 1, rsize := 16, rcount := 1, minchunk := 1, rbase := 0,
    entry := 0, scratch := 0, spill := 0, threads := 1, mset := 0, budget := 0, target := 0, footprint := 0, lease := 0, scope := 3,
    asid := 1, submitter := none, host := none, watched := false, next := 1, count := 1 }

/-- A task of that card whose unit is not confirmed. -/
def requestedTask : Task :=
  { id := 7, card := 5, asid := 1, scope := 3, stage := .requested, slots := [0], live := [0], chunk := (0, 1), deals := [(0, 1)] }

/-- The device with that task listed twice under its key, and its scope cancelling. -/
def taskListedTwice : State :=
  { th := Thread.empty
    cards := [(5, cardOfScopeThree)]
    tasks := [(7, requestedTask), (7, requestedTask)]
    scopes := [(3, { parent := 0, state := 3, kind := 1 })]
    nextId := 8 }

/-- `remove` takes the first of two equal keys: the task under the cancelling scope ends, and its key still finds a task. -/
theorem lookup_finishTask_taskListedTwice :
    lookup 7 (finishTask 7 (cancelStatus taskListedTwice 3) taskListedTwice).tasks = some requestedTask := by
  decide

theorem execEvPlacementRequest_taskListedTwice : execEvPlacementRequest 7 taskListedTwice =
    .next (finishTask 7 (cancelStatus taskListedTwice 3) taskListedTwice) := rfl

end Sys2Proof.Machine

namespace Sys2Proof.Proofs

open Sys2Proof.Machine Sys2Proof.Safety

/-- Refutes O51: the statement speaks of every state, and no hypothesis says that the keys of `tasks` rise. Where a requested task
whose scope is cancelling is listed twice under its key, the end of its launch removes one entry, and `lookup` still finds the other. -/
theorem not_workIsDealtPlacedAndMoved : ¬ Obligations.WorkIsDealtPlacedAndMoved := by
  intro h
  obtain ⟨-, -, hplacement, -⟩ := h taskListedTwice
  obtain ⟨hdoomed, -⟩ := hplacement 7 requestedTask cardOfScopeThree rfl rfl rfl rfl
  obtain ⟨t, c, hnext, hgone, -⟩ := hdoomed (by decide)
  have hexec : exec (.evPlacementRequest 7) taskListedTwice = execEvPlacementRequest 7 taskListedTwice := rfl
  rw [hexec, execEvPlacementRequest_taskListedTwice, Host.Outcome.next.injEq] at hnext
  rw [← hnext, lookup_finishTask_taskListedTwice] at hgone
  cases hgone

end Sys2Proof.Proofs
end
